-- ==== Sys2Proof/Word.lean ====
section
/-! DEFINITION. The word types of the KX432: bytes of a frame, 16-bit fields, 8-byte access codes, and the bounded
numbers of ports, slots, handles, channel records and message records (Table 1-1 of the spec's 00_scope.md). -/

namespace Sys2Proof

/-- A byte of a frame. -/
abbrev Byte := BitVec 8

/-- A 16-bit field: names, tags, masks, serials, waits, lifetimes, counters. -/
abbrev Word := BitVec 16

/-- An 8-byte access code (R8). All zeros means that there is no code. -/
abbrev AccessCode := BitVec 64

/-- P0 to P3. -/
abbrev Port := Fin 4

/-- H0 to H3 (R71). -/
abbrev Slot := Fin 4

/-- A port-local handle, 0 to 7 (R10). -/
abbrev Handle := Fin 8

/-- C0 to C31 (R3). -/
abbrev ChanId := Fin 32

/-- M0 to M255 (R27). -/
abbrev RecId := Fin 256

/-- A cell of the pool, 0 to 1023 (R33). -/
abbrev CellId := Nat

end Sys2Proof
end

