-- ==== Sys2Proof/Names.lean ====
section
/-! DEFINITION. The spec's names: how a frame reaches a port, the expiries of timers, causes of device reset, result
codes, kinds, roles, states, outcomes, event kinds and counters. Their numeric codes are in Decode.lean and
Machine/Layout.lean. -/

namespace Sys2Proof

/-- What an event of a frame is (R192, log 6): the whole frame, with nothing between its beginning and its end; its
beginning alone, the assertion of CSn; or its end alone, the deassertion of CSn, at which the frame does its work. -/
inductive FramePart where
  | whole | begins | ends
  deriving DecidableEq, Repr

/-- How a frame came to its port. `early`: CSn was high for less than 1 µs before this frame (R192); it says nothing where
`part` is the frame's end. -/
structure Link where
  port  : Port
  early : Bool
  part  : FramePart
  deriving DecidableEq, Repr

/-- A command frame without its length and CRC, which follow from the rest (Table 11-1, R193). -/
structure CommandFrame where
  link : Link
  code : Byte
  seq  : Byte
  args : List Byte
  deriving DecidableEq, Repr

/-- The expiry of a timer, an event of its own at the block that owns the timer (R1). -/
inductive Expiry where
  /-- A message record's lifetime (R65). -/
  | lifetime (r : RecId)
  /-- The wait of a port's parked take (R104). -/
  | wait (p : Port)
  /-- The lease of a hand slot (R89). -/
  | lease (p : Port) (i : Slot)
  /-- A port's penalty (R9). -/
  | penalty (p : Port)
  /-- The coalescing timer of an attachment (R172). -/
  | coalescing (p : Port) (h : Handle)
  deriving DecidableEq, Repr

/-- What causes device reset, or may cause it (R2). -/
inductive ResetCause where
  /-- Power-on. -/
  | powerOn
  /-- RESETn low for at least 1 µs. -/
  | lowPulse
  /-- RESETn low for less than 1 µs: a full reset or nothing. -/
  | shortPulse
  deriving DecidableEq, Repr

/-- The result codes of Table 10-1 (R188). -/
inductive Result where
  | none | ok | parked | empty | held | purgeStarted
  | crcError | frameAborted | frameLength | badLength | unknownCommand
  | notSynced
  | badArgument | badHandle | badSlot | ticketMismatch
  | wrongRole | wrongKind
  | nameInUse | noSuchName | noChannelSlot | noAttachSlot | alreadyAttached
  | badCode | penalty
  | channelBusy | channelFull
  | poolExhausted | noMessageSlot | noReceiptRoom
  | handFull | waitActive | noWait
  | watchBusy | notWatcher | notHeld
  | queueShort
  deriving DecidableEq, Repr

/-- Session state of a port (R177). -/
inductive Session where
  | unsynced | active
  deriving DecidableEq, Repr

/-- Channel kind (R7). -/
inductive Kind where
  | point | fanout
  deriving DecidableEq, Repr

/-- Overflow policy (R7). -/
inductive Policy where
  | refuse | shed
  deriving DecidableEq, Repr

/-- Role of an attachment (R11). -/
inductive Role where
  | producer | consumer | subscriber
  deriving DecidableEq, Repr

/-- Channel states (R4); `opened` is the spec's OPEN. -/
inductive ChanState where
  | free | opened | purging | closing
  deriving DecidableEq, Repr

/-- Message record states (R27, R28). -/
inductive RecState where
  | free | queued | inHand | listed | unlisted | doomed
  deriving DecidableEq, Repr

/-- The outcome of a message (Table 2-5, R38). -/
inductive MsgOutcome where
  | taken | delivered | expired | shed | discarded | poisoned
  deriving DecidableEq, Repr

/-- Event kinds (Table 9-1, R164). -/
inductive EventKind where
  | arrival | waitDone | waitExpired | leaseExpired | room | lagged
  | watchHit | channelHeld | channelResumed | purgeDone | statsNearWrap | overflow
  deriving DecidableEq, Repr

/-- The eight statistics counters, in the order of Table 7-2 (R145). -/
inductive Counter where
  | posted | refused | delivered | returned | expired | shed | filtered | discarded
  deriving DecidableEq, Repr

/-- What RETURN answers (R83). -/
inductive Disposition where
  | requeued | poisoned | discarded
  deriving DecidableEq, Repr

end Sys2Proof
end

