-- ==== Sys2Proof/Config.lean ====
section
/-! DEFINITION. What is fixed for the part (Table 1-1, R190) and the free values: choices the spec leaves open. -/

namespace Sys2Proof.Config

/-- Cells in the pool (R33). -/
def cellCount : Nat := 1024
/-- Bytes in a cell (R33). -/
def cellBytes : Nat := 32
/-- Cells each port can always obtain (R35). -/
def reserve : Nat := 64
/-- Shared cells, 1024 − 4 × 64 (R35). -/
def sharedCells : Nat := 768
/-- Message records (R27). -/
def recordCount : Nat := 256
/-- Entries of a receipt queue, reservations included (R151). -/
def receiptRoom : Nat := 16
/-- Ordinary entries of an event queue; OVERFLOW takes one place more (R163). -/
def eventRoom : Nat := 31
/-- Where the count of an OVERFLOW entry stops (R165). -/
def overflowMax : Nat := 255
/-- The greatest redelivery count (R84). -/
def poisonLimit : Nat := 7
/-- Where a taken count stops (R112). -/
def takenMax : Nat := 32
/-- Where a lag count stops (R125). -/
def lagMax : Nat := 65535
/-- Long ticks of the attach penalty (R9). -/
def penaltyTicks : Nat := 100
/-- Consecutive bad codes that start the penalty (R9). -/
def badCodeLimit : Nat := 3
/-- Ticks in a long tick (R1). -/
def ticksPerLong : Nat := 100
/-- Steps of 2 µs in a tick of 100 µs (R1, log 26). -/
def stepsPerTick : Nat := 50
/-- The counter value that queues STATS_NEAR_WRAP (R148). -/
def nearWrap : Word := 49152
/-- The part code of the HELLO response (R190). -/
def partCode : Word := 0x4B32

/-- FREE VALUE (log 8). Does the n-th free choice of the run, a low pulse on RESETn of less than 1 µs, cause a full
device reset (R2: "it causes a full device reset, or it leaves the whole state of the part as it was")? -/
opaque shortPulseResets : Nat → Bool

/-- FREE VALUE (log 7). Is the n-th free choice of the run, a frame that begins less than 1 µs after the last one
ended, taken as a new frame (R192: "The receiver then either takes the new assertion as the start of a new frame, or
ignores every bit clocked until CSn has next been high for at least 1 µs")? -/
opaque earlyFrameTaken : Nat → Bool

/-- FREE VALUE (log 26). With no command waiting and the reclaim engine at work, does the n-th free choice of the run bring
the next tick boundary before the engine's step (R44: "timers that expire at any block are taken between steps", and
"either may be taken first")? -/
opaque clockBeforeStep : Nat → Bool

end Sys2Proof.Config
end

