-- ==== Sys2Proof/Syntax.lean ====
section
/-! DEFINITION. The commands of the KX432: one constructor for each row of spec/opcode_table.json. Operands are raw, as
they stand in the frame: a value out of its range is refused by the command itself (R12, R199). -/

namespace Sys2Proof

/-- The events of the part that the table lists. Frames carry their port, the gap before them and which of the frame's
events is meant (`Link`); commands carry the seq byte of their frame (R193). Timer and reclaim events carry what they
concern. -/
inductive Instr where
  /-- DEVICE_RESET (R2). -/
  | deviceReset (cause : ResetCause)
  /-- FRAME_ERROR (R193): the whole bytes of a command frame that fails a frame check. With no bytes it is a frame of zero
  bytes, which reaches no outcome (R192, log 17). -/
  | frameError (l : Link) (bytes : List Byte)
  /-- COLLECT (R197): the whole bytes that follow the COLLECT code in the frame. -/
  | collect (l : Link) (after : List Byte)
  /-- HELLO (R179). -/
  | hello (l : Link) (seq : Byte) (lease : Word) (options : Byte)
  /-- STATUS (R189). -/
  | status (l : Link) (seq : Byte)
  /-- CREATE (R14). -/
  | create (l : Link) (seq : Byte) (name : Word) (kind depth mark policy : Byte) (code : AccessCode) (role : Byte)
  /-- ATTACH (R16). -/
  | attach (l : Link) (seq : Byte) (name : Word) (role : Byte) (code : AccessCode) (options : Byte)
  /-- DETACH (R18). -/
  | detach (l : Link) (seq : Byte) (handle : Byte)
  /-- PURGE (R45). -/
  | purge (l : Link) (seq : Byte) (handle : Byte)
  /-- CHANNEL_INFO (R25). -/
  | channelInfo (l : Link) (seq : Byte) (handle : Byte)
  /-- POST (R51). -/
  | post (l : Link) (seq : Byte) (handle : Byte) (tag : Word) (flags : Byte) (lifetime : Word) (payload : List Byte)
  /-- TAKE (R74). -/
  | take (l : Link) (seq : Byte) (handle : Byte) (wait : Word)
  /-- READ_HAND (R79). -/
  | readHand (l : Link) (seq : Byte) (slot : Byte)
  /-- RELEASE (R80); the ticket is its source byte and its serial (R199). -/
  | release (l : Link) (seq : Byte) (slot : Byte) (source : Byte) (serial : Word)
  /-- RETURN (R83); the ticket is its source byte and its serial (R199). -/
  | giveBack (l : Link) (seq : Byte) (slot : Byte) (source : Byte) (serial : Word)
  /-- CANCEL_WAIT (R105). -/
  | cancelWait (l : Link) (seq : Byte)
  /-- SET_NOTIFY (R174). -/
  | setNotify (l : Link) (seq : Byte) (handle threshold : Byte) (wait : Word) (stats : Byte)
  /-- SET_FILTER (R115): the content is 0 to 4 two-byte values. -/
  | setFilter (l : Link) (seq : Byte) (handle mode : Byte) (content : List Word)
  /-- WATCH (R133). -/
  | watch (l : Link) (seq : Byte) (handle : Byte) (tag mask : Word) (rearm : Byte)
  /-- UNWATCH (R134). -/
  | unwatch (l : Link) (seq : Byte) (handle : Byte)
  /-- HOLD (R139). -/
  | hold (l : Link) (seq : Byte) (handle : Byte)
  /-- RESUME (R140). -/
  | resume (l : Link) (seq : Byte) (handle : Byte)
  /-- PEEK (R143). -/
  | peek (l : Link) (seq : Byte) (handle index : Byte)
  /-- READ_STATS (R147). -/
  | readStats (l : Link) (seq : Byte) (handle clear : Byte)
  /-- READ_EVENTS (R167). -/
  | readEvents (l : Link) (seq : Byte) (most : Byte)
  /-- DROP_EVENTS (R168). -/
  | dropEvents (l : Link) (seq : Byte) (number : Byte)
  /-- READ_RECEIPTS (R156). -/
  | readReceipts (l : Link) (seq : Byte) (most : Byte)
  /-- DROP_RECEIPTS (R158). -/
  | dropReceipts (l : Link) (seq : Byte) (number : Byte)
  /-- LIFETIME_EXPIRY (R65, R67, R68) of a message record. -/
  | lifetimeExpiry (r : RecId)
  /-- WAIT_EXPIRY (R104) of a port's parked take. -/
  | waitExpiry (p : Port)
  /-- LEASE_EXPIRY (R89) of a hand slot. -/
  | leaseExpiry (p : Port) (i : Slot)
  /-- PENALTY_EXPIRY (R9) of a port. -/
  | penaltyExpiry (p : Port)
  /-- COALESCING_EXPIRY (R172) of an attachment. -/
  | coalescingExpiry (p : Port) (h : Handle)
  /-- RECORD_STEP (R42) of the reclaim engine. -/
  | recordStep
  /-- COMPLETION_STEP (R43) of the reclaim engine. -/
  | completionStep
  /-- LONG_TICK_BOUNDARY (R65, R1). -/
  | longTickBoundary
  deriving DecidableEq, Repr

end Sys2Proof
end

