-- ==== Sys2Proof/Decode.lean ====
section
/-! DEFINITION. The frame receiver (R192, R193), the CRC (R194), the packing of arguments (R199, Table 11-3), and the
encoder of frames. The opcode table gives no row bits, so `decodeTableWord` answers none. -/

namespace Sys2Proof

/-! ## Byte order (R199: "Multi-byte numbers are sent high byte first") -/

/-- The high byte of a two-byte field. -/
def Word.hi (w : Word) : Byte := w.extractLsb' 8 8

/-- The low byte of a two-byte field. -/
def Word.lo (w : Word) : Byte := w.extractLsb' 0 8

/-- A two-byte field, high byte first. -/
def Word.bytes (w : Word) : List Byte := [Word.hi w, Word.lo w]

/-- The two-byte field with the given high and low bytes. -/
def joinWord (hi lo : Byte) : Word := hi ++ lo

/-- Two-byte fields one after another. -/
def wordsBytes (ws : List Word) : List Byte := ws.flatMap Word.bytes

/-- The two-byte fields that bytes spell, none for an odd number of bytes. -/
def joinWords : List Byte → Option (List Word)
  | [] => some []
  | [_] => none
  | a :: b :: rest => (joinWords rest).map (joinWord a b :: ·)

/-- The 8 bytes of an access code (R8, R199). -/
def codeBytes (c : AccessCode) : List Byte :=
  [c.extractLsb' 56 8, c.extractLsb' 48 8, c.extractLsb' 40 8, c.extractLsb' 32 8,
   c.extractLsb' 24 8, c.extractLsb' 16 8, c.extractLsb' 8 8, c.extractLsb' 0 8]

/-- The access code with the given 8 bytes. -/
def joinCode (a b c d e f g h : Byte) : AccessCode :=
  (((((((a ++ b : BitVec 16) ++ c : BitVec 24) ++ d : BitVec 32) ++ e : BitVec 40) ++ f : BitVec 48) ++ g :
    BitVec 56) ++ h : BitVec 64)

/-! ## The bits of a frame (R192) -/

/-- The byte whose bits come in the order given, most significant bit first. -/
def byteOfBits (bs : List Bool) : Byte := bs.foldl (fun a b => a * 2 + (if b then 1 else 0)) 0

/-- The whole bytes of a frame's bits: bits clocked after the last whole byte are not taken into account (R192).
`n` is how many whole bytes there are. -/
def takeBytes : Nat → List Bool → List Byte
  | 0, _ => []
  | n + 1, bs => byteOfBits (bs.take 8) :: takeBytes n (bs.drop 8)

/-- The whole bytes that a frame's bits hold (R192). -/
def wholeBytes (bits : List Bool) : List Byte := takeBytes (bits.length / 8) bits

/-! ## The CRC (R194) -/

/-- One bit of the CRC register's work: polynomial 0x1021, most significant bit first. -/
def crcBit (c : Word) : Word := if c.msb then (c <<< 1) ^^^ 0x1021 else c <<< 1

/-- One byte fed into the CRC register. -/
def crcByte (c : Word) (b : Byte) : Word :=
  crcBit (crcBit (crcBit (crcBit (crcBit (crcBit (crcBit (crcBit (c ^^^ joinWord b 0))))))))

/-- The CRC of a frame or an envelope: register preset to 0xFFFF, no reflection, no final inversion (R194). -/
def crc16 (bytes : List Byte) : Word := bytes.foldl crcByte 0xFFFF

/-! ## Command codes and argument lengths (Table 11-3) -/

/-- The COLLECT code, the first byte of a COLLECT frame. -/
def collectCode : Byte := 0xC0

/-- Whether an argument length is allowed for a command code (Table 11-3); none where the code names no command. -/
def lengthAllowed (code : Byte) (n : Nat) : Option Bool :=
  match code.toNat with
  | 0x01 => some (n == 3)
  | 0x02 => some (n == 0)
  | 0x10 => some (n == 15)
  | 0x11 => some (n == 12)
  | 0x12 => some (n == 1)
  | 0x13 => some (n == 1)
  | 0x14 => some (n == 1)
  | 0x20 => some (6 ≤ n && n ≤ 262)
  | 0x21 => some (n == 3)
  | 0x22 => some (n == 4)
  | 0x23 => some (n == 4)
  | 0x24 => some (n == 1)
  | 0x25 => some (n == 0)
  | 0x30 => some (n == 5)
  | 0x31 => some (n == 2 || n == 4 || n == 6 || n == 8 || n == 10)
  | 0x40 => some (n == 6)
  | 0x41 => some (n == 1)
  | 0x42 => some (n == 1)
  | 0x43 => some (n == 1)
  | 0x44 => some (n == 2)
  | 0x45 => some (n == 2)
  | 0x50 => some (n == 1)
  | 0x51 => some (n == 1)
  | 0x52 => some (n == 1)
  | 0x53 => some (n == 1)
  | _ => none

/-- The check of Table 11-2's rows 4 and 5. -/
def checkLength (code : Byte) (n : Nat) : Option Result :=
  match lengthAllowed code n with
  | none => some .unknownCommand
  | some false => some .badLength
  | some true => none

/-- The frame checks of Table 11-2 in their order; none where all pass. The frame's first byte is not the COLLECT
code. -/
def frameCheck (bytes : List Byte) : Option Result :=
  match bytes with
  | code :: seq :: l1 :: l0 :: rest =>
    let n := (joinWord l1 l0).toNat
    if rest.length < n + 2 then some .frameAborted
    else if n + 2 < rest.length then some .frameLength
    else if rest.drop n ≠ Word.bytes (crc16 (code :: seq :: l1 :: l0 :: rest.take n)) then some .crcError
    else checkLength code n
  | _ => some .frameAborted

/-! ## The encoder -/

/-- A command frame's bytes (Table 11-1). -/
def buildFrame (code seq : Byte) (args : List Byte) : List Byte :=
  let covered := code :: seq :: (Word.bytes (BitVec.ofNat 16 args.length) ++ args)
  covered ++ Word.bytes (crc16 covered)

/-- The command frame that a command stands for, with its arguments packed in the order of its rule (R199); none for
what is no command frame. -/
def Instr.frame : Instr → Option CommandFrame
  | .deviceReset _ => none
  | .frameError _ _ => none
  | .collect _ _ => none
  | .hello l seq lease options => some ⟨l, 0x01, seq, Word.bytes lease ++ [options]⟩
  | .status l seq => some ⟨l, 0x02, seq, []⟩
  | .create l seq name kind depth mark policy code role =>
    some ⟨l, 0x10, seq, Word.bytes name ++ [kind, depth, mark, policy] ++ codeBytes code ++ [role]⟩
  | .attach l seq name role code options =>
    some ⟨l, 0x11, seq, Word.bytes name ++ [role] ++ codeBytes code ++ [options]⟩
  | .detach l seq h => some ⟨l, 0x12, seq, [h]⟩
  | .purge l seq h => some ⟨l, 0x13, seq, [h]⟩
  | .channelInfo l seq h => some ⟨l, 0x14, seq, [h]⟩
  | .post l seq h tag flags lifetime payload =>
    some ⟨l, 0x20, seq, [h] ++ Word.bytes tag ++ [flags] ++ Word.bytes lifetime ++ payload⟩
  | .take l seq h wait => some ⟨l, 0x21, seq, [h] ++ Word.bytes wait⟩
  | .release l seq slot source serial => some ⟨l, 0x22, seq, [slot, source] ++ Word.bytes serial⟩
  | .giveBack l seq slot source serial => some ⟨l, 0x23, seq, [slot, source] ++ Word.bytes serial⟩
  | .readHand l seq slot => some ⟨l, 0x24, seq, [slot]⟩
  | .cancelWait l seq => some ⟨l, 0x25, seq, []⟩
  | .setNotify l seq h threshold wait stats =>
    some ⟨l, 0x30, seq, [h, threshold] ++ Word.bytes wait ++ [stats]⟩
  | .setFilter l seq h mode content => some ⟨l, 0x31, seq, [h, mode] ++ wordsBytes content⟩
  | .watch l seq h tag mask rearm =>
    some ⟨l, 0x40, seq, [h] ++ Word.bytes tag ++ Word.bytes mask ++ [rearm]⟩
  | .unwatch l seq h => some ⟨l, 0x41, seq, [h]⟩
  | .hold l seq h => some ⟨l, 0x42, seq, [h]⟩
  | .resume l seq h => some ⟨l, 0x43, seq, [h]⟩
  | .peek l seq h index => some ⟨l, 0x44, seq, [h, index]⟩
  | .readStats l seq h clear => some ⟨l, 0x45, seq, [h, clear]⟩
  | .readEvents l seq most => some ⟨l, 0x50, seq, [most]⟩
  | .dropEvents l seq number => some ⟨l, 0x51, seq, [number]⟩
  | .readReceipts l seq most => some ⟨l, 0x52, seq, [most]⟩
  | .dropReceipts l seq number => some ⟨l, 0x53, seq, [number]⟩
  | .lifetimeExpiry _ => none
  | .waitExpiry _ => none
  | .leaseExpiry _ _ => none
  | .penaltyExpiry _ => none
  | .coalescingExpiry _ _ => none
  | .recordStep => none
  | .completionStep => none
  | .longTickBoundary => none

/-- The frame an event of the table is: the way it reached its port, and its bytes; none for what is no frame. -/
def encodeFrame (i : Instr) : Option (Link × List Byte) :=
  match i with
  | .frameError l bytes => some (l, bytes)
  | .collect l after => some (l, collectCode :: after)
  | _ => (Instr.frame i).map (fun f => (f.link, buildFrame f.code f.seq f.args))

/-! ## The decoder -/

/-- The command that a code and argument bytes spell (Table 11-3, R199 and each command's rule). -/
def decodeCommand (l : Link) (code seq : Byte) (args : List Byte) : Option Instr :=
  match code.toNat with
  | 0x01 => match args with
    | [a, b, o] => some (.hello l seq (joinWord a b) o)
    | _ => none
  | 0x02 => match args with
    | [] => some (.status l seq)
    | _ => none
  | 0x10 => match args with
    | [n1, n0, k, d, m, p, a, b, c, e, f, g, h, i, r] =>
      some (.create l seq (joinWord n1 n0) k d m p (joinCode a b c e f g h i) r)
    | _ => none
  | 0x11 => match args with
    | [n1, n0, r, a, b, c, e, f, g, h, i, o] =>
      some (.attach l seq (joinWord n1 n0) r (joinCode a b c e f g h i) o)
    | _ => none
  | 0x12 => match args with
    | [h] => some (.detach l seq h)
    | _ => none
  | 0x13 => match args with
    | [h] => some (.purge l seq h)
    | _ => none
  | 0x14 => match args with
    | [h] => some (.channelInfo l seq h)
    | _ => none
  | 0x20 => match args with
    | h :: t1 :: t0 :: f :: l1 :: l0 :: payload =>
      some (.post l seq h (joinWord t1 t0) f (joinWord l1 l0) payload)
    | _ => none
  | 0x21 => match args with
    | [h, w1, w0] => some (.take l seq h (joinWord w1 w0))
    | _ => none
  | 0x22 => match args with
    | [i, p, s1, s0] => some (.release l seq i p (joinWord s1 s0))
    | _ => none
  | 0x23 => match args with
    | [i, p, s1, s0] => some (.giveBack l seq i p (joinWord s1 s0))
    | _ => none
  | 0x24 => match args with
    | [i] => some (.readHand l seq i)
    | _ => none
  | 0x25 => match args with
    | [] => some (.cancelWait l seq)
    | _ => none
  | 0x30 => match args with
    | [h, t, w1, w0, z] => some (.setNotify l seq h t (joinWord w1 w0) z)
    | _ => none
  | 0x31 => match args with
    | h :: m :: content => (joinWords content).map (fun ws => .setFilter l seq h m ws)
    | _ => none
  | 0x40 => match args with
    | [h, t1, t0, m1, m0, z] => some (.watch l seq h (joinWord t1 t0) (joinWord m1 m0) z)
    | _ => none
  | 0x41 => match args with
    | [h] => some (.unwatch l seq h)
    | _ => none
  | 0x42 => match args with
    | [h] => some (.hold l seq h)
    | _ => none
  | 0x43 => match args with
    | [h] => some (.resume l seq h)
    | _ => none
  | 0x44 => match args with
    | [h, i] => some (.peek l seq h i)
    | _ => none
  | 0x45 => match args with
    | [h, c] => some (.readStats l seq h c)
    | _ => none
  | 0x50 => match args with
    | [n] => some (.readEvents l seq n)
    | _ => none
  | 0x51 => match args with
    | [n] => some (.dropEvents l seq n)
    | _ => none
  | 0x52 => match args with
    | [n] => some (.readReceipts l seq n)
    | _ => none
  | 0x53 => match args with
    | [n] => some (.dropReceipts l seq n)
    | _ => none
  | _ => none

/-- The frame receiver: the row of the table that a frame's bytes are. A frame of zero bytes reaches no outcome (R192) and
is the FRAME_ERROR of no bytes (log 17); the COLLECT code makes a COLLECT frame (R197); any other first byte makes a
command frame, refused at a frame check (R193) or taken as the command of its code. -/
def decodeFrame (l : Link) (bytes : List Byte) : Option Instr :=
  match bytes with
  | [] => some (.frameError l [])
  | code :: rest =>
    if code = collectCode then some (.collect l rest)
    else
      match frameCheck (code :: rest) with
      | some _ => some (.frameError l (code :: rest))
      | none =>
        match rest with
        | seq :: _ :: _ :: more => decodeCommand l code seq (more.take (more.length - 2))
        | _ => none

/-- The frame receiver from the bits of a frame (R192). -/
def receiveBits (l : Link) (bits : List Bool) : Option Instr := decodeFrame l (wholeBytes bits)

/-- The command that a word spells by the bits of spec/opcode_table.json. No row of the table has bits. -/
def decodeTableWord (_nbits _w : Nat) : Option Instr := none

end Sys2Proof
end

