-- ==== Sys2Proof/Machine/State.lean ====
section
/-! DEFINITION. The state of the KX432, all of it plain data, and its value after device reset. Views that the spec names
but that other fields determine (occupancy, the attachments of a channel, the name lookup, the set of free cells, the
status byte, ATTNn) are functions in Ops.lean and Flags.lean (log 15). -/

namespace Sys2Proof.Machine

/-- A ticket: source port and serial (R32). -/
structure Ticket where
  source : Port
  serial : Word
  deriving DecidableEq, Repr

/-- An attachment, named by its port and handle (R10). -/
structure AttRef where
  port   : Port
  handle : Handle
  deriving DecidableEq, Repr

/-- A subscriber's tag filter (R113). Bit i of the HASH table is entry i (R199). -/
inductive Filter where
  | all
  | hash (table : Word)
  | exact (tags : List Word)
  deriving DecidableEq, Repr

/-- An attachment record (Table 1-5, R10). -/
structure Attachment where
  channel     : ChanId
  role        : Role
  /-- Notify threshold, 0–32 (R170). -/
  threshold   : Nat
  /-- Notify wait in ticks (R170). -/
  wait        : Word
  statsNotify : Bool
  /-- Unnotified arrival count (R170). -/
  arrivals    : Nat
  /-- Coalescing timer: tick boundaries to its expiry, none when stopped (R170, R1). -/
  timer       : Option Nat
  /-- PRODUCER only (R63). -/
  roomWanted  : Bool
  /-- SUBSCRIBER only (R113). -/
  filter      : Filter
  /-- SUBSCRIBER only, 0–65535 (R125). -/
  lag         : Nat
  /-- SUBSCRIBER only (R125). -/
  lagReported : Bool
  deriving DecidableEq, Repr

/-- A channel's watch (R132). -/
structure Watch where
  tag   : Word
  mask  : Word
  rearm : Bool
  owner : AttRef
  deriving DecidableEq, Repr

/-- The eight counters of a channel, by their numbers in Table 7-2 (R145). -/
abbrev Stats := Vector Word 8

/-- A channel record (Table 1-4, R3). The attachments of a channel are those whose record names it. -/
structure Channel where
  state      : ChanState
  name       : Word
  kind       : Kind
  depthLimit : Nat
  roomMark   : Nat
  policy     : Policy
  code       : AccessCode
  /-- The message list, head first (R30). -/
  list       : List RecId
  /-- The ports of the parked takes on the channel, first in first (R95). -/
  waiters    : List Port
  held       : Bool
  watch      : Option Watch
  stats      : Stats
  /-- The attachment that started the current purge (R45). -/
  purger     : Option AttRef
  deriving DecidableEq, Repr

/-- A FREE channel record: the last column of Table 1-4 (R3). -/
def Channel.free : Channel where
  state := .free
  name := 0
  kind := .point
  depthLimit := 1
  roomMark := 0
  policy := .refuse
  code := 0
  list := []
  waiters := []
  held := false
  watch := none
  stats := Vector.replicate 8 0
  purger := none

/-- A message record (Table 2-1, R27). -/
structure MsgRecord where
  state        : RecState
  ticket       : Ticket
  channel      : Option ChanId
  tag          : Word
  length       : Nat
  /-- The cells that hold the payload, in order (R34). -/
  chain        : List CellId
  urgent       : Bool
  /-- The receipt flag: the poster wants a receipt (R152). -/
  wantsReceipt : Bool
  /-- Lifetime remaining in long ticks (R65). -/
  lifetime     : Option Nat
  /-- The boundary at which the lifetime reaches 0 has come and the expiry, an event of its own (R65), is not yet
  taken. A pause clears it: the boundary then does not count (R69). -/
  expiring     : Bool
  redelivery   : Nat
  /-- FANOUT only (R110). -/
  pending      : List AttRef
  /-- FANOUT only (R111). -/
  holders      : List AttRef
  /-- FANOUT only (R112). -/
  taken        : Nat
  receipted    : Bool
  deriving DecidableEq, Repr

/-- A FREE message record: the last column of Table 2-1 (R27). -/
def MsgRecord.free : MsgRecord where
  state := .free
  ticket := ⟨0, 0⟩
  channel := none
  tag := 0
  length := 0
  chain := []
  urgent := false
  wantsReceipt := false
  lifetime := none
  expiring := false
  redelivery := 0
  pending := []
  holders := []
  taken := 0
  receipted := false

/-- A hand slot (R71). The lease of a HOLDING slot is the number of long-tick boundaries to its expiry (R88). -/
inductive HandSlot where
  | empty
  | reserved
  | holding (record : RecId) (handle : Handle) (ticket : Ticket) (lease : Option Nat)
  deriving DecidableEq, Repr

/-- A parked take (R94). The timer is the number of tick boundaries to the wait's expiry. -/
structure ParkedTake where
  handle : Handle
  slot   : Slot
  timer  : Nat
  deriving DecidableEq, Repr

/-- A response record (R187). -/
structure Response where
  seq    : Byte
  code   : Byte
  result : Result
  data   : List Byte
  isNew  : Bool
  deriving DecidableEq, Repr

/-- An event entry (R164). -/
structure Event where
  kind   : EventKind
  name   : Word
  handle : Option Handle
  slot   : Option Slot
  ticket : Option Ticket
  count  : Option Nat
  deriving DecidableEq, Repr

/-- A receipt entry (R154). -/
structure Receipt where
  ticket  : Ticket
  name    : Word
  tag     : Word
  outcome : MsgOutcome
  detail  : Nat
  deriving DecidableEq, Repr

/-- A port interface (00_scope.md 1.4). -/
structure PortState where
  session          : Session
  /-- 0–255 (R178). -/
  epoch            : Nat
  /-- The hand lease in long ticks, 0 for none (R88). -/
  lease            : Word
  receiptAttention : Bool
  response         : Response
  /-- Consecutive bad-code count, 0–2 (R9). -/
  badCodes         : Nat
  /-- Penalty timer: long-tick boundaries to its expiry, none when stopped (R9). -/
  penalty          : Option Nat
  slots            : Vector HandSlot 4
  parked           : Option ParkedTake
  receipts         : List Receipt
  reservations     : Nat
  events           : List Event
  /-- The ticket serial (R32). -/
  serial           : Word
  /-- The cell pool's charge count of this port (R33). -/
  charge           : Nat
  attachments      : Vector (Option Attachment) 8
  /-- The frame receiver ignores what is clocked until CSn has been high for 1 µs (R192). -/
  deaf             : Bool
  /-- The frame in flight that the receiver takes, if there is one: its status byte, sampled at the assertion of CSn
  (R195, R197, R198). -/
  flight           : Option Byte
  /-- What the port shifted out on SDO during its last frame (R195, R197; log 9). -/
  sdo              : List Byte
  deriving DecidableEq, Repr

/-- The response record after device reset (R187, R191). -/
def Response.reset : Response := ⟨0, 0, .none, [], false⟩

/-- A port interface after device reset (R191, R26, R49, R93, R109, R162, R176). -/
def PortState.reset : PortState where
  session := .unsynced
  epoch := 0
  lease := 0
  receiptAttention := false
  response := Response.reset
  badCodes := 0
  penalty := none
  slots := Vector.replicate 4 .empty
  parked := none
  receipts := []
  reservations := 0
  events := []
  serial := 0
  charge := 0
  attachments := Vector.replicate 8 none
  deaf := false
  flight := none
  sdo := []

/-- An entry of the reclaim engine's work queue (R40). The count is that of a PURGING channel's entry. -/
structure WorkEntry where
  channel : ChanId
  count   : Option Nat
  deriving DecidableEq, Repr

/-- The state of the KX432.
`channels`, `records` and `cells` are tables in the canonical form of Table.wf (Ops.lean): numbers strictly rising, no
entry equal to what an unlisted number stands for (a FREE record; a free cell, which has no contents to read). -/
structure State where
  ports     : Vector PortState 4
  /-- Channel table (R3): the records that are not as Channel.free. -/
  channels  : List (Nat × Channel)
  /-- Message table (R27): the records that are not as MsgRecord.free. -/
  records   : List (Nat × MsgRecord)
  /-- Cell pool (R33): the cells in use with the bytes a post wrote into each. -/
  cells     : List (CellId × List Byte)
  /-- The reclaim engine's work queue, head first (R40). -/
  reclaim   : List WorkEntry
  /-- Tick boundaries since the last long-tick boundary, 0–99 (R1). -/
  tickPhase : Nat
  /-- The model's own: while the reclaim engine has work, how many steps of 2 µs its last step, or its start, lies before
  the next tick boundary at least, 0–51 (log 26). -/
  engineGap : Nat
  /-- The model's own: free choices made so far (log 16). -/
  draws     : Nat
  /-- The model's own: commands that wait, first in first out (log 1). -/
  pending   : List Instr
  deriving DecidableEq, Repr

/-- Reasons for the machine to stop with a fault. The spec names no event that stops the part, so there is none: safe. -/
inductive Fault
  deriving DecidableEq, Repr

/-- Reasons to refuse a command. -/
inductive Refusal where
  /-- The command has no meaning yet; raised by a refused arm of exec alone, of which there is none. Safe. -/
  | notModelled (mnemonic : String)
  deriving DecidableEq, Repr

/-- What a step answers. -/
abbrev Answer := Host.Outcome State Fault Refusal

/-- The part right after device reset (R2, R26, R49, R70, R93, R109, R131, R150, R162, R176, R191; R1 for the tick
count). -/
def State.reset : State where
  ports := Vector.replicate 4 PortState.reset
  channels := []
  records := []
  cells := []
  reclaim := []
  tickPhase := 0
  engineGap := 0
  draws := 0
  pending := []

end Sys2Proof.Machine
end

