-- ==== Sys2Proof/Machine/Table.lean ====
section
/-! DEFINITION. Tables of records by number, in one canonical form (log 15), and sets of attachments. -/

namespace Sys2Proof.Machine

/-- The record of number `k`: `d` where none is listed. -/
def Table.get {α : Type} (d : α) : List (Nat × α) → Nat → α
  | [], _ => d
  | (j, v) :: rest, k => if j = k then v else Table.get d rest k

/-- A table without the record of number `k`. -/
def Table.erase {α : Type} (t : List (Nat × α)) (k : Nat) : List (Nat × α) := t.filter (fun e => e.1 != k)

/-- A table with the record of number `k`, which it does not list, put in its place. -/
def Table.insert {α : Type} (k : Nat) (v : α) : List (Nat × α) → List (Nat × α)
  | [] => [(k, v)]
  | (j, w) :: rest => if k < j then (k, v) :: (j, w) :: rest else (j, w) :: Table.insert k v rest

/-- A table in which the record of number `k` is `v`. The value that an unlisted number stands for is not listed. -/
def Table.put {α : Type} [DecidableEq α] (d : α) (t : List (Nat × α)) (k : Nat) (v : α) : List (Nat × α) :=
  if v = d then Table.erase t k else Table.insert k v (Table.erase t k)

/-- A table with every listed record changed. -/
def Table.mapAll {α : Type} (f : α → α) (t : List (Nat × α)) : List (Nat × α) := t.map (fun e => (e.1, f e.2))

/-- The numbers of a table strictly rise. -/
def Table.rising {α : Type} : List (Nat × α) → Bool
  | [] => true
  | [_] => true
  | a :: b :: rest => decide (a.1 < b.1) && Table.rising (b :: rest)

/-- The canonical form of a table of `n` records: numbers strictly rising and below `n`, no entry equal to what an
unlisted number stands for. -/
def Table.wf {α : Type} [DecidableEq α] (d : α) (n : Nat) (t : List (Nat × α)) : Bool :=
  Table.rising t && t.all (fun e => decide (e.1 < n) && decide (e.2 ≠ d))

/-- The place of an attachment in the order by port, then handle. -/
def AttRef.rank (a : AttRef) : Nat := a.port.val * 8 + a.handle.val

/-- A set of attachments with one more member. Sets are listed in rising order without repeats. -/
def insertRef (a : AttRef) : List AttRef → List AttRef
  | [] => [a]
  | b :: rest => if a = b then b :: rest else if a.rank < b.rank then a :: b :: rest else b :: insertRef a rest

/-- A set of attachments without a member. -/
def eraseRef (a : AttRef) (l : List AttRef) : List AttRef := l.filter (fun b => b != a)

/-- Every attachment a port can have, by port, then handle. -/
def allRefs : List AttRef := (List.finRange 4).flatMap (fun p => (List.finRange 8).map (fun h => ⟨p, h⟩))

end Sys2Proof.Machine
end

