-- ==== Sys2Proof/Machine/Access.lean ====
section
/-! DEFINITION. Reading and changing the parts of the state: every meaning goes through these. -/

namespace Sys2Proof.Machine

/-- A port interface. -/
def State.port (s : State) (p : Port) : PortState := s.ports[p]

/-- A channel record (R3). -/
def State.chan (s : State) (c : ChanId) : Channel := Table.get Channel.free s.channels c.val

/-- A message record (R27). -/
def State.msg (s : State) (r : RecId) : MsgRecord := Table.get MsgRecord.free s.records r.val

/-- An attachment record, none for a free handle (R10). -/
def State.att (s : State) (a : AttRef) : Option Attachment := (s.port a.port).attachments[a.handle]

/-- A hand slot (R71). -/
def State.slot (s : State) (p : Port) (i : Slot) : HandSlot := (s.port p).slots[i]

/-- The bytes in a cell, none in a free one (R33). -/
def State.cell (s : State) (k : CellId) : List Byte := Table.get [] s.cells k

/-- Change a port interface. -/
def State.modPort (s : State) (p : Port) (f : PortState → PortState) : State :=
  { s with ports := s.ports.set p (f (s.port p)) }

/-- Change a channel record. -/
def State.modChan (s : State) (c : ChanId) (f : Channel → Channel) : State :=
  { s with channels := Table.put Channel.free s.channels c.val (f (s.chan c)) }

/-- Change a message record. -/
def State.modMsg (s : State) (r : RecId) (f : MsgRecord → MsgRecord) : State :=
  { s with records := Table.put MsgRecord.free s.records r.val (f (s.msg r)) }

/-- Fill or free an attachment record. -/
def State.setAtt (s : State) (a : AttRef) (t : Option Attachment) : State :=
  s.modPort a.port (fun q => { q with attachments := q.attachments.set a.handle t })

/-- Change an attachment record, if the handle is in use. -/
def State.modAtt (s : State) (a : AttRef) (f : Attachment → Attachment) : State := s.setAtt a ((s.att a).map f)

/-- Change a hand slot. -/
def State.setSlot (s : State) (p : Port) (i : Slot) (x : HandSlot) : State :=
  s.modPort p (fun q => { q with slots := q.slots.set i x })

/-- The attachments of a channel (R3), by port, then handle. -/
def State.attachmentsOf (s : State) (c : ChanId) : List AttRef :=
  allRefs.filter (fun a => match s.att a with
    | some t => t.channel == c
    | none => false)

/-- The attachments of a channel in one role. -/
def State.withRole (s : State) (c : ChanId) (x : Role) : List AttRef :=
  allRefs.filter (fun a => match s.att a with
    | some t => t.channel == c && t.role == x
    | none => false)

/-- The channel that carries a name: the name lookup (R6). -/
def State.lookupName (s : State) (name : Word) : Option ChanId :=
  (List.finRange 32).find? (fun c => (s.chan c).state != .free && (s.chan c).name == name)

/-- The number of cells of the free set (R33). -/
def State.freeCellCount (s : State) : Nat := Config.cellCount - s.cells.length

/-- The free cells, lowest first (R33; log 11). -/
def State.freeCells (s : State) : List CellId :=
  (List.range Config.cellCount).filter (fun k => !(s.cells.any (fun e => e.1 == k)))

/-- The number of FREE message records (R31). -/
def State.freeRecordCount (s : State) : Nat :=
  ((List.finRange 256).filter (fun r => (s.msg r).state == .free)).length

/-- The FREE record that the next accepted post uses (R31 leaves the choice to the table; log 10: the lowest). -/
def State.nextRecord (s : State) : Option RecId := (List.finRange 256).find? (fun r => (s.msg r).state == .free)

/-- The lowest EMPTY slot of a port (R72). -/
def State.emptySlotOf (s : State) (p : Port) : Option Slot := (List.finRange 4).find? (fun i => s.slot p i == .empty)

/-- The lowest free handle of a port (R12). -/
def State.freeHandleOf (s : State) (p : Port) : Option Handle :=
  (List.finRange 8).find? (fun h => (s.att ⟨p, h⟩).isNone)

/-- A port's parked take and the channel of its attachment (R94). -/
def State.parkedOn (s : State) (p : Port) : Option (ChanId × ParkedTake) :=
  match (s.port p).parked with
  | none => none
  | some w => (s.att ⟨p, w.handle⟩).map (fun t => (t.channel, w))

end Sys2Proof.Machine
end

