-- ==== Sys2Proof/Machine/Flags.lean ====
section
/-! DEFINITION. The part's flags and counts that other state determines: occupancy (R50), shared cells (R35), whether a
lifetime runs (R65), the status byte (R198) and the ATTNn line (R169). -/

namespace Sys2Proof.Machine

/-- The records in the hand slots of all ports. -/
def State.inHands (s : State) : List RecId :=
  (List.finRange 4).flatMap (fun p => (List.finRange 4).filterMap (fun i => match s.slot p i with
    | .holding r _ _ _ => some r
    | _ => none))

/-- The occupancy of a channel (R50). POINT: QUEUED records in the list and IN_HAND records taken from the channel, in
any port's hand slots. FANOUT: LISTED records in the list. -/
def State.occupancy (s : State) (c : ChanId) : Nat :=
  let ch := s.chan c
  match ch.state with
  | .free => 0
  | _ =>
    match ch.kind with
    | .point =>
      ch.list.countP (fun r => (s.msg r).state == .queued) +
        s.inHands.countP (fun r => (s.msg r).state == .inHand && (s.msg r).channel == some c)
    | .fanout => ch.list.countP (fun r => (s.msg r).state == .listed)

/-- The part of a charge that lies in the shared cells, max(0, c − 64) (R35). -/
def sharedPart (c : Nat) : Nat := c - Config.reserve

/-- The shared cells in use, S of R35. -/
def State.sharedInUse (s : State) : Nat :=
  sharedPart (s.port 0).charge + sharedPart (s.port 1).charge + sharedPart (s.port 2).charge +
    sharedPart (s.port 3).charge

/-- Whether a record's lifetime is running (R65). -/
def State.lifetimeRunning (s : State) (m : MsgRecord) : Bool :=
  (m.state == .queued || m.state == .listed) &&
    match m.channel with
    | none => false
    | some c => (s.chan c).state == .opened && !(s.chan c).held

/-- At least one hand slot of the port is HOLDING (R72). -/
def PortState.handAny (q : PortState) : Bool := q.slots.toList.any (fun x => match x with
  | .holding _ _ _ _ => true
  | _ => false)

/-- The number of HOLDING slots of a port (R72). -/
def PortState.holdingCount (q : PortState) : Nat := q.slots.toList.countP (fun x => match x with
  | .holding _ _ _ _ => true
  | _ => false)

/-- A bit of a byte, with the value it has when set. -/
def bitValue (b : Bool) (n : Nat) : Nat := if b then n else 0

/-- The status byte of a port (Table 11-5, R198). -/
def State.statusByte (s : State) (p : Port) : Byte :=
  let q := s.port p
  BitVec.ofNat 8 (bitValue (q.session == .active) 128 + bitValue (!q.events.isEmpty) 64 +
    bitValue (!q.receipts.isEmpty) 32 + bitValue q.response.isNew 16 + bitValue q.penalty.isSome 8 +
    bitValue q.handAny 4 + p.val)

/-- Whether a port's ATTNn line is asserted, that is low (R169). -/
def State.attnAsserted (s : State) (p : Port) : Bool :=
  let q := s.port p
  q.session == .active && (!q.events.isEmpty || (q.receiptAttention && !q.receipts.isEmpty))

end Sys2Proof.Machine
end

