-- ==== Sys2Proof/Machine/Ops.lean ====
section
/-! DEFINITION. The shared operations of the part: queueing an event, counting, issuing an outcome, freeing a record,
filling and emptying hand slots, binding, handing back, arrivals, dooming, closing, detaching, the ROOM check, and the
passing of time. Each is written once; the meanings of the commands call them. -/

namespace Sys2Proof.Machine

/-! ## Events (chapter 9) -/

/-- The OVERFLOW entry with count 1 (R164, R165). -/
def overflowEntry : Event := ⟨.overflow, 0, none, none, none, some 1⟩

/-- An OVERFLOW entry that has lost one event more (R165). -/
def Event.lostOne (e : Event) : Event :=
  if e.kind = .overflow then { e with count := e.count.map (fun n => min (n + 1) Config.overflowMax) } else e

/-- Place an event in an event queue (R165). -/
def placeEvent (q : List Event) (e : Event) : List Event :=
  if q.any (fun x => x.kind == .overflow) then q.map Event.lostOne
  else if q.length < Config.eventRoom then q ++ [e]
  else q ++ [overflowEntry]

/-- Queue an event at a port (R165). -/
def queueEvent (s : State) (p : Port) (e : Event) : State :=
  s.modPort p (fun q => { q with events := placeEvent q.events e })

/-- Queue one event for each of some attachments, at the attachment's port, in the order given (R13). -/
def notifyEach (s : State) (refs : List AttRef) (mk : AttRef → Event) : State :=
  refs.foldl (fun s a => queueEvent s a.port (mk a)) s

/-- An event that carries a channel and a handle, and a count if any. -/
def handleEvent (k : EventKind) (name : Word) (h : Handle) (count : Option Nat) : Event :=
  ⟨k, name, some h, none, none, count⟩

/-- An event that carries a channel, a handle, a slot and a ticket. -/
def slotEvent (k : EventKind) (name : Word) (h : Handle) (i : Slot) (t : Ticket) : Event :=
  ⟨k, name, some h, some i, some t, none⟩

/-! ## Statistics (chapter 7) -/

/-- The number of a counter (Table 7-2). -/
def counterNumber : Counter → Fin 8
  | .posted => 0
  | .refused => 1
  | .delivered => 2
  | .returned => 3
  | .expired => 4
  | .shed => 5
  | .filtered => 6
  | .discarded => 7

/-- The attachments of a channel whose stats-notify is on. -/
def State.statsWatchers (s : State) (c : ChanId) : List AttRef :=
  allRefs.filter (fun a => match s.att a with
    | some t => t.channel == c && t.statsNotify
    | none => false)

/-- Raise a counter of a channel by one, from 65535 to 0 (R145); at exactly 49152 queue STATS_NEAR_WRAP (R148). -/
def bump (s : State) (c : ChanId) (k : Counter) : State :=
  let v := (s.chan c).stats[(counterNumber k)] + 1
  let s' := s.modChan c (fun ch => { ch with stats := ch.stats.set (counterNumber k) v })
  if v = Config.nearWrap then
    notifyEach s' (s'.statsWatchers c)
      (fun a => handleEvent .statsNearWrap (s.chan c).name a.handle (some (counterNumber k).val))
  else s'

/-! ## Outcomes and the free of a record (chapters 2 and 8) -/

/-- The counter that an outcome raises (Table 2-5). -/
def counterOf : MsgOutcome → Counter
  | .taken => .delivered
  | .delivered => .delivered
  | .expired => .expired
  | .shed => .shed
  | .discarded => .discarded
  | .poisoned => .discarded

/-- Issue of a receipt at the record's source port, if the record's receipt flag is set (R153, R154). -/
def queueReceipt (s : State) (c : ChanId) (r : RecId) (o : MsgOutcome) (detail : Nat) : State :=
  let m := s.msg r
  if m.wantsReceipt then
    (s.modPort m.ticket.source (fun q =>
      { q with receipts := q.receipts ++ [⟨m.ticket, (s.chan c).name, m.tag, o, detail⟩],
               reservations := q.reservations - 1 })).modMsg r (fun m => { m with wantsReceipt := false })
  else s

/-- Issue an outcome for a record of channel `c`: nothing where one has been issued already (R38). -/
def issue (s : State) (c : ChanId) (r : RecId) (o : MsgOutcome) (detail : Nat) : State :=
  if (s.msg r).receipted then s
  else
    queueReceipt (bump (s.modMsg r (fun m => { m with receipted := true })) c (counterOf o)) c r o detail

/-- A record leaves its channel's list, if it is in it (R30). -/
def leaveList (s : State) (c : ChanId) (r : RecId) : State :=
  s.modChan c (fun ch => { ch with list := ch.list.filter (fun x => x != r) })

/-- Cells go back to the free set and their port's charge falls (R36). -/
def returnCells (s : State) (chain : List CellId) (source : Port) : State :=
  { s.modPort source (fun q => { q with charge := q.charge - chain.length }) with
    cells := s.cells.filter (fun e => !(chain.contains e.1)) }

/-- Free a record of channel `c` with an outcome (R39). -/
def freeRecord (s : State) (c : ChanId) (r : RecId) (o : MsgOutcome) (detail : Nat) : State :=
  let s := leaveList (issue s c r o detail) c r
  (returnCells s (s.msg r).chain (s.msg r).ticket.source).modMsg r (fun _ => MsgRecord.free)

/-- A FANOUT record leaves the list and becomes UNLISTED; its lifetime stops (R28, R66). -/
def unlist (s : State) (c : ChanId) (r : RecId) : State :=
  (leaveList s c r).modMsg r (fun m => { m with state := .unlisted, pending := [], expiring := false })

/-- What becomes of a LISTED record when its pending set is empty: UNLISTED if it has holders, else freed with
DELIVERED and its taken count (R28, R20, R119, R122). -/
def settlePending (s : State) (c : ChanId) (r : RecId) : State :=
  if (s.msg r).pending.isEmpty then
    if (s.msg r).holders.isEmpty then freeRecord s c r .delivered (s.msg r).taken else unlist s c r
  else s

/-! ## Cells of a payload (R34, R35) -/

/-- The number of cells of a payload of `n` bytes, ceil(n/32) (R34). -/
def cellsFor (n : Nat) : Nat := (n + (Config.cellBytes - 1)) / Config.cellBytes

/-- The part of a payload that stands in cell number `j` of its chain (R34). -/
def chunk (payload : List Byte) (j : Nat) : List Byte := (payload.drop (Config.cellBytes * j)).take Config.cellBytes

/-- Write a payload into the cells of a chain, from cell number `j` of the chain on (R34). -/
def writeCells (cells : List (CellId × List Byte)) (payload : List Byte) : List CellId → Nat →
    List (CellId × List Byte)
  | [], _ => cells
  | k :: rest, j => writeCells (Table.put [] cells k (chunk payload j)) payload rest (j + 1)

/-- The payload of a record: exactly its length in bytes, copied from its chain (R34). -/
def State.payload (s : State) (r : RecId) : List Byte :=
  ((s.msg r).chain.flatMap s.cell).take (s.msg r).length

/-- Whether the pool admits `k` cells for a port (the allocation rule, R35). -/
def State.poolAdmits (s : State) (p : Port) (k : Nat) : Bool :=
  let c := (s.port p).charge
  s.sharedInUse + (sharedPart (c + k) - sharedPart c) ≤ Config.sharedCells

/-! ## Hand slots (chapter 4) -/

/-- The lease timer of a slot filled now (R88). -/
def leaseTimer (lease : Word) : Option Nat := if lease = 0 then none else some lease.toNat

/-- A slot becomes HOLDING (R71, R76, R99). -/
def fillSlot (s : State) (p : Port) (i : Slot) (r : RecId) (h : Handle) : State :=
  s.setSlot p i (.holding r h (s.msg r).ticket (leaseTimer (s.port p).lease))

/-- A QUEUED record leaves the list and becomes IN_HAND; its lifetime is paused (R76, R66). -/
def takeIntoHand (s : State) (c : ChanId) (r : RecId) : State :=
  (leaveList s c r).modMsg r (fun m => { m with state := .inHand, expiring := false })

/-- A subscriber takes a FANOUT record: it leaves the pending set and joins the holder set, the taken count rises
(R112), and the record is unlisted if no subscriber is pending any more (R77, R119, R102). -/
def takeByHolder (s : State) (c : ChanId) (r : RecId) (a : AttRef) : State :=
  settlePending (s.modMsg r (fun m =>
    { m with pending := eraseRef a m.pending, holders := insertRef a m.holders,
             taken := min (m.taken + 1) Config.takenMax })) c r

/-- Clear a SUBSCRIBER's lag-reported flag (R77, R99). -/
def clearLagReported (s : State) (a : AttRef) : State :=
  s.modAtt a (fun t => if t.role = .subscriber then { t with lagReported := false } else t)

/-! ## Parked takes (chapter 5) -/

/-- A port's parked take on channel `c` ends without a message: its entry leaves the waiter list, its timer stops and
its slot becomes EMPTY (R94, R104, R105, R106). -/
def dropParked (s : State) (c : ChanId) (p : Port) (w : ParkedTake) : State :=
  ((s.modChan c (fun ch => { ch with waiters := ch.waiters.filter (fun x => x != p) })).setSlot p w.slot .empty).modPort p
    (fun q => { q with parked := none })

/-- The work of every bind at the port of the parked take (R99). -/
def bindSlot (s : State) (c : ChanId) (r : RecId) (p : Port) (w : ParkedTake) : State :=
  let t := (s.msg r).ticket
  let s := fillSlot s p w.slot r w.handle
  let s := s.modChan c (fun ch => { ch with waiters := ch.waiters.filter (fun x => x != p) })
  let s := s.modPort p (fun q => { q with parked := none })
  let s := clearLagReported s ⟨p, w.handle⟩
  queueEvent s p (slotEvent .waitDone (s.chan c).name w.handle w.slot t)

/-- Bind a POINT record to the parked take of a port (R100, R101). -/
def bindPoint (s : State) (c : ChanId) (r : RecId) (p : Port) : State :=
  match (s.port p).parked with
  | none => s
  | some w => bindSlot (takeIntoHand s c r) c r p w

/-- Bind a FANOUT record to the parked take of a port if its subscriber is in the record's pending set (R102). -/
def bindFanout (s : State) (c : ChanId) (r : RecId) (p : Port) : State :=
  match (s.port p).parked with
  | none => s
  | some w =>
    if (s.msg r).pending.contains ⟨p, w.handle⟩ then bindSlot (takeByHolder s c r ⟨p, w.handle⟩) c r p w else s

/-! ## Arrivals and coalescing (chapter 9) -/

/-- One arrival for an attachment, made by a record with or without the urgent flag (R171, R173). -/
def arrive (s : State) (c : ChanId) (urgent : Bool) (a : AttRef) : State :=
  match s.att a with
  | none => s
  | some t =>
    if t.threshold = 0 then s
    else if urgent || t.arrivals + 1 == t.threshold then
      queueEvent (s.modAtt a (fun t => { t with arrivals := 0, timer := none })) a.port
        (handleEvent .arrival (s.chan c).name a.handle (some (t.arrivals + 1)))
    else
      s.modAtt a (fun t =>
        { t with arrivals := t.arrivals + 1,
                 timer := if t.timer.isNone && t.wait != 0 then some t.wait.toNat else t.timer })

/-- Arrivals for several attachments, in the order given (log 13). -/
def arriveAll (s : State) (c : ChanId) (urgent : Bool) (refs : List AttRef) : State :=
  refs.foldl (fun s a => arrive s c urgent a) s

/-! ## Handing back (chapter 4) -/

/-- Requeue a POINT record at the head of the list (R85): it binds to the first waiter of an unheld channel (R101), or
is an arrival for every consumer (R61). No expiry of it is due (log 5). -/
def requeue (s : State) (c : ChanId) (r : RecId) : State :=
  let s := (s.modMsg r (fun m =>
    { m with state := .queued, redelivery := m.redelivery + 1, expiring := false })).modChan c
    (fun ch => { ch with list := r :: ch.list })
  match (s.chan c).held, (s.chan c).waiters with
  | false, p :: _ => bindPoint s c r p
  | _, _ => arriveAll s c (s.msg r).urgent (s.withRole c .consumer)

/-- The hand-back of a POINT record, its slot already emptied (R84, R48, R87). -/
def handBackPoint (s : State) (c : ChanId) (r : RecId) : State × Disposition :=
  let s := bump s c .returned
  if (s.chan c).state = .opened then
    if (s.msg r).redelivery < Config.poisonLimit then (requeue s c r, .requeued)
    else (freeRecord s c r .poisoned 0, .poisoned)
  else (freeRecord s c r .discarded 0, .discarded)

/-- A holder of a FANOUT record lets it go, its slot already emptied (R82, R86, R47). -/
def releaseFanout (s : State) (c : ChanId) (r : RecId) (a : AttRef) : State :=
  let s := s.modMsg r (fun m => { m with holders := eraseRef a m.holders })
  if (s.msg r).state = .unlisted ∧ (s.msg r).holders.isEmpty then freeRecord s c r .delivered (s.msg r).taken else s

/-- A record leaves a hand without its master's word: handed back (POINT) or released (FANOUT), its slot already emptied
(R84, R86). -/
def handBackRecord (s : State) (r : RecId) (a : AttRef) : State :=
  match (s.msg r).channel with
  | none => s
  | some c =>
    match (s.chan c).kind with
    | .point => (handBackPoint s c r).1
    | .fanout => releaseFanout s c r a

/-- Empty a HOLDING slot and hand its record back, with no event (R19, R92). -/
def handBackSlot (s : State) (p : Port) (i : Slot) : State :=
  match s.slot p i with
  | .holding r h _ _ => handBackRecord (s.setSlot p i .empty) r ⟨p, h⟩
  | _ => s

/-- Hand back the HOLDING slots of a port taken through one attachment, in ascending slot order (R19). -/
def handBackThrough (s : State) (a : AttRef) : State :=
  (List.finRange 4).foldl (fun s i => match s.slot a.port i with
    | .holding _ h _ _ => if h = a.handle then handBackSlot s a.port i else s
    | _ => s) s

/-- Hand back every HOLDING slot of a port, in ascending slot order (R92). -/
def handBackAll (s : State) (p : Port) : State := (List.finRange 4).foldl (fun s i => handBackSlot s p i) s

/-! ## The held flag (chapter 7) -/

/-- Set the held flag: the lifetimes of the records in the list are paused (R66, R69, R138). -/
def setHeld (s : State) (c : ChanId) : State :=
  (s.chan c).list.foldl (fun s r => s.modMsg r (fun m => { m with expiring := false }))
    (s.modChan c (fun ch => { ch with held := true }))

/-- The attachments of a channel that CHANNEL_HELD and CHANNEL_RESUMED go to (R141). -/
def State.listeners (s : State) (c : ChanId) : List AttRef :=
  allRefs.filter (fun a => match s.att a with
    | some t => t.channel == c && t.role != .producer
    | none => false)

/-- Queue CHANNEL_HELD or CHANNEL_RESUMED for every consumer and subscriber of a channel (R141). -/
def announce (s : State) (c : ChanId) (k : EventKind) : State :=
  notifyEach s (s.listeners c) (fun a => handleEvent k (s.chan c).name a.handle none)

/-! ## Dooming, closing and detaching (chapters 1 and 2) -/

/-- A QUEUED or LISTED record becomes DOOMED (R41). -/
def MsgRecord.doom (m : MsgRecord) : MsgRecord :=
  if m.state = .queued ∨ m.state = .listed then { m with state := .doomed, pending := [], expiring := false } else m

/-- Every QUEUED or LISTED record of a channel's list becomes DOOMED (R41). -/
def doomList (s : State) (c : ChanId) : State :=
  (s.chan c).list.foldl (fun s r => s.modMsg r MsgRecord.doom) s

/-- A channel becomes FREE: its record takes the FREE values, its name is released, and its entry, if any, leaves the
work queue (R22, R24). -/
def freeChannel (s : State) (c : ChanId) : State :=
  { s.modChan c (fun _ => Channel.free) with reclaim := s.reclaim.filter (fun e => e.channel != c) }

/-- A channel joins the tail of the work queue (R40). -/
def joinWork (s : State) (e : WorkEntry) : State := { s with reclaim := s.reclaim ++ [e] }

/-- A channel becomes CLOSING (R23): an OPEN one joins the tail of the work queue with no count, a PURGING one keeps its
place and its count is dropped (R40). -/
def closeChannel (s : State) (c : ChanId) : State :=
  let wasOpen := (s.chan c).state == .opened
  let s := (doomList s c).modChan c
    (fun ch => { ch with state := .closing, held := false, watch := none, purger := none })
  if wasOpen then joinWork s ⟨c, none⟩
  else { s with reclaim := s.reclaim.map (fun e => if e.channel = c then { e with count := none } else e) }

/-- Close an OPEN or PURGING channel that has no attachments left (R18 step 6, R22, R23). -/
def closeIfLast (s : State) (c : ChanId) : State :=
  if ((s.chan c).state = .opened ∨ (s.chan c).state = .purging) ∧ (s.attachmentsOf c).isEmpty then
    if (s.chan c).list.isEmpty then freeChannel s c else closeChannel s c
  else s

/-- A detaching subscriber leaves the pending sets of the channel's records, in list order (R20). -/
def leavePending (s : State) (c : ChanId) (a : AttRef) : State :=
  (s.chan c).list.foldl (fun s r =>
    if (s.msg r).pending.contains a then
      settlePending (s.modMsg r (fun m => { m with pending := eraseRef a m.pending })) c r
    else s) s

/-- The watch and the purging attachment when an attachment detaches (R21). -/
def forgetOwner (s : State) (c : ChanId) (a : AttRef) : State :=
  s.modChan c (fun ch =>
    { ch with watch := ch.watch.filter (fun w => w.owner != a), purger := ch.purger.filter (fun x => x != a) })

/-- Detach an attachment (R18 to R23). Its record is freed at once, so that it is no target of the later steps (R18 step
1); nothing in the event fills it again. -/
def detach (s : State) (a : AttRef) : State :=
  match s.att a with
  | none => s
  | some t =>
    let c := t.channel
    let s := s.setAtt a none
    let s := match (s.port a.port).parked with
      | some w => if w.handle = a.handle then dropParked s c a.port w else s
      | none => s
    let s := handBackThrough s a
    let s := if t.role = .subscriber then leavePending s c a else s
    closeIfLast (forgetOwner s c a) c

/-- A port's parked take, if any, ends without a message (R181 step 1, R106). -/
def dropOwnParked (s : State) (p : Port) : State :=
  match s.parkedOn p with
  | some (c, w) => dropParked s c p w
  | none => s

/-- Detach every attachment of a port, in ascending handle order (R181 step 3). -/
def detachAll (s : State) (p : Port) : State := (List.finRange 8).foldl (fun s h => detach s ⟨p, h⟩) s

/-- A live record of a port loses its receipt flag (R160). -/
def MsgRecord.disown (p : Port) (m : MsgRecord) : MsgRecord :=
  if m.state ≠ .free ∧ m.ticket.source = p then { m with wantsReceipt := false } else m

/-- The queues of a port are emptied and its records lose their receipt flags (R181 steps 4 and 5, R160). -/
def emptyQueues (s : State) (p : Port) : State :=
  let s := s.modPort p (fun q => { q with events := [], receipts := [], reservations := 0 })
  { s with records := Table.mapAll (MsgRecord.disown p) s.records }

/-- Session teardown of a port (R181). -/
def teardown (s : State) (p : Port) : State :=
  emptyQueues (detachAll (handBackAll (dropOwnParked s p) p) p) p

/-! ## The ROOM check (chapter 3) -/

/-- The PRODUCER attachments of a channel whose room-wanted flag is set. -/
def State.roomWaiters (s : State) (c : ChanId) : List AttRef :=
  allRefs.filter (fun a => match s.att a with
    | some t => t.channel == c && t.role == .producer && t.roomWanted
    | none => false)

/-- The ROOM check of a channel (R64). -/
def roomCheck (s : State) (c : ChanId) : State :=
  if s.occupancy c ≤ (s.chan c).roomMark then
    (s.roomWaiters c).foldl (fun s a =>
      queueEvent (s.modAtt a (fun t => { t with roomWanted := false })) a.port
        (handleEvent .room (s.chan c).name a.handle none)) s
  else s

/-- The end of an event that began in state `before`: the ROOM check runs on every OPEN channel whose occupancy is lower
than it was (R64), in ascending order of channel records (log 12). -/
def endOfEvent (before after : State) : State :=
  (List.finRange 32).foldl (fun s c =>
    if (after.chan c).state == .opened && decide (after.occupancy c < before.occupancy c) then roomCheck s c else s) after

/-- An engine that an event finds idle and leaves with work starts as the event ends, which may be just before a tick
boundary; one that the event finds with work goes on without a gap, whatever joins and leaves the work queue within the
event (R1, R44, log 26). -/
def startEngine (before after : State) : State :=
  { after with engineGap := if before.reclaim.isEmpty && !after.reclaim.isEmpty then 0 else after.engineGap }

/-! ## The clock (R1, log 3) -/

/-- A timer after `n` boundaries of its unit; it stays at 0, due, until its expiry is taken. -/
def lowerTimer (n : Nat) (t : Option Nat) : Option Nat := t.map (fun v => v - n)

/-- A hand slot after `k` long-tick boundaries (R88). -/
def lowerLease (k : Nat) : HandSlot → HandSlot
  | .holding r h t lease => .holding r h t (lowerTimer k lease)
  | .empty => .empty
  | .reserved => .reserved

/-- A port interface after `n` tick boundaries, `k` of them long-tick boundaries. -/
def advancePort (n k : Nat) (q : PortState) : PortState :=
  { q with penalty := lowerTimer k q.penalty
           slots := q.slots.map (lowerLease k)
           parked := q.parked.map (fun w => { w with timer := w.timer - n })
           attachments := q.attachments.map (fun a => a.map (fun t => { t with timer := lowerTimer n t.timer })) }

/-- A record whose lifetime runs, after `k` long-tick boundaries, `k` ≥ 1. It is not left with 0: at the boundary that
would do so its expiry is due (R65). -/
def lowerLifetime (k : Nat) (m : MsgRecord) : MsgRecord :=
  match m.lifetime with
  | none => m
  | some v => if k < v then { m with lifetime := some (v - k) } else { m with lifetime := some 1, expiring := true }

/-- `n` tick boundaries pass in which nothing is done (R1): every 100th is a long-tick boundary. The last step of an
engine that has work lies a tick further before the next boundary for each of them (log 26). -/
def advance (n : Nat) (s : State) : State :=
  let k := (s.tickPhase + n) / Config.ticksPerLong
  { s with
    ports := s.ports.map (advancePort n k)
    records := if k = 0 then s.records
      else Table.mapAll (fun m => if s.lifetimeRunning m then lowerLifetime k m else m) s.records
    tickPhase := (s.tickPhase + n) % Config.ticksPerLong
    engineGap := if n = 0 then s.engineGap else if s.reclaim.isEmpty then 0
      else s.engineGap + Config.stepsPerTick * n }

/-- The tick boundaries up to the `k`-th long-tick boundary from now, 0 for `k` = 0 (R1). -/
def State.ticksToLong (s : State) (k : Nat) : Nat :=
  if k = 0 then 0 else Config.ticksPerLong * k - s.tickPhase

end Sys2Proof.Machine
end

