-- ==== Sys2Proof/Machine/Operands.lean ====
section
/-! DEFINITION. Operand forms of the commands: value codes (Table 11-6), handles (R12), slots and tickets (R199), flag
bytes (R51, R179), CREATE parameters (R14), filters (R113 to R115). -/

namespace Sys2Proof.Machine

/-- Kind codes (Table 11-6). -/
def kindOf (b : Byte) : Option Kind := if b = 0 then some .point else if b = 1 then some .fanout else none

/-- Overflow policy codes (Table 11-6). -/
def policyOf (b : Byte) : Option Policy := if b = 0 then some .refuse else if b = 1 then some .shed else none

/-- Role codes (Table 11-6). -/
def roleOf (b : Byte) : Option Role :=
  if b = 0 then some .producer else if b = 1 then some .consumer else if b = 2 then some .subscriber else none

/-- A byte that is 0 or 1: rearm, clear, stats-notify, and the ATTACH option REPLAY (Table 11-6). -/
def boolOf (b : Byte) : Option Bool := if b = 0 then some false else if b = 1 then some true else none

/-- Whether a role suits a channel kind (R11). -/
def roleSuits (x : Role) (k : Kind) : Bool :=
  match x, k with
  | .producer, _ => true
  | .consumer, .point => true
  | .subscriber, .fanout => true
  | _, _ => false

/-- A handle that names a live attachment of the port, with its record (R12). -/
def State.handleAt (s : State) (p : Port) (b : Byte) : Option (Handle × Attachment) :=
  if h : b.toNat < 8 then (s.att ⟨p, ⟨b.toNat, h⟩⟩).map (fun t => (⟨b.toNat, h⟩, t)) else none

/-- What stands in a HOLDING slot: its number, record, handle and ticket. -/
structure Held where
  slot   : Slot
  record : RecId
  handle : Handle
  ticket : Ticket
  deriving DecidableEq, Repr

/-- The HOLDING slot that a slot byte names; none for a value above 3, an EMPTY slot or a RESERVED one (R79, R80,
R83). -/
def State.heldAt (s : State) (p : Port) (b : Byte) : Option Held :=
  if h : b.toNat < 4 then
    match s.slot p ⟨b.toNat, h⟩ with
    | .holding r x t _ => some ⟨⟨b.toNat, h⟩, r, x, t⟩
    | _ => none
  else none

/-- Whether the 3 bytes of a ticket argument are those of a ticket (R199). -/
def ticketMatches (t : Ticket) (source : Byte) (serial : Word) : Bool :=
  t.source.val == source.toNat && t.serial == serial

/-- The urgent bit of the POST flags byte (R199). -/
def flagUrgent (flags : Byte) : Bool := flags.getLsbD 0

/-- The receipt bit of the POST flags byte (R199). -/
def flagReceipt (flags : Byte) : Bool := flags.getLsbD 1

/-- No undefined bit of the POST flags byte is set (R51). -/
def flagsDefined (flags : Byte) : Bool := flags &&& 0xFC#8 == 0

/-- The receipt attention bit of the HELLO options byte (R199). -/
def optionAttention (options : Byte) : Bool := options.getLsbD 0

/-- No undefined bit of the HELLO options byte is set (R179). -/
def optionsDefined (options : Byte) : Bool := options &&& 0xFE#8 == 0

/-- The parameters of CREATE, each in its range (R14 check 2). -/
structure CreateArgs where
  name       : Word
  kind       : Kind
  depthLimit : Nat
  roomMark   : Nat
  policy     : Policy
  code       : AccessCode
  role       : Role
  deriving DecidableEq, Repr

/-- The arguments of CREATE, none where one is out of range (R14 check 2). -/
def createArgs (name : Word) (kind depth mark policy : Byte) (code : AccessCode) (role : Byte) : Option CreateArgs :=
  match kindOf kind, policyOf policy, roleOf role with
  | some k, some v, some x =>
    if name ≠ 0 ∧ 1 ≤ depth.toNat ∧ depth.toNat ≤ 64 ∧ mark.toNat < depth.toNat ∧ roleSuits x k then
      some ⟨name, k, depth.toNat, mark.toNat, v, code, x⟩
    else none
  | _, _, _ => none

/-- An attachment record with the values of Table 1-5's last column (R10). -/
def Attachment.fresh (c : ChanId) (x : Role) : Attachment where
  channel := c
  role := x
  threshold := if x = .producer then 0 else 1
  wait := 0
  statsNotify := false
  arrivals := 0
  timer := none
  roomWanted := false
  filter := .all
  lag := 0
  lagReported := false

/-- The filter that SET_FILTER's mode and content give (R115), none where the mode is no mode or the length does not suit
it. -/
def filterOf (mode : Byte) (content : List Word) : Option Filter :=
  if mode = 0 then (if content = [] then some .all else none)
  else if mode = 1 then
    match content with
    | [w] => some (.hash w)
    | _ => none
  else if mode = 2 then (if 1 ≤ content.length ∧ content.length ≤ 4 then some (.exact content) else none)
  else none

/-- The sum of a tag's four nibbles, 0–60 (R114). -/
def nibbleSum (tag : Word) : Nat :=
  tag.toNat / 4096 % 16 + tag.toNat / 256 % 16 + tag.toNat / 16 % 16 + tag.toNat % 16

/-- One fold of a sum: the sum of its high part and its low part (R114). -/
def foldOnce (n : Nat) : Nat := if 15 < n then n / 16 + n % 16 else n

/-- The hash index of a tag (R114). A nibble sum is at most 60, so two folds bring it to 15 or below. -/
def hashIndex (tag : Word) : Nat := foldOnce (foldOnce (nibbleSum tag))

/-- Whether a filter passes a tag (R113). -/
def Filter.passes (f : Filter) (tag : Word) : Bool :=
  match f with
  | .all => true
  | .hash table => table.getLsbD (hashIndex tag)
  | .exact tags => tags.contains tag

end Sys2Proof.Machine
end

