-- ==== Sys2Proof/Machine/Layout.lean ====
section
/-! DEFINITION. Layouts of result data (R200, Tables 11-6 to 11-11) and the numeric codes of results, states and events. -/

namespace Sys2Proof.Machine

/-- A number sent in one byte. -/
def byte (n : Nat) : Byte := BitVec.ofNat 8 n

/-- A number sent in two bytes, high byte first. -/
def two (n : Nat) : List Byte := Word.bytes (BitVec.ofNat 16 n)

/-- Yes or no in one byte (Table 11-6). -/
def yesNo (b : Bool) : Byte := if b then 1 else 0

/-- Result codes (Table 11-4). -/
def resultCode : Result → Byte
  | .none => 0x00
  | .ok => 0x01
  | .parked => 0x02
  | .empty => 0x03
  | .held => 0x04
  | .purgeStarted => 0x05
  | .crcError => 0x10
  | .frameAborted => 0x11
  | .frameLength => 0x12
  | .badLength => 0x13
  | .unknownCommand => 0x14
  | .notSynced => 0x18
  | .badArgument => 0x20
  | .badHandle => 0x21
  | .badSlot => 0x22
  | .ticketMismatch => 0x23
  | .wrongRole => 0x28
  | .wrongKind => 0x29
  | .nameInUse => 0x30
  | .noSuchName => 0x31
  | .noChannelSlot => 0x32
  | .noAttachSlot => 0x33
  | .alreadyAttached => 0x34
  | .badCode => 0x38
  | .penalty => 0x39
  | .channelBusy => 0x40
  | .channelFull => 0x41
  | .poolExhausted => 0x48
  | .noMessageSlot => 0x49
  | .noReceiptRoom => 0x4A
  | .handFull => 0x50
  | .waitActive => 0x51
  | .noWait => 0x52
  | .watchBusy => 0x58
  | .notWatcher => 0x59
  | .notHeld => 0x5A
  | .queueShort => 0x60

/-- Kind codes (Table 11-6). -/
def kindCode : Kind → Byte
  | .point => 0
  | .fanout => 1

/-- Overflow policy codes (Table 11-6). -/
def policyCode : Policy → Byte
  | .refuse => 0
  | .shed => 1

/-- Channel state codes of CHANNEL_INFO (Table 11-6: OPEN 1, PURGING 2); the command reaches no other state (R25). -/
def chanStateCode : ChanState → Byte
  | .free => 0
  | .opened => 1
  | .purging => 2
  | .closing => 0

/-- RETURN dispositions (Table 11-6). -/
def dispositionCode : Disposition → Byte
  | .requeued => 0
  | .poisoned => 1
  | .discarded => 2

/-- Receipt outcomes (Table 11-6). -/
def outcomeCode : MsgOutcome → Byte
  | .taken => 1
  | .delivered => 2
  | .expired => 3
  | .shed => 4
  | .discarded => 5
  | .poisoned => 6

/-- Event kinds (Table 11-6). -/
def eventCode : EventKind → Byte
  | .arrival => 1
  | .waitDone => 2
  | .waitExpired => 3
  | .leaseExpired => 4
  | .room => 5
  | .lagged => 6
  | .watchHit => 7
  | .channelHeld => 8
  | .channelResumed => 9
  | .purgeDone => 10
  | .statsNearWrap => 11
  | .overflow => 12

/-- A ticket, 3 bytes: source, then serial (R199). -/
def ticketBytes (t : Ticket) : List Byte := byte t.source.val :: Word.bytes t.serial

/-- A receipt entry, 9 bytes (Table 11-8). -/
def receiptBytes (r : Receipt) : List Byte :=
  ticketBytes r.ticket ++ Word.bytes r.name ++ Word.bytes r.tag ++ [outcomeCode r.outcome, byte r.detail]

/-- An event entry, 10 bytes (Table 11-9); absent fields are sent as 0 (R200). -/
def eventBytes (e : Event) : List Byte :=
  [eventCode e.kind] ++ Word.bytes e.name ++
    [byte ((e.handle.map Fin.val).getD 0), byte ((e.slot.map Fin.val).getD 0)] ++
    ticketBytes (e.ticket.getD ⟨0, 0⟩) ++ two (e.count.getD 0)

/-- The message header, 13 bytes (R73, R200), read from the record now. Of its flags byte the spec gives bit 0, urgent; bits 1
to 7 are 0 (the model's choice, log 25). -/
def State.headerBytes (s : State) (r : RecId) : List Byte :=
  let m := s.msg r
  let name := match m.channel with
    | some c => (s.chan c).name
    | none => 0
  ticketBytes m.ticket ++ Word.bytes name ++ Word.bytes m.tag ++ two m.length ++
    [yesNo m.urgent, byte m.redelivery] ++ two (m.lifetime.getD 0)

/-- The result data of a TAKE answered OK and of a READ_HAND: slot, handle, header, payload (Table 11-7). -/
def State.takenBytes (s : State) (i : Slot) (h : Handle) (r : RecId) : List Byte :=
  [byte i.val, byte h.val] ++ s.headerBytes r ++ s.payload r

/-- The fields of CHANNEL_INFO, 18 bytes (R25, Table 11-7). -/
def State.infoBytes (s : State) (c : ChanId) : List Byte :=
  let ch := s.chan c
  [byte c.val] ++ Word.bytes ch.name ++
    [kindCode ch.kind, chanStateCode ch.state, byte ch.depthLimit, byte ch.roomMark, policyCode ch.policy,
     yesNo (ch.code != 0), byte (s.occupancy c), byte ch.list.length, byte ch.waiters.length,
     byte (s.withRole c .producer).length, byte (s.withRole c .consumer).length,
     byte (s.withRole c .subscriber).length, yesNo ch.held, yesNo ch.watch.isSome, yesNo ch.purger.isSome]

/-- The long-tick boundaries before the penalty timer expires, 1–100; 0 when stopped (R189). An expiry that is due and
not yet taken still has its boundary before it (log 5). -/
def penaltyLeft (t : Option Nat) : Nat :=
  match t with
  | none => 0
  | some n => max n 1

/-- The STATUS result, 16 bytes (R189, Table 11-10). -/
def State.statusBytes (s : State) (p : Port) : List Byte :=
  let q := s.port p
  [yesNo (q.session == .active), byte q.epoch] ++ two s.freeCellCount ++ two q.charge ++ two s.sharedInUse ++
    two s.freeRecordCount ++
    [byte q.events.length, byte q.receipts.length, byte q.reservations, byte q.holdingCount, yesNo q.parked.isSome,
     byte (penaltyLeft q.penalty)]

/-- The HELLO result, 22 bytes (R190, Table 11-11). -/
def State.helloBytes (s : State) (p : Port) : List Byte :=
  let q := s.port p
  [byte p.val, byte q.epoch] ++ Word.bytes Config.partCode ++ [1] ++ Word.bytes q.lease ++
    [yesNo q.receiptAttention, 32, 8] ++ two 256 ++ two Config.cellCount ++ [32, 64, 4, 16, 32] ++ two 1000 ++ [100]

/-- The eight counters, 16 bytes (R147, Table 11-7). -/
def statsBytes (st : Stats) : List Byte := st.toList.flatMap Word.bytes

/-- The result data of READ_EVENTS and READ_RECEIPTS: entries queued, entries copied, the entries (R156, R167). -/
def readBytes (queued most : Nat) (entries : List (List Byte)) : List Byte :=
  [byte queued, byte (min most queued)] ++ (entries.take most).flatten

/-- The response envelope, from its seq byte to its CRC (R197). -/
def envelope (x : Response) : List Byte :=
  let covered := [x.seq, x.code, resultCode x.result] ++ two x.data.length ++ x.data
  covered ++ Word.bytes (crc16 covered)

end Sys2Proof.Machine
end

