-- ==== Sys2Proof/WellFormed.lean ====
section
/-! DEFINITION. Which terms of `Instr` are events of the part: a frame can carry them. -/

namespace Sys2Proof

/-- A well-formed command.
* FRAME_ERROR names a command frame (the first byte not the COLLECT code) that fails a frame check (R193), or a frame of
  zero bytes (R192, log 17).
* POST has a payload of at most 256 bytes (R51).
* SET_FILTER has at most 4 two-byte values (R115: argument lengths 2, 4, 6, 8, 10). -/
def Instr.wf : Instr → Bool
  | .frameError _ bytes =>
    match bytes with
    | [] => true
    | code :: rest => code != collectCode && (frameCheck (code :: rest)).isSome
  | .post _ _ _ _ _ _ payload => payload.length ≤ 256
  | .setFilter _ _ _ _ content => content.length ≤ 4
  | .deviceReset _ | .collect _ _ | .hello _ _ _ _ | .status _ _ | .create _ _ _ _ _ _ _ _ _ | .attach _ _ _ _ _ _
  | .detach _ _ _ | .purge _ _ _ | .channelInfo _ _ _ | .take _ _ _ _ | .readHand _ _ _ | .release _ _ _ _ _
  | .giveBack _ _ _ _ _ | .cancelWait _ _ | .setNotify _ _ _ _ _ _ | .watch _ _ _ _ _ _ | .unwatch _ _ _ | .hold _ _ _
  | .resume _ _ _ | .peek _ _ _ _ | .readStats _ _ _ _ | .readEvents _ _ _ | .dropEvents _ _ _ | .readReceipts _ _ _
  | .dropReceipts _ _ _ | .lifetimeExpiry _ | .waitExpiry _ | .leaseExpiry _ _ | .penaltyExpiry _ | .coalescingExpiry _ _
  | .recordStep | .completionStep | .longTickBoundary => true

end Sys2Proof
end

