-- ==== Sys2Proof/Machine/Frames.lean ====
section
/-! DEFINITION. Frames (chapter 11) and the acceptance of commands (R185 to R187), with the meanings of FRAME_ERROR and
COLLECT. -/

namespace Sys2Proof.Machine

/-- What a command answers: the state it leaves, its result and its result data. -/
structure Reply where
  state  : State
  result : Result
  data   : List Byte
  deriving DecidableEq, Repr

/-- A command refused with nothing changed and no result data (R186, R200). -/
def refuse (s : State) (r : Result) : Reply := ⟨s, r, []⟩

/-- Whether the receiver takes a frame that begins now: always, but for one that begins less than 1 µs after the last frame
(R192). -/
def State.hears (s : State) (l : Link) : Bool :=
  !l.early || (!(s.port l.port).deaf && Config.earlyFrameTaken s.draws)

/-- Whether a frame is taken at this event, which is then its end: a whole frame that the receiver hears, or the end of the
frame in flight (R192). -/
def State.takes (s : State) (l : Link) : Bool :=
  match l.part with
  | .whole => s.hears l
  | .begins => false
  | .ends => (s.port l.port).flight.isSome

/-- Byte 0 of what a frame shifts out: the status byte, sampled at the assertion of CSn (R195, R197, R198). -/
def State.firstByte (s : State) (l : Link) : Byte :=
  match l.part, (s.port l.port).flight with
  | .ends, some b => b
  | _, _ => s.statusByte l.port

/-- The assertion of CSn at a receiver (R192): once it ignores what is clocked, it does so until CSn has been high for
1 µs. Where it may do either, a free choice is drawn (log 7). -/
def State.asserted (s : State) (l : Link) : State :=
  if l.early then
    if (s.port l.port).deaf then s
    else
      { s with draws := s.draws + 1 }.modPort l.port (fun q => { q with deaf := !Config.earlyFrameTaken s.draws })
  else s.modPort l.port (fun q => { q with deaf := false })

/-- The frame that is in flight at a port from now on, if any. -/
def inFlight (s : State) (p : Port) (x : Option Byte) : State := s.modPort p (fun q => { q with flight := x })

/-- What an event of a frame leaves of the receiver's own state (R192): the assertion of CSn samples the status byte for a
frame that the receiver takes (R198); its deassertion ends the frame. -/
def State.received (s : State) (l : Link) : State :=
  match l.part with
  | .whole => inFlight (s.asserted l) l.port none
  | .begins => inFlight (s.asserted l) l.port (if s.hears l then some (s.statusByte l.port) else none)
  | .ends => inFlight s l.port none

/-- What the port shifts out on SDO during its last frame (R195, R197). -/
def shiftOut (s : State) (p : Port) (out : List Byte) : State := s.modPort p (fun q => { q with sdo := out })

/-- An event of a frame at a port: at the end of a frame that is taken, `out` has been shifted out and `body` is done; the
beginning of a frame does nothing but `State.received`, and a frame that is ignored reaches no outcome (R192). -/
def overFrame (l : Link) (out : List Byte) (body : State → State) (s : State) : Answer :=
  if s.takes l then .next (body (shiftOut (s.received l) l.port out)) else .next (s.received l)

/-- What a command frame shifts out: the status byte, then each byte received one place late (R195). -/
def State.echo (s : State) (l : Link) (bytes : List Byte) : List Byte := s.firstByte l :: bytes.dropLast

/-- Replace a port's response record and set its new flag (R187). -/
def respond (s : State) (p : Port) (seq code : Byte) (r : Result) (data : List Byte) : State :=
  s.modPort p (fun q => { q with response := ⟨seq, code, r, data, true⟩ })

/-- The HELLO code (Table 11-3). -/
def helloCode : Byte := 0x01

/-- A command frame is taken (R185): the argument length, then the session check, then the command's own work, after which
the event ends with its ROOM checks (R64), the reclaim engine starts where work has come to it (R44), and the response
record takes the outcome (R187). -/
def takeCommand (f : CommandFrame) (body : State → Reply) (s : State) : State :=
  match checkLength f.code f.args.length with
  | some r => respond s f.link.port f.seq f.code r []
  | none =>
    if (s.port f.link.port).session = .active ∨ f.code = helloCode then
      let y := body s
      respond (startEngine s (endOfEvent s y.state)) f.link.port f.seq f.code y.result y.data
    else respond s f.link.port f.seq f.code .notSynced []

/-- A command arrives in its frame and is taken at the frame's end (R185, R195). -/
def runCommand (i : Instr) (body : State → Reply) (s : State) : Answer :=
  match i.frame with
  | none => .next s
  | some f => overFrame f.link (s.echo f.link (buildFrame f.code f.seq f.args)) (takeCommand f body) s

/-- The handle check of R12, before every other check of the command's own. -/
def withHandle (s : State) (p : Port) (b : Byte) (k : Handle → Attachment → Reply) : Reply :=
  match s.handleAt p b with
  | none => refuse s .badHandle
  | some (h, t) => k h t

/-- FRAME_ERROR (R193): the response record takes the frame check's result, with the seq and code bytes as received, 0
where the frame ended before them (R187). A frame of zero bytes reaches no outcome: CSn has only been asserted and
deasserted (R192). A frame that passes its checks is no FRAME_ERROR (log 17). -/
def execFrameError (l : Link) (bytes : List Byte) (s : State) : Answer :=
  match bytes with
  | [] => .next (s.received l)
  | code :: rest =>
    if (Instr.frameError l (code :: rest)).wf then
      match frameCheck (code :: rest) with
      | some r =>
        overFrame l (s.echo l (code :: rest)) (fun s => respond s l.port (rest.getD 0 0) code r []) s
      | none => .next s
    else .next s

/-- The bytes that a COLLECT frame of `n` bytes shifts out (R197). -/
def State.collectBytes (s : State) (l : Link) (n : Nat) : List Byte :=
  ([s.firstByte l, collectCode] ++ envelope (s.port l.port).response ++ List.replicate n 0xFF).take n

/-- COLLECT (R197): the new flag is cleared if the frame held the whole response, at least D + 9 bytes. It is served in
both session states (R185). -/
def execCollect (l : Link) (after : List Byte) (s : State) : Answer :=
  overFrame l (s.collectBytes l (after.length + 1))
    (fun s => s.modPort l.port (fun q =>
      if q.response.data.length + 9 ≤ after.length + 1 then { q with response := { q.response with isNew := false } }
      else q)) s

end Sys2Proof.Machine
end

