-- ==== Sys2Proof/Machine/Channels.lean ====
section
/-! DEFINITION. CREATE, ATTACH, DETACH, CHANNEL_INFO (chapter 1) and PURGE (R45). -/

namespace Sys2Proof.Machine

/-- An accepted CREATE (R15). -/
def makeChannel (s : State) (p : Port) (h : Handle) (c : ChanId) (g : CreateArgs) : State :=
  (s.modChan c (fun _ =>
    { Channel.free with
      state := .opened, name := g.name, kind := g.kind, depthLimit := g.depthLimit, roomMark := g.roomMark,
      policy := g.policy, code := g.code })).setAtt ⟨p, h⟩ (some (Attachment.fresh c g.role))

/-- The lowest FREE channel record (R15). -/
def State.freeChannelOf (s : State) : Option ChanId := (List.finRange 32).find? (fun c => (s.chan c).state == .free)

/-- CREATE's own work: its checks in the order of R14, then R15. -/
def createBody (p : Port) (name : Word) (kind depth mark policy : Byte) (code : AccessCode) (role : Byte) (s : State) :
    Reply :=
  if (s.port p).penalty.isSome then refuse s .penalty
  else
    match createArgs name kind depth mark policy code role with
    | none => refuse s .badArgument
    | some g =>
      match s.lookupName g.name with
      | some c => refuse s (if (s.chan c).state = .closing then .channelBusy else .nameInUse)
      | none =>
        match s.freeHandleOf p with
        | none => refuse s .noAttachSlot
        | some h =>
          match s.freeChannelOf with
          | none => refuse s .noChannelSlot
          | some c => ⟨makeChannel s p h c g, .ok, [byte h.val]⟩

/-- CREATE. -/
def execCreate (l : Link) (seq : Byte) (name : Word) (kind depth mark policy : Byte) (code : AccessCode) (role : Byte)
    (s : State) : Answer :=
  runCommand (.create l seq name kind depth mark policy code role)
    (createBody l.port name kind depth mark policy code role) s

/-- The penalty state after an ATTACH refused with BAD_CODE (R9). -/
def countBadCode (q : PortState) : PortState :=
  if q.badCodes + 1 = Config.badCodeLimit then { q with badCodes := 0, penalty := some Config.penaltyTicks }
  else { q with badCodes := q.badCodes + 1 }

/-- REPLAY: the new subscriber joins the pending set of every LISTED record of the list (R17, R117). -/
def replay (s : State) (c : ChanId) (a : AttRef) : State :=
  (s.chan c).list.foldl (fun s r =>
    s.modMsg r (fun m => if m.state = .listed then { m with pending := insertRef a m.pending } else m)) s

/-- An accepted ATTACH (R17). -/
def joinChannel (s : State) (p : Port) (h : Handle) (c : ChanId) (x : Role) (again : Bool) : State :=
  let s := s.setAtt ⟨p, h⟩ (some (Attachment.fresh c x))
  let s := s.modPort p (fun q => { q with badCodes := 0 })
  if again then replay s c ⟨p, h⟩ else s

/-- Whether a port holds an attachment to a channel in a role (R11). -/
def State.holdsRole (s : State) (p : Port) (c : ChanId) (x : Role) : Bool :=
  (s.withRole c x).any (fun a => a.port == p)

/-- The role and the REPLAY option of an ATTACH, none where an argument is out of range (R16 check 2). -/
def attachArgs (name : Word) (role options : Byte) : Option (Role × Bool) :=
  match roleOf role, boolOf options with
  | some x, some again => if name ≠ 0 ∧ (again = true → x = .subscriber) then some (x, again) else none
  | _, _ => none

/-- ATTACH's own work: its checks in the order of R16, then R17. -/
def attachBody (p : Port) (name : Word) (role : Byte) (code : AccessCode) (options : Byte) (s : State) : Reply :=
  if (s.port p).penalty.isSome then refuse s .penalty
  else
    match attachArgs name role options with
    | none => refuse s .badArgument
    | some (x, again) =>
      match s.lookupName name with
      | none => refuse s .noSuchName
      | some c =>
        let ch := s.chan c
        if ch.state = .closing then refuse s .channelBusy
        else if !roleSuits x ch.kind then refuse s .wrongKind
        else if s.holdsRole p c x then refuse s .alreadyAttached
        else if ch.code ≠ 0 ∧ ch.code ≠ code then ⟨s.modPort p countBadCode, .badCode, []⟩
        else
          match s.freeHandleOf p with
          | none => refuse s .noAttachSlot
          | some h => ⟨joinChannel s p h c x again, .ok, [byte h.val, kindCode ch.kind]⟩

/-- ATTACH. -/
def execAttach (l : Link) (seq : Byte) (name : Word) (role : Byte) (code : AccessCode) (options : Byte) (s : State) :
    Answer :=
  runCommand (.attach l seq name role code options) (attachBody l.port name role code options) s

/-- DETACH (R18 to R23). -/
def execDetach (l : Link) (seq : Byte) (handle : Byte) (s : State) : Answer :=
  runCommand (.detach l seq handle)
    (fun s => withHandle s l.port handle (fun h _ => ⟨detach s ⟨l.port, h⟩, .ok, []⟩)) s

/-- A purge starts on a non-empty list (R45): the list is doomed, the channel becomes PURGING and joins the work queue
with the count of records doomed. -/
def startPurge (s : State) (c : ChanId) (a : AttRef) : State :=
  let n := (s.chan c).list.length
  let s := (doomList s c).modChan c (fun ch => { ch with state := .purging, purger := some a })
  joinWork s ⟨c, some n⟩

/-- PURGE's own work (R45). Through a handle only OPEN and PURGING channels are reached (R11). -/
def purgeBody (p : Port) (handle : Byte) (s : State) : Reply :=
  withHandle s p handle (fun h t =>
    let ch := s.chan t.channel
    if ch.state ≠ .opened then refuse s .channelBusy
    else if ch.list.isEmpty then ⟨s, .ok, [0]⟩
    else ⟨startPurge s t.channel ⟨p, h⟩, .purgeStarted, [byte ch.list.length]⟩)

/-- PURGE. -/
def execPurge (l : Link) (seq : Byte) (handle : Byte) (s : State) : Answer :=
  runCommand (.purge l seq handle) (purgeBody l.port handle) s

/-- CHANNEL_INFO (R25). -/
def execChannelInfo (l : Link) (seq : Byte) (handle : Byte) (s : State) : Answer :=
  runCommand (.channelInfo l seq handle)
    (fun s => withHandle s l.port handle (fun _ t => ⟨s, .ok, s.infoBytes t.channel⟩)) s

end Sys2Proof.Machine
end

