-- ==== Sys2Proof/Machine/Inspect.lean ====
section
/-! DEFINITION. WATCH, UNWATCH, HOLD, RESUME, PEEK and READ_STATS (chapter 7). -/

namespace Sys2Proof.Machine

/-- WATCH's own work: the checks of R133 in their order, then the watch. The result data says whether this attachment's
own watch was replaced. -/
def watchBody (p : Port) (handle : Byte) (tag mask : Word) (rearm : Byte) (s : State) : Reply :=
  withHandle s p handle (fun h t =>
    match boolOf rearm with
    | none => refuse s .badArgument
    | some again =>
      let ch := s.chan t.channel
      if ch.state ≠ .opened then refuse s .channelBusy
      else if ch.watch.any (fun w => w.owner != ⟨p, h⟩) then refuse s .watchBusy
      else
        ⟨s.modChan t.channel (fun ch => { ch with watch := some ⟨tag, mask, again, ⟨p, h⟩⟩ }), .ok,
          [yesNo ch.watch.isSome]⟩)

/-- WATCH. -/
def execWatch (l : Link) (seq : Byte) (handle : Byte) (tag mask : Word) (rearm : Byte) (s : State) : Answer :=
  runCommand (.watch l seq handle tag mask rearm) (watchBody l.port handle tag mask rearm) s

/-- UNWATCH's own work (R134). -/
def unwatchBody (p : Port) (handle : Byte) (s : State) : Reply :=
  withHandle s p handle (fun h t =>
    if (s.chan t.channel).watch.any (fun w => w.owner == ⟨p, h⟩) then
      ⟨s.modChan t.channel (fun ch => { ch with watch := none }), .ok, []⟩
    else refuse s .notWatcher)

/-- UNWATCH. -/
def execUnwatch (l : Link) (seq : Byte) (handle : Byte) (s : State) : Answer :=
  runCommand (.unwatch l seq handle) (unwatchBody l.port handle) s

/-- HOLD's own work (R139). The result data is SET or ALREADY (Table 11-6). -/
def holdBody (p : Port) (handle : Byte) (s : State) : Reply :=
  withHandle s p handle (fun _ t =>
    let ch := s.chan t.channel
    if ch.state ≠ .opened then refuse s .channelBusy
    else if ch.held then ⟨s, .ok, [1]⟩
    else ⟨announce (setHeld s t.channel) t.channel .channelHeld, .ok, [0]⟩)

/-- HOLD. -/
def execHold (l : Link) (seq : Byte) (handle : Byte) (s : State) : Answer :=
  runCommand (.hold l seq handle) (holdBody l.port handle) s

/-- Binding at a RESUME of a POINT channel (R103): records are paired with waiters in list order until one of the two lists
is empty. -/
def bindQueued (s : State) (c : ChanId) : State :=
  ((s.chan c).list.zip (s.chan c).waiters).foldl (fun s e => bindPoint s c e.1 e.2) s

/-- A parked subscriber is bound to the first record of the list whose pending set contains it, if there is one (R103). -/
def bindWaiting (s : State) (c : ChanId) (p : Port) : State :=
  match (s.port p).parked with
  | none => s
  | some w =>
    match (s.chan c).list.find? (fun r => (s.msg r).pending.contains ⟨p, w.handle⟩) with
    | none => s
    | some r => bindFanout s c r p

/-- Binding at a RESUME (R103). -/
def bindAtResume (s : State) (c : ChanId) : State :=
  match (s.chan c).kind with
  | .point => bindQueued s c
  | .fanout => (s.chan c).waiters.foldl (fun s p => bindWaiting s c p) s

/-- An accepted RESUME (R140 steps 1 to 3). -/
def resumeChannel (s : State) (c : ChanId) : State :=
  let s := announce (s.modChan c (fun ch => { ch with held := false })) c .channelResumed
  if (s.chan c).state = .opened then bindAtResume s c else s

/-- RESUME's own work (R140). -/
def resumeBody (p : Port) (handle : Byte) (s : State) : Reply :=
  withHandle s p handle (fun _ t =>
    if (s.chan t.channel).held then ⟨resumeChannel s t.channel, .ok, []⟩ else refuse s .notHeld)

/-- RESUME. -/
def execResume (l : Link) (seq : Byte) (handle : Byte) (s : State) : Answer :=
  runCommand (.resume l seq handle) (resumeBody l.port handle) s

/-- PEEK's own work (R143). A PURGING channel shows no record (R4). -/
def peekBody (p : Port) (handle index : Byte) (s : State) : Reply :=
  withHandle s p handle (fun _ t =>
    let ch := s.chan t.channel
    if 63 < index.toNat then refuse s .badArgument
    else if ch.state = .purging then refuse s .empty
    else
      match ch.list[index.toNat]? with
      | none => refuse s .empty
      | some r => ⟨s, .ok, index :: s.headerBytes r⟩)

/-- PEEK. -/
def execPeek (l : Link) (seq : Byte) (handle index : Byte) (s : State) : Answer :=
  runCommand (.peek l seq handle index) (peekBody l.port handle index) s

/-- READ_STATS's own work (R147): the counters are copied, then zeroed if the clear flag is 1. -/
def readStatsBody (p : Port) (handle clear : Byte) (s : State) : Reply :=
  withHandle s p handle (fun _ t =>
    match boolOf clear with
    | none => refuse s .badArgument
    | some wipe =>
      ⟨if wipe then s.modChan t.channel (fun ch => { ch with stats := Vector.replicate 8 0 }) else s, .ok,
        statsBytes (s.chan t.channel).stats⟩)

/-- READ_STATS. -/
def execReadStats (l : Link) (seq : Byte) (handle clear : Byte) (s : State) : Answer :=
  runCommand (.readStats l seq handle clear) (readStatsBody l.port handle clear) s

end Sys2Proof.Machine
end

