-- ==== Sys2Proof/Machine/Notify.lean ====
section
/-! DEFINITION. SET_NOTIFY (R174) and SET_FILTER (R115). -/

namespace Sys2Proof.Machine

/-- The settings of SET_NOTIFY in an attachment record: the arrival count returns to 0 and the timer stops (R174). -/
def Attachment.withNotify (t : Attachment) (threshold : Nat) (wait : Word) (stats : Bool) : Attachment :=
  { t with threshold := threshold, wait := wait, statsNotify := stats, arrivals := 0, timer := none }

/-- SET_NOTIFY's own work: the checks of R174 in their order, then the settings. -/
def setNotifyBody (p : Port) (handle threshold : Byte) (wait : Word) (stats : Byte) (s : State) : Reply :=
  withHandle s p handle (fun h t =>
    match boolOf stats with
    | none => refuse s .badArgument
    | some on =>
      if 32 < threshold.toNat then refuse s .badArgument
      else if t.role = .producer ∧ (threshold ≠ 0 ∨ wait ≠ 0) then refuse s .wrongRole
      else ⟨s.setAtt ⟨p, h⟩ (some (t.withNotify threshold.toNat wait on)), .ok, []⟩)

/-- SET_NOTIFY. -/
def execSetNotify (l : Link) (seq : Byte) (handle threshold : Byte) (wait : Word) (stats : Byte) (s : State) : Answer :=
  runCommand (.setNotify l seq handle threshold wait stats) (setNotifyBody l.port handle threshold wait stats) s

/-- SET_FILTER's own work: the checks of R115 in their order, then the filter. -/
def setFilterBody (p : Port) (handle mode : Byte) (content : List Word) (s : State) : Reply :=
  withHandle s p handle (fun h t =>
    match filterOf mode content with
    | none => refuse s .badArgument
    | some f =>
      if t.role ≠ .subscriber then refuse s .wrongRole
      else ⟨s.setAtt ⟨p, h⟩ (some { t with filter := f }), .ok, []⟩)

/-- SET_FILTER. -/
def execSetFilter (l : Link) (seq : Byte) (handle mode : Byte) (content : List Word) (s : State) : Answer :=
  runCommand (.setFilter l seq handle mode content) (setFilterBody l.port handle mode content) s

end Sys2Proof.Machine
end

