-- ==== Sys2Proof/Machine/Posting.lean ====
section
/-! DEFINITION. POST (chapter 3, R110 to R126 for FANOUT channels). -/

namespace Sys2Proof.Machine

/-- What a POST carries once its frame has been read (R51). -/
structure PostArgs where
  tag      : Word
  urgent   : Bool
  receipt  : Bool
  lifetime : Word
  payload  : List Byte
  deriving DecidableEq, Repr

/-- The first resource check that fails (R53). -/
def resourceCheck (s : State) (p : Port) (g : PostArgs) : Option Result :=
  if s.nextRecord = none then some .noMessageSlot
  else if !s.poolAdmits p (cellsFor g.payload.length) then some .poolExhausted
  else if g.receipt && (s.port p).receipts.length + (s.port p).reservations ≥ Config.receiptRoom then
    some .noReceiptRoom
  else none

/-- One subscriber is charged lag for a record that is shed (R125, R126). -/
def chargeLag (s : State) (c : ChanId) (a : AttRef) : State :=
  match s.att a with
  | none => s
  | some t =>
    let n := min (t.lag + 1) Config.lagMax
    let s := s.modAtt a (fun t => { t with lag := n, lagReported := true })
    if t.lagReported then s
    else queueEvent s a.port (handleEvent .lagged (s.chan c).name a.handle (some n))

/-- The shed of the record at the head of a FANOUT channel's list (R124). -/
def shedFanout (s : State) (c : ChanId) (r : RecId) : State :=
  let s := (s.msg r).pending.foldl (fun s a => chargeLag s c a) s
  let s := s.modMsg r (fun m => { m with pending := [] })
  if (s.msg r).holders.isEmpty then freeRecord s c r .shed 0 else issue (unlist s c r) c r .shed 0

/-- What the depth check finds (R54). -/
inductive DepthCheck where
  | passes
  | full
  | sheds (r : RecId)
  deriving DecidableEq, Repr

/-- The depth check (R54): a held channel, a REFUSE channel, and a SHED channel with an empty list shed nothing. -/
def depthCheck (s : State) (c : ChanId) : DepthCheck :=
  let ch := s.chan c
  if s.occupancy c < ch.depthLimit then .passes
  else
    match ch.policy, ch.held, ch.list with
    | .shed, false, r :: _ => .sheds r
    | _, _, _ => .full

/-- The shed of a record by a post (R55, R124). -/
def shedRecord (s : State) (c : ChanId) (r : RecId) : State :=
  match (s.chan c).kind with
  | .point => freeRecord s c r .shed 0
  | .fanout => shedFanout s c r

/-- The subscribers of a channel whose filter passes a tag, or rejects it (R113). -/
def State.filtered (s : State) (c : ChanId) (tag : Word) (passes : Bool) : List AttRef :=
  allRefs.filter (fun a => match s.att a with
    | some t => t.channel == c && t.role == .subscriber && (t.filter.passes tag == passes)
    | none => false)

/-- The record that an accepted post builds (R57, R58). -/
def newRecord (s : State) (p : Port) (c : ChanId) (g : PostArgs) (chain : List CellId) : MsgRecord where
  state := match (s.chan c).kind with
    | .point => .queued
    | .fanout => .listed
  ticket := ⟨p, (s.port p).serial⟩
  channel := some c
  tag := g.tag
  length := g.payload.length
  chain := chain
  urgent := g.urgent
  wantsReceipt := g.receipt
  lifetime := if g.lifetime = 0 then none else some g.lifetime.toNat
  expiring := false
  redelivery := 0
  pending := match (s.chan c).kind with
    | .point => []
    | .fanout => s.filtered c g.tag true
  holders := []
  taken := 0
  receipted := false

/-- An accepted post builds its record (R57) and appends it to the list (R58). -/
def buildRecord (s : State) (p : Port) (c : ChanId) (g : PostArgs) (r : RecId) : State :=
  let chain := s.freeCells.take (cellsFor g.payload.length)
  let m := newRecord s p c g chain
  let s := { s with cells := writeCells s.cells g.payload chain 0 }
  let s := s.modPort p (fun q =>
    { q with serial := q.serial + 1, charge := q.charge + chain.length,
             reservations := q.reservations + bitValue g.receipt 1 })
  (s.modMsg r (fun _ => m)).modChan c (fun ch => { ch with list := ch.list ++ [r] })

/-- FILTERED rises by one for each subscriber of a FANOUT channel whose filter rejects the tag (R58, R113). -/
def countFiltered (s : State) (c : ChanId) (tag : Word) : State :=
  match (s.chan c).kind with
  | .point => s
  | .fanout => (s.filtered c tag false).foldl (fun s _ => bump s c .filtered) s

/-- A tag hits a watch: equal under the mask (R135). -/
def Watch.hits (w : Watch) (tag : Word) : Bool := tag &&& w.mask == w.tag &&& w.mask

/-- The watch compare of a post (R135, R136). -/
def watchCompare (s : State) (c : ChanId) (tag : Word) (t : Ticket) : State :=
  match (s.chan c).watch with
  | none => s
  | some w =>
    if w.hits tag then
      let was := (s.chan c).held
      let s := if was then s else setHeld s c
      let s := queueEvent s w.owner.port ⟨.watchHit, (s.chan c).name, some w.owner.handle, none, some t, none⟩
      let s := if was then s else announce s c .channelHeld
      if w.rearm then s else s.modChan c (fun ch => { ch with watch := none })
    else s

/-- Binding at a post (R59 step 3, R100, R102): none on a held channel. -/
def bindAtPost (s : State) (c : ChanId) (r : RecId) : State :=
  if (s.chan c).held then s
  else
    match (s.chan c).kind with
    | .point =>
      match (s.chan c).waiters with
      | [] => s
      | p :: _ => bindPoint s c r p
    | .fanout => (s.chan c).waiters.foldl (fun s p => bindFanout s c r p) s

/-- The arrivals that a post makes (R61). -/
def arrivalsAtPost (s : State) (c : ChanId) (r : RecId) : State :=
  match (s.chan c).kind with
  | .point =>
    if (s.msg r).state = .queued then arriveAll s c (s.msg r).urgent (s.withRole c .consumer) else s
  | .fanout => arriveAll s c (s.msg r).urgent (s.msg r).pending

/-- A FANOUT record still LISTED with an empty pending set is freed in the post's event (R59 step 5, R122). -/
def dropIfNoTaker (s : State) (c : ChanId) (r : RecId) : State :=
  if (s.msg r).state = .listed then settlePending s c r else s

/-- An accepted post, after any shed (R57 to R60). -/
def acceptPost (s : State) (p : Port) (c : ChanId) (g : PostArgs) (r : RecId) : State :=
  let t : Ticket := ⟨p, (s.port p).serial⟩
  let s := buildRecord s p c g r
  let s := countFiltered s c g.tag
  let s := bump s c .posted
  let s := watchCompare s c g.tag t
  let s := bindAtPost s c r
  let s := arrivalsAtPost s c r
  dropIfNoTaker s c r

/-- A post refused at the resource checks or the depth check (R56). -/
def refusePost (s : State) (a : AttRef) (c : ChanId) (r : Result) : Reply :=
  let s := bump s c .refused
  ⟨if r = .channelFull then s.modAtt a (fun t => { t with roomWanted := true }) else s, r, []⟩

/-- POST's own work: the checks of R52 in their order, then R57 to R60. -/
def postBody (p : Port) (handle : Byte) (tag : Word) (flags : Byte) (lifetime : Word) (payload : List Byte)
    (s : State) : Reply :=
  withHandle s p handle (fun h t =>
    let c := t.channel
    let g : PostArgs := ⟨tag, flagUrgent flags, flagReceipt flags, lifetime, payload⟩
    if !flagsDefined flags then refuse s .badArgument
    else if t.role ≠ .producer then refuse s .wrongRole
    else if (s.chan c).state ≠ .opened then refuse s .channelBusy
    else
      match resourceCheck s p g with
      | some e => refusePost s ⟨p, h⟩ c e
      | none =>
        let accept := fun s : State =>
          match s.nextRecord with
          | some r => (⟨acceptPost s p c g r, .ok, ticketBytes ⟨p, (s.port p).serial⟩⟩ : Reply)
          | none => refuse s .noMessageSlot
        match depthCheck s c with
        | .full => refusePost s ⟨p, h⟩ c .channelFull
        | .passes => accept s
        | .sheds old => accept (shedRecord s c old))

/-- POST. -/
def execPost (l : Link) (seq : Byte) (handle : Byte) (tag : Word) (flags : Byte) (lifetime : Word)
    (payload : List Byte) (s : State) : Answer :=
  runCommand (.post l seq handle tag flags lifetime payload) (postBody l.port handle tag flags lifetime payload) s

end Sys2Proof.Machine
end

