-- ==== Sys2Proof/Machine/Queues.lean ====
section
/-! DEFINITION. READ_EVENTS, DROP_EVENTS (chapter 9), READ_RECEIPTS and DROP_RECEIPTS (chapter 8). -/

namespace Sys2Proof.Machine

/-- The check of the READ commands' argument: 1 to 8 (R156, R167). -/
def readCount (b : Byte) : Bool := 1 ≤ b.toNat && b.toNat ≤ 8

/-- READ_EVENTS's own work (R167). -/
def readEventsBody (p : Port) (most : Byte) (s : State) : Reply :=
  let q := (s.port p).events
  if readCount most then ⟨s, .ok, readBytes q.length most.toNat (q.map eventBytes)⟩ else refuse s .badArgument

/-- READ_EVENTS. -/
def execReadEvents (l : Link) (seq : Byte) (most : Byte) (s : State) : Answer :=
  runCommand (.readEvents l seq most) (readEventsBody l.port most) s

/-- DROP_EVENTS's own work (R168): 1 to 32 entries leave the head of the queue. -/
def dropEventsBody (p : Port) (number : Byte) (s : State) : Reply :=
  let n := number.toNat
  let q := (s.port p).events
  if n = 0 ∨ 32 < n then refuse s .badArgument
  else if q.length < n then refuse s .queueShort
  else ⟨s.modPort p (fun x => { x with events := x.events.drop n }), .ok, [byte (q.length - n)]⟩

/-- DROP_EVENTS. -/
def execDropEvents (l : Link) (seq : Byte) (number : Byte) (s : State) : Answer :=
  runCommand (.dropEvents l seq number) (dropEventsBody l.port number) s

/-- READ_RECEIPTS's own work (R156). -/
def readReceiptsBody (p : Port) (most : Byte) (s : State) : Reply :=
  let q := (s.port p).receipts
  if readCount most then ⟨s, .ok, readBytes q.length most.toNat (q.map receiptBytes)⟩ else refuse s .badArgument

/-- READ_RECEIPTS. -/
def execReadReceipts (l : Link) (seq : Byte) (most : Byte) (s : State) : Answer :=
  runCommand (.readReceipts l seq most) (readReceiptsBody l.port most) s

/-- DROP_RECEIPTS's own work (R158): 1 to 16 entries leave the head of the queue. -/
def dropReceiptsBody (p : Port) (number : Byte) (s : State) : Reply :=
  let n := number.toNat
  let q := (s.port p).receipts
  if n = 0 ∨ 16 < n then refuse s .badArgument
  else if q.length < n then refuse s .queueShort
  else ⟨s.modPort p (fun x => { x with receipts := x.receipts.drop n }), .ok, [byte (q.length - n)]⟩

/-- DROP_RECEIPTS. -/
def execDropReceipts (l : Link) (seq : Byte) (number : Byte) (s : State) : Answer :=
  runCommand (.dropReceipts l seq number) (dropReceiptsBody l.port number) s

end Sys2Proof.Machine
end

