-- ==== Sys2Proof/Machine/Reclaim.lean ====
section
/-! DEFINITION. The steps of the reclaim engine (R40 to R44): RECORD_STEP and COMPLETION_STEP, and the engine at work. A
step that the work queue gives no ground for has no effect (log 4). -/

namespace Sys2Proof.Machine

/-- The work of a record step on the first record of the head channel's list (R42). -/
def reclaimRecord (s : State) (c : ChanId) (r : RecId) : State :=
  match (s.chan c).kind with
  | .point => freeRecord s c r .discarded 0
  | .fanout =>
    if (s.msg r).holders.isEmpty then freeRecord s c r .discarded 0 else issue (unlist s c r) c r .discarded 0

/-- The steps that an engine with work takes before the next tick boundary, at least: its steps follow at most 2 µs apart,
and one that completes at the moment of the boundary may be taken after it (R1, R44, log 26). -/
def State.stepsOwed (s : State) : Nat := s.engineGap - 1

/-- The engine has taken a step, which completes at most 2 µs after the one before and not after the next boundary
(log 26). -/
def stepTaken (s : State) : State := { s with engineGap := s.engineGap - 1 }

/-- A record step of the engine (R42). -/
def recordStep (s : State) : State :=
  match s.reclaim with
  | [] => s
  | e :: _ =>
    match (s.chan e.channel).list with
    | [] => s
    | r :: _ => stepTaken (endOfEvent s (reclaimRecord s e.channel r))

/-- RECORD_STEP (R42). -/
def execRecordStep (s : State) : Answer := .next (recordStep s)

/-- A PURGING channel becomes OPEN (R43): PURGE_DONE to the purging attachment, if it is present, then the ROOM check. -/
def completePurge (s : State) (c : ChanId) (count : Nat) : State :=
  let ch := s.chan c
  let s := s.modChan c (fun ch => { ch with state := .opened, purger := none })
  let s := match ch.purger with
    | some a => queueEvent s a.port (handleEvent .purgeDone ch.name a.handle (some count))
    | none => s
  roomCheck s c

/-- A completion step of the engine (R43). Channels with an entry are PURGING or CLOSING (R40); in a state that no run
reaches an entry of another channel is dropped (log 20). -/
def completionStep (s : State) : State :=
  match s.reclaim with
  | [] => s
  | e :: rest =>
    if (s.chan e.channel).list.isEmpty then
      stepTaken (match (s.chan e.channel).state with
        | .purging => { completePurge s e.channel (e.count.getD 0) with reclaim := rest }
        | .closing => freeChannel s e.channel
        | _ => { s with reclaim := rest })
    else s

/-- COMPLETION_STEP (R43). -/
def execCompletionStep (s : State) : Answer := .next (completionStep s)

/-! ## The engine at work (R40, R1) -/

/-- The step that the engine is at, none while it is idle. -/
def engineStep (s : State) : State :=
  match s.reclaim with
  | [] => s
  | e :: _ => if (s.chan e.channel).list.isEmpty then completionStep s else recordStep s

/-- The steps that the engine has before it (R44): a record step for each record in the lists of the queued channels, a
completion step for each channel. -/
def State.reclaimWork (s : State) : Nat :=
  s.reclaim.length + (s.reclaim.map (fun e => (s.chan e.channel).list.length)).sum

/-- The engine takes up to `n` steps, one after another without a gap (R1), until it is idle. -/
def runEngine : Nat → State → State
  | 0, s => s
  | n + 1, s => if s.reclaim.isEmpty then s else runEngine n (engineStep s)

end Sys2Proof.Machine
end

