-- ==== Sys2Proof/Machine/Sessions.lean ====
section
/-! DEFINITION. Device reset (R2), HELLO (R179 to R184) and STATUS (R189). -/

namespace Sys2Proof.Machine

/-- Full device reset: every block at its reset value. The model's own fields stay: the commands that wait, and the count
of free choices (log 16, log 21). -/
def resetPart (s : State) : State := { State.reset with draws := s.draws, pending := s.pending }

/-- DEVICE_RESET (R2). A low pulse shorter than 1 µs resets the part or changes nothing (log 8). One that does not reset
leaves a frame in flight as it was too, as the whole state that R2 speaks of; R191 and R192 would discard it (the model's
choice, log 8). -/
def execDeviceReset (cause : ResetCause) (s : State) : Answer :=
  match cause with
  | .powerOn => .next (resetPart s)
  | .lowPulse => .next (resetPart s)
  | .shortPulse =>
    let s' := { s with draws := s.draws + 1 }
    if Config.shortPulseResets s.draws then .next (resetPart s') else .next s'

/-- The epoch of the next session: from 255 to 1 (R178). -/
def nextEpoch (n : Nat) : Nat := if n = 255 then 1 else n + 1

/-- A session opens (R180 steps 1 to 4). -/
def openSession (s : State) (p : Port) (lease : Word) (attention : Bool) : State :=
  s.modPort p (fun q =>
    { q with epoch := nextEpoch q.epoch, lease := lease, receiptAttention := attention, session := .active })

/-- HELLO's own work (R179 to R181): on an ACTIVE port the old session is torn down first. -/
def helloBody (p : Port) (lease : Word) (options : Byte) (s : State) : Reply :=
  if optionsDefined options then
    let s := if (s.port p).session = .active then teardown s p else s
    let s := openSession s p lease (optionAttention options)
    ⟨s, .ok, s.helloBytes p⟩
  else refuse s .badArgument

/-- HELLO. -/
def execHello (l : Link) (seq : Byte) (lease : Word) (options : Byte) (s : State) : Answer :=
  runCommand (.hello l seq lease options) (helloBody l.port lease options) s

/-- STATUS (R189). -/
def execStatus (l : Link) (seq : Byte) (s : State) : Answer :=
  runCommand (.status l seq) (fun s => ⟨s, .ok, s.statusBytes l.port⟩) s

end Sys2Proof.Machine
end

