-- ==== Sys2Proof/Machine/Taking.lean ====
section
/-! DEFINITION. TAKE, READ_HAND, RELEASE, RETURN (chapter 4) and CANCEL_WAIT (chapter 5). -/

namespace Sys2Proof.Machine

/-- The record available to an attachment (R75): the head of a POINT list; in a FANOUT list the first record whose
pending set contains the attachment (R118). -/
def State.available (s : State) (c : ChanId) (a : AttRef) (x : Role) : Option RecId :=
  match x with
  | .producer => none
  | .consumer => (s.chan c).list.head?
  | .subscriber => (s.chan c).list.find? (fun r => (s.msg r).pending.contains a)

/-- A record is taken into an EMPTY slot (R76, R77). -/
def takeRecord (s : State) (c : ChanId) (a : AttRef) (x : Role) (i : Slot) (r : RecId) : State :=
  match x with
  | .subscriber => fillSlot (takeByHolder s c r a) a.port i r a.handle
  | _ => fillSlot (takeIntoHand s c r) a.port i r a.handle

/-- A take parks (R96 steps 1 to 3). -/
def parkTake (s : State) (c : ChanId) (a : AttRef) (i : Slot) (wait : Word) : State :=
  ((s.setSlot a.port i .reserved).modPort a.port (fun q =>
    { q with parked := some ⟨a.handle, i, wait.toNat⟩ })).modChan c (fun ch =>
      { ch with waiters := ch.waiters ++ [a.port] })

/-- Selection (R75), with the lowest EMPTY slot found. A success result through a SUBSCRIBER clears its lag-reported
flag (R77). -/
def selectTake (s : State) (c : ChanId) (a : AttRef) (x : Role) (i : Slot) (wait : Word) : Reply :=
  match (s.chan c).held, s.available c a x with
  | false, some r =>
    let s := clearLagReported (takeRecord s c a x i r) a
    ⟨s, .ok, s.takenBytes i a.handle r⟩
  | held, _ =>
    if wait = 0 then ⟨clearLagReported s a, if held then .held else .empty, []⟩
    else if (s.port a.port).parked.isSome then refuse s .waitActive
    else ⟨clearLagReported (parkTake s c a i wait) a, .parked, [byte i.val, byte a.handle.val]⟩

/-- TAKE's own work: the checks of R74 in their order, then selection. -/
def takeBody (p : Port) (handle : Byte) (wait : Word) (s : State) : Reply :=
  withHandle s p handle (fun h t =>
    if t.role = .producer then refuse s .wrongRole
    else if (s.chan t.channel).state ≠ .opened then refuse s .channelBusy
    else
      match s.emptySlotOf p with
      | none => refuse s .handFull
      | some i => selectTake s t.channel ⟨p, h⟩ t.role i wait)

/-- TAKE. -/
def execTake (l : Link) (seq : Byte) (handle : Byte) (wait : Word) (s : State) : Answer :=
  runCommand (.take l seq handle wait) (takeBody l.port handle wait) s

/-- READ_HAND's own work (R79). -/
def readHandBody (p : Port) (slot : Byte) (s : State) : Reply :=
  match s.heldAt p slot with
  | none => refuse s .badSlot
  | some x => ⟨s, .ok, s.takenBytes x.slot x.handle x.record⟩

/-- READ_HAND. -/
def execReadHand (l : Link) (seq : Byte) (slot : Byte) (s : State) : Answer :=
  runCommand (.readHand l seq slot) (readHandBody l.port slot) s

/-- The effect of a RELEASE on its record, the slot already emptied: a POINT record is freed with TAKEN and the releasing
port (R81), a FANOUT record is let go by its holder (R82). -/
def releaseRecord (s : State) (r : RecId) (a : AttRef) : State :=
  match (s.msg r).channel with
  | none => s
  | some c =>
    match (s.chan c).kind with
    | .point => freeRecord s c r .taken a.port.val
    | .fanout => releaseFanout s c r a

/-- RELEASE's own work: the checks of R80, then R81 or R82. -/
def releaseBody (p : Port) (slot source : Byte) (serial : Word) (s : State) : Reply :=
  match s.heldAt p slot with
  | none => refuse s .badSlot
  | some x =>
    if ticketMatches x.ticket source serial then
      ⟨releaseRecord (s.setSlot p x.slot .empty) x.record ⟨p, x.handle⟩, .ok, []⟩
    else refuse s .ticketMismatch

/-- RELEASE. -/
def execRelease (l : Link) (seq : Byte) (slot source : Byte) (serial : Word) (s : State) : Answer :=
  runCommand (.release l seq slot source serial) (releaseBody l.port slot source serial) s

/-- RETURN's own work, its slot and ticket checked (R83): a FANOUT record is refused, a POINT record is handed back. A
record of no channel, which no run reaches (log 20), is a POINT record that is gone. -/
def giveBackHeld (p : Port) (x : Held) (s : State) : Reply :=
  match (s.msg x.record).channel with
  | none => ⟨s.setSlot p x.slot .empty, .ok, [dispositionCode .discarded]⟩
  | some c =>
    match (s.chan c).kind with
    | .fanout => refuse s .wrongKind
    | .point =>
      let y := handBackPoint (s.setSlot p x.slot .empty) c x.record
      ⟨y.1, .ok, [dispositionCode y.2]⟩

/-- RETURN's own work: the checks of R83, then R84. -/
def giveBackBody (p : Port) (slot source : Byte) (serial : Word) (s : State) : Reply :=
  match s.heldAt p slot with
  | none => refuse s .badSlot
  | some x => if ticketMatches x.ticket source serial then giveBackHeld p x s else refuse s .ticketMismatch

/-- RETURN. -/
def execGiveBack (l : Link) (seq : Byte) (slot source : Byte) (serial : Word) (s : State) : Answer :=
  runCommand (.giveBack l seq slot source serial) (giveBackBody l.port slot source serial) s

/-- CANCEL_WAIT's own work (R105). -/
def cancelWaitBody (p : Port) (s : State) : Reply :=
  match s.parkedOn p with
  | none => refuse s .noWait
  | some (c, w) =>
    ⟨dropParked s c p w, .ok, Word.bytes (s.chan c).name ++ [byte w.handle.val, byte w.slot.val]⟩

/-- CANCEL_WAIT. -/
def execCancelWait (l : Link) (seq : Byte) (s : State) : Answer :=
  runCommand (.cancelWait l seq) (cancelWaitBody l.port) s

end Sys2Proof.Machine
end

