-- ==== Sys2Proof/Machine/Timers.lean ====
section
/-! DEFINITION. The events of the timers (R1): LIFETIME_EXPIRY, WAIT_EXPIRY, LEASE_EXPIRY, PENALTY_EXPIRY,
COALESCING_EXPIRY and LONG_TICK_BOUNDARY, and how time passes up to one of them. No boundary passes before what its
predecessor made due has been taken (R1), so no expiry comes late; expiries of one boundary fall together, and the command
that names one of them takes it first (log 3). An expiry whose timer does not run does not occur (log 4). -/

namespace Sys2Proof.Machine

/-! ## What an expiry does -/

/-- A record's lifetime has expired (R67, R68). -/
def expireRecord (s : State) (c : ChanId) (r : RecId) : State :=
  match (s.chan c).kind with
  | .point => freeRecord s c r .expired 0
  | .fanout =>
    if (s.msg r).holders.isEmpty then freeRecord s c r .expired 0 else issue (unlist s c r) c r .expired 0

/-- A port's wait ends at its timer (R104). -/
def expireWait (s : State) (p : Port) (c : ChanId) (w : ParkedTake) : State :=
  queueEvent (dropParked s c p w) p (handleEvent .waitExpired (s.chan c).name w.handle none)

/-- A slot's lease ends (R89): the slot becomes EMPTY, LEASE_EXPIRED is queued, the record is handed back or released. A
record requeued here is not lowered by the boundary at which its lease ends: the boundary came before the expiry (the
model's choice, log 24). -/
def expireLease (s : State) (p : Port) (i : Slot) (r : RecId) (h : Handle) (t : Ticket) : State :=
  let name := match (s.msg r).channel with
    | some c => (s.chan c).name
    | none => 0
  handBackRecord (queueEvent (s.setSlot p i .empty) p (slotEvent .leaseExpired name h i t)) r ⟨p, h⟩

/-- The coalescing of an attachment reports its arrivals (R172). -/
def expireCoalescing (s : State) (a : AttRef) (t : Attachment) : State :=
  queueEvent (s.modAtt a (fun t => { t with arrivals := 0, timer := none })) a.port
    (handleEvent .arrival (s.chan t.channel).name a.handle (some t.arrivals))

/-- The work of an expiry in its event. -/
def expire (s : State) : Expiry → State
  | .lifetime r =>
    match (s.msg r).channel with
    | some c => endOfEvent s (expireRecord s c r)
    | none => s
  | .wait p =>
    match s.parkedOn p with
    | some (c, w) => endOfEvent s (expireWait s p c w)
    | none => s
  | .lease p i =>
    match s.slot p i with
    | .holding r h t _ => endOfEvent s (expireLease s p i r h t)
    | _ => s
  | .penalty p => s.modPort p (fun q => { q with penalty := none })
  | .coalescing p h =>
    match s.att ⟨p, h⟩ with
    | some t => expireCoalescing s ⟨p, h⟩ t
    | none => s

/-! ## When it comes -/

/-- The tick boundaries before a record's lifetime expires, none where its lifetime does not run (R65). -/
def State.lifetimeTicks (s : State) (r : RecId) : Option Nat :=
  match s.lifetimeRunning (s.msg r), (s.msg r).lifetime with
  | true, some v => some (if (s.msg r).expiring then 0 else s.ticksToLong v)
  | _, _ => none

/-- The tick boundaries that come before an expiry: 0 where its boundary has come, none where its timer does not run. -/
def State.ticksLeft (s : State) : Expiry → Option Nat
  | .lifetime r => s.lifetimeTicks r
  | .wait p => (s.parkedOn p).map (fun x => x.2.timer)
  | .lease p i =>
    match s.slot p i with
    | .holding _ _ _ lease => lease.map s.ticksToLong
    | _ => none
  | .penalty p => (s.port p).penalty.map s.ticksToLong
  | .coalescing p h => (s.att ⟨p, h⟩).bind Attachment.timer

/-- An expiry is due: its boundary has come, and it is not yet taken. -/
def State.isDue (s : State) (x : Expiry) : Bool := s.ticksLeft x == some 0

/-- The expiries of the part, in the order in which it takes those that are due together (log 2). -/
def allExpiries : List Expiry :=
  (List.finRange 256).map .lifetime ++ (List.finRange 4).map .wait ++
    (List.finRange 4).flatMap (fun p => (List.finRange 4).map (.lease p)) ++ (List.finRange 4).map .penalty ++
    (List.finRange 4).flatMap (fun p => (List.finRange 8).map (.coalescing p))

/-! ## How time passes -/

/-- An expiry is taken if it is due. -/
def takeIfDue (s : State) (x : Expiry) : State := if s.isDue x then expire s x else s

/-- Every expiry that is due is taken (log 2). -/
def takeDue (s : State) : State := allExpiries.foldl takeIfDue s

/-- What the part does before its next tick boundary. First the expiries that are due, at the boundary just passed and
against the state that the engine's last step left (R1, R44); then the steps that the reclaim engine owes, so that the next
boundary may fall amid its work (log 26). Those steps make nothing due, but for states that no run reaches (log 20). -/
def settle (s : State) : State := takeDue (runEngine s.stepsOwed (takeDue s))

/-- The tick boundaries up to the next at which an expiry is due, at most `n` and at least 1. -/
def State.nextDue (s : State) (n : Nat) : Nat :=
  max 1 (allExpiries.foldl (fun k x => match s.ticksLeft x with
    | some m => min m k
    | none => k) n)

/-- `n` tick boundaries pass, in at most `fuel` stretches in which nothing falls due and no engine step is owed. -/
def passTicks : Nat → Nat → State → State
  | 0, _, s => s
  | fuel + 1, n, s =>
    if n = 0 then s
    else
      let s := settle s
      let k := if s.reclaim.isEmpty then s.nextDue n else 1
      passTicks fuel (n - k) (advance k s)

/-- `n` tick boundaries pass (R1): before each of them, what is due is done. What the last makes due is not done here. -/
def reach (n : Nat) (s : State) : State := passTicks n n s

/-- An expiry comes at its own boundary (R1); on the way what falls due before it is done, and if that has stopped its timer
it does not occur (log 4). -/
def comeTo (s : State) (x : Expiry) : State :=
  match s.ticksLeft x with
  | none => s
  | some n => takeIfDue (reach n s) x

/-! ## The commands -/

/-- LIFETIME_EXPIRY (R65, R67, R68). -/
def execLifetimeExpiry (r : RecId) (s : State) : Answer := .next (comeTo s (.lifetime r))

/-- WAIT_EXPIRY (R104). -/
def execWaitExpiry (p : Port) (s : State) : Answer := .next (comeTo s (.wait p))

/-- LEASE_EXPIRY (R89). A lifetime count-down of the same boundary has already been made when it comes (the model's choice,
log 24). -/
def execLeaseExpiry (p : Port) (i : Slot) (s : State) : Answer := .next (comeTo s (.lease p i))

/-- PENALTY_EXPIRY (R9): the timer stops. -/
def execPenaltyExpiry (p : Port) (s : State) : Answer := .next (comeTo s (.penalty p))

/-- COALESCING_EXPIRY (R172). -/
def execCoalescingExpiry (p : Port) (h : Handle) (s : State) : Answer := .next (comeTo s (.coalescing p h))

/-- LONG_TICK_BOUNDARY (R65, R1): time passes to the next long-tick boundary, at which every running lifetime falls by
one. -/
def execLongTickBoundary (s : State) : Answer := .next (reach (s.ticksToLong 1) s)

end Sys2Proof.Machine
end

