-- ==== Sys2Proof/Machine/Dispatch.lean ====
section
/-! DEFINITION. The meaning of each command: one arm per constructor. -/

namespace Sys2Proof.Machine

def exec (i : Instr) (s : State) : Host.Outcome State Fault Refusal :=
  match i with
  | .deviceReset cause => Sys2Proof.Machine.execDeviceReset cause s
  | .frameError l bytes => Sys2Proof.Machine.execFrameError l bytes s
  | .collect l after => Sys2Proof.Machine.execCollect l after s
  | .hello l seq lease options => Sys2Proof.Machine.execHello l seq lease options s
  | .status l seq => Sys2Proof.Machine.execStatus l seq s
  | .create l seq name kind depth mark policy code role => Sys2Proof.Machine.execCreate l seq name kind depth mark policy code role s
  | .attach l seq name role code options => Sys2Proof.Machine.execAttach l seq name role code options s
  | .detach l seq handle => Sys2Proof.Machine.execDetach l seq handle s
  | .purge l seq handle => Sys2Proof.Machine.execPurge l seq handle s
  | .channelInfo l seq handle => Sys2Proof.Machine.execChannelInfo l seq handle s
  | .post l seq handle tag flags lifetime payload => Sys2Proof.Machine.execPost l seq handle tag flags lifetime payload s
  | .take l seq handle wait => Sys2Proof.Machine.execTake l seq handle wait s
  | .readHand l seq slot => Sys2Proof.Machine.execReadHand l seq slot s
  | .release l seq slot source serial => Sys2Proof.Machine.execRelease l seq slot source serial s
  | .giveBack l seq slot source serial => Sys2Proof.Machine.execGiveBack l seq slot source serial s
  | .cancelWait l seq => Sys2Proof.Machine.execCancelWait l seq s
  | .setNotify l seq handle threshold wait stats => Sys2Proof.Machine.execSetNotify l seq handle threshold wait stats s
  | .setFilter l seq handle mode content => Sys2Proof.Machine.execSetFilter l seq handle mode content s
  | .watch l seq handle tag mask rearm => Sys2Proof.Machine.execWatch l seq handle tag mask rearm s
  | .unwatch l seq handle => Sys2Proof.Machine.execUnwatch l seq handle s
  | .hold l seq handle => Sys2Proof.Machine.execHold l seq handle s
  | .resume l seq handle => Sys2Proof.Machine.execResume l seq handle s
  | .peek l seq handle index => Sys2Proof.Machine.execPeek l seq handle index s
  | .readStats l seq handle clear => Sys2Proof.Machine.execReadStats l seq handle clear s
  | .readEvents l seq most => Sys2Proof.Machine.execReadEvents l seq most s
  | .dropEvents l seq number => Sys2Proof.Machine.execDropEvents l seq number s
  | .readReceipts l seq most => Sys2Proof.Machine.execReadReceipts l seq most s
  | .dropReceipts l seq number => Sys2Proof.Machine.execDropReceipts l seq number s
  | .lifetimeExpiry r => Sys2Proof.Machine.execLifetimeExpiry r s
  | .waitExpiry p => Sys2Proof.Machine.execWaitExpiry p s
  | .leaseExpiry p k => Sys2Proof.Machine.execLeaseExpiry p k s
  | .penaltyExpiry p => Sys2Proof.Machine.execPenaltyExpiry p s
  | .coalescingExpiry p h => Sys2Proof.Machine.execCoalescingExpiry p h s
  | .recordStep => Sys2Proof.Machine.execRecordStep s
  | .completionStep => Sys2Proof.Machine.execCompletionStep s
  | .longTickBoundary => Sys2Proof.Machine.execLongTickBoundary s

end Sys2Proof.Machine
end

