-- ==== Sys2Proof/Machine/Idle.lean ====
section
/-! DEFINITION. What the part does while no command waits (log 1, log 2): an expiry that is due, a step of its reclaim
engine, or a tick of its clock. -/

namespace Sys2Proof.Machine

/-- A step with no command waiting and nothing due. An idle engine leaves it to the clock; an engine that owes steps takes
one; one that has work and owes none leaves it to a free choice whether its step or a tick boundary comes first (R44,
log 26). -/
def idleOnward (s : State) : State :=
  if s.reclaim.isEmpty then advance 1 s
  else if s.stepsOwed ≠ 0 then engineStep s
  else
    let t := { s with draws := s.draws + 1 }
    if Config.clockBeforeStep s.draws then advance 1 t else engineStep t

/-- A step with no command waiting: what is due comes first (R1, R44, log 2). -/
def idle (s : State) : Answer :=
  match allExpiries.find? s.isDue with
  | some x => .next (expire s x)
  | none => .next (idleOnward s)

end Sys2Proof.Machine
end

