-- ==== Sys2Proof/Machine/Step.lean ====
section
/-! DEFINITION. One step of the part: the command at the front of the queue, or what the part does of itself. -/

namespace Sys2Proof.Machine

/-- One step (log 1). -/
def step (s : State) : Host.Outcome State Fault Refusal :=
  match s.pending with
  | c :: rest => exec c { s with pending := rest }
  | [] => idle s

/-- The state with the command that a word spells at the front of its queue; no word spells one, since the table gives no
row bits. -/
def State.withFetchWord (s : State) (nbits w : Nat) : State :=
  match decodeTableWord nbits w with
  | some c => { s with pending := c :: s.pending }
  | none => s

end Sys2Proof.Machine
end

