-- ==== Sys2Proof/Safety.lean ====
section
/-! DEFINITION. What counts as a safe run of the part; the laws of the part, which its rules promise of every state a run
reaches; and the words in which statements say what a command leaves unchanged. -/

namespace Sys2Proof.Machine

/-- A run of `n` steps does not stop: it is safe. -/
def State.safeFor : Nat → State → Prop
  | 0, _ => True
  | n + 1, s => ∃ t, step s = .next t ∧ t.safeFor n

/-! ## The form of the state -/

/-- The tables of channels, records and cells are in canonical form (log 15). -/
abbrev State.canonical (s : State) : Prop :=
  Table.wf Channel.free 32 s.channels = true ∧ Table.wf MsgRecord.free 256 s.records = true ∧
    Table.wf ([] : List Byte) Config.cellCount s.cells = true

/-- The ranges of the fields of a port interface: epoch (R178), bad-code count and penalty timer (R9), wait timer (R94). -/
abbrev PortState.ranged (q : PortState) : Prop :=
  q.epoch ≤ 255 ∧ q.badCodes ≤ 2 ∧ (∀ n ∈ q.penalty, n ≤ 100) ∧ (∀ w ∈ q.parked, w.timer ≤ 65535)

/-- The ranges of the fields of an attachment (R10, R170): threshold and lag count; the unnotified arrivals stay below the
threshold, the coalescing timer runs only while there are some, and a producer has threshold 0. -/
abbrev Attachment.ranged (t : Attachment) : Prop :=
  t.threshold ≤ 32 ∧ t.lag ≤ 65535 ∧ (t.arrivals < t.threshold ∨ t.arrivals = 0) ∧
    (t.timer.isSome = true → 0 < t.arrivals) ∧ (t.role = .producer → t.threshold = 0)

/-- The ranges of the parameters of a channel (R3). -/
abbrev Channel.ranged (ch : Channel) : Prop := 1 ≤ ch.depthLimit ∧ ch.depthLimit ≤ 64 ∧ ch.roomMark < ch.depthLimit

/-- The range of a lifetime remaining (R57, R65): it is never left at 0. -/
abbrev MsgRecord.ranged (m : MsgRecord) : Prop := ∀ v ∈ m.lifetime, 1 ≤ v ∧ v ≤ 65535

/-- Every field stands in its range. -/
abbrev State.ranged (s : State) : Prop :=
  s.tickPhase < 100 ∧ s.engineGap ≤ 51 ∧ (∀ p : Port, (s.port p).ranged) ∧
    (∀ p : Port, ∀ h : Handle, ∀ t ∈ s.att ⟨p, h⟩, t.ranged) ∧
    (∀ c : ChanId, (s.chan c).ranged) ∧ (∀ r : RecId, (s.msg r).ranged)

/-! ## The laws of the part -/

/-- The cells in the chains of the live records of a port (R33). -/
def State.cellsOwned (s : State) (p : Port) : Nat :=
  ((List.finRange 256).map (fun r =>
    if (s.msg r).state ≠ .free ∧ (s.msg r).ticket.source = p then (s.msg r).chain.length else 0)).sum

/-- Law 1 (R33), with what keeps it: each port's charge is the cell count of its live records; the cells in use are those
of the chains, each in one chain and once; a FREE record has no chain; a chain is as long as its payload needs and holds
as many bytes (R34). -/
def State.cellsAgree (s : State) : Prop :=
  Table.wf ([] : List Byte) Config.cellCount s.cells = true ∧
  (∀ p, (s.port p).charge = s.cellsOwned p) ∧
  (∀ r, (s.msg r).chain.Nodup) ∧
  (∀ r q, r ≠ q → ∀ k ∈ (s.msg r).chain, k ∉ (s.msg q).chain) ∧
  (∀ k, k ∈ s.cells.map Prod.fst ↔ ∃ r, k ∈ (s.msg r).chain) ∧
  (∀ r, (s.msg r).state = .free → (s.msg r).chain = []) ∧
  (∀ r, (s.msg r).chain.length = cellsFor (s.msg r).length) ∧
  (∀ r, ((s.msg r).chain.flatMap s.cell).length = (s.msg r).length)

/-- Law 2 (R35): the shared cells in use do not exceed 768. -/
abbrev State.sharedBounded (s : State) : Prop := s.sharedInUse ≤ Config.sharedCells

/-- The hand slots of a port agree with its parked take (Law 4, R71): exactly the slot of the parked take is RESERVED, and
the parked take belongs to a CONSUMER or SUBSCRIBER attachment of the port (R94). -/
abbrev PortState.handsAgree (q : PortState) : Prop :=
  (∀ i : Slot, q.slots[i] = .reserved ↔ q.parked.map ParkedTake.slot = some i) ∧
    ∀ w ∈ q.parked, q.attachments[w.handle].any (fun t => t.role != .producer) = true

/-- Law 4 (R71), in the form that every step keeps. -/
abbrev State.handsAgree (s : State) : Prop := ∀ p : Port, (s.port p).handsAgree

/-- How many live records of a port carry the receipt flag (R151). -/
def State.owedReceipts (s : State) (p : Port) : Nat :=
  (List.finRange 256).countP (fun r => (s.msg r).wantsReceipt && (s.msg r).ticket.source == p)

/-- Law 5 (R151): queued entries plus reservations never exceed 16; the reservations are the live records with the receipt
flag; a record whose outcome has been issued has lost the flag (R153), and a FREE one does not carry it (R27). -/
abbrev State.receiptsBounded (s : State) : Prop :=
  (∀ p : Port, (s.port p).receipts.length + (s.port p).reservations ≤ Config.receiptRoom) ∧
  (∀ p : Port, (s.port p).reservations = s.owedReceipts p) ∧
  (∀ r : RecId, (s.msg r).receipted = true ∨ (s.msg r).state = .free → (s.msg r).wantsReceipt = false)

/-- Law 6 (R163) of one queue: at most 31 ordinary entries, and after them at most one OVERFLOW entry. -/
def eventsFormed (q : List Event) : Prop :=
  ∃ ordinary : List Event, (∀ e ∈ ordinary, e.kind ≠ .overflow) ∧ ordinary.length ≤ Config.eventRoom ∧
    (q = ordinary ∨ ∃ n, 1 ≤ n ∧ n ≤ Config.overflowMax ∧ q = ordinary ++ [⟨.overflow, 0, none, none, none, some n⟩])

/-- Law 6 (R163) at every port. -/
def State.eventsFormed (s : State) : Prop := ∀ p, Sys2Proof.Machine.eventsFormed (s.port p).events

/-- Law 7 (R6): no two channels that are not FREE have the same name. -/
abbrev State.namesDiffer (s : State) : Prop :=
  ∀ c d : ChanId, (s.chan c).state ≠ .free → (s.chan d).state ≠ .free → (s.chan c).name = (s.chan d).name → c = d

/-- Every entry of a waiter list is the port of a parked take through an attachment to that channel, no list holds a port
twice, and every parked take has its attachment and its entry (R95). -/
abbrev State.waitersParked (s : State) : Prop :=
  (∀ c : ChanId, (s.chan c).waiters.Nodup ∧ ∀ p ∈ (s.chan c).waiters, (s.parkedOn p).map Prod.fst = some c) ∧
  ∀ p : Port, ∀ w ∈ (s.port p).parked, (s.att ⟨p, w.handle⟩).any (fun u => (s.chan u.channel).waiters.contains p) = true

/-- Law 9 (R97): in an OPEN POINT channel that is not held, the waiter list and the message list are never both
non-empty. -/
abbrev State.nobodyWaits (s : State) : Prop :=
  ∀ c : ChanId, (s.chan c).state = .opened → (s.chan c).kind = .point → (s.chan c).held = false →
    (s.chan c).list = [] ∨ (s.chan c).waiters = []

/-- Law 10 (R11): every attachment belongs to a channel that is OPEN or PURGING, and every such channel has an
attachment. -/
abbrev State.attachedOpen (s : State) : Prop :=
  (∀ p : Port, ∀ h : Handle, ∀ t ∈ s.att ⟨p, h⟩,
    (s.chan t.channel).state = .opened ∨ (s.chan t.channel).state = .purging) ∧
  (∀ c : ChanId, (s.chan c).state = .opened ∨ (s.chan c).state = .purging → s.attachmentsOf c ≠ [])

/-- A port holds at most one attachment per channel and role, and each role suits its channel's kind (R11). -/
abbrev State.rolesFit (s : State) : Prop :=
  (∀ p : Port, ∀ h k : Handle, ∀ t ∈ s.att ⟨p, h⟩, ∀ u ∈ s.att ⟨p, k⟩,
    t.channel = u.channel → t.role = u.role → h = k) ∧
  (∀ p : Port, ∀ h : Handle, ∀ t ∈ s.att ⟨p, h⟩, roleSuits t.role (s.chan t.channel).kind = true)

/-- Channels, attachments and waits agree: Laws 9 and 10 with what keeps them. -/
abbrev State.channelsAgree (s : State) : Prop := s.attachedOpen ∧ s.rolesFit ∧ s.waitersParked ∧ s.nobodyWaits

/-- Law 11 (R84, R112): the redelivery count of a record is at most 7, its taken count at most 32. -/
abbrev State.countsBounded (s : State) : Prop :=
  ∀ r : RecId, (s.msg r).redelivery ≤ Config.poisonLimit ∧ (s.msg r).taken ≤ Config.takenMax

/-- Law 12 (R177): an UNSYNCED port has no attachments, hand entries, parked take, events, queued receipts or
reservations. -/
abbrev PortState.unsyncedEmpty (q : PortState) : Prop :=
  q.session = .unsynced →
    (∀ h : Handle, q.attachments[h] = none) ∧ (∀ i : Slot, q.slots[i] = .empty) ∧ q.parked = none ∧ q.events = [] ∧
      q.receipts = [] ∧ q.reservations = 0

/-- Law 12, with what keeps it: nothing of another block points to an UNSYNCED port (no watch or purge of a channel is
owned there, no record owes a receipt there). -/
abbrev State.unsyncedEmpty (s : State) : Prop :=
  (∀ p : Port, (s.port p).unsyncedEmpty) ∧
  (∀ c : ChanId, ∀ w ∈ (s.chan c).watch, (s.port w.owner.port).session = .active) ∧
  (∀ c : ChanId, ∀ a ∈ (s.chan c).purger, (s.port a.port).session = .active) ∧
  (∀ r : RecId, (s.msg r).wantsReceipt = true → (s.port (s.msg r).ticket.source).session = .active)

/-- The work queue of the reclaim engine (R40): one entry for each channel that is PURGING or CLOSING and for no other,
with a count exactly where the channel is PURGING. -/
abbrev State.reclaimAgrees (s : State) : Prop :=
  (s.reclaim.map WorkEntry.channel).Nodup ∧
  (∀ c : ChanId, (s.chan c).state = .purging ∨ (s.chan c).state = .closing ↔ c ∈ s.reclaim.map WorkEntry.channel) ∧
  (∀ e ∈ s.reclaim, e.count.isSome = true ↔ (s.chan e.channel).state = .purging)

/-- The state of a record in a channel's list suits the channel (R28, R30): DOOMED where it is not OPEN, else QUEUED
(POINT) or LISTED (FANOUT). -/
def listState (ch : Channel) : RecState :=
  match ch.state, ch.kind with
  | .opened, .point => .queued
  | .opened, .fanout => .listed
  | _, _ => .doomed

/-- A HOLDING slot names a record of its attachment's channel: IN_HAND, taken by a CONSUMER (POINT), or a live record with
the SUBSCRIBER attachment among its holders (FANOUT) (R30, R71, R111). -/
def State.slotSound (s : State) (p : Port) (i : Slot) : Bool :=
  match s.slot p i with
  | .holding r h t _ =>
    match s.att ⟨p, h⟩ with
    | none => false
    | some u =>
      (s.msg r).ticket == t && (s.msg r).channel == some u.channel &&
        match (s.chan u.channel).kind with
        | .point => u.role == .consumer && (s.msg r).state == .inHand
        | .fanout => u.role == .subscriber && (s.msg r).holders.contains ⟨p, h⟩
  | _ => true

/-- The HOLDING slots of all ports with their records. -/
def State.holdings (s : State) : List (Port × Slot × RecId) :=
  (List.finRange 4).flatMap (fun p => (List.finRange 4).filterMap (fun i => match s.slot p i with
    | .holding r _ _ _ => some (p, i, r)
    | _ => none))

/-- A list holds no record twice, and only records of its own channel, in the state that suits it (R30). -/
abbrev State.listsSound (s : State) : Prop :=
  ∀ c : ChanId, (s.chan c).list.Nodup ∧
    ∀ r ∈ (s.chan c).list, (s.msg r).channel = some c ∧ (s.msg r).state = listState (s.chan c)

/-- Every HOLDING slot is sound; an IN_HAND record stands in one slot, a FANOUT record in at most one slot of a port
(R30, R71). -/
abbrev State.slotsSound (s : State) : Prop :=
  (∀ p : Port, ∀ i : Slot, s.slotSound p i = true) ∧
  ∀ x ∈ s.holdings, ∀ y ∈ s.holdings, x.2.2 = y.2.2 → (s.msg x.2.2).state = .inHand ∨ x.1 = y.1 → x = y

/-- A holder set has no duplicates; only a LISTED, UNLISTED or DOOMED record has holders, and an UNLISTED one has some;
every holder has its slot, and no holder is pending (R111). With `slotsSound`, every holder is a SUBSCRIBER of the
record's channel, and a POINT record has none. -/
abbrev State.holdersSound (s : State) : Prop :=
  ∀ r : RecId, (s.msg r).holders.Nodup ∧ ((s.msg r).state = .unlisted → (s.msg r).holders ≠ []) ∧
    ∀ a ∈ (s.msg r).holders,
      ((s.msg r).state = .listed ∨ (s.msg r).state = .unlisted ∨ (s.msg r).state = .doomed) ∧
      (List.finRange 4).any (fun i => match s.slot a.port i with
        | .holding q h _ _ => q == r && h == a.handle
        | _ => false) = true ∧ (s.msg r).pending.contains a = false

/-- A pending set has no duplicates and holds SUBSCRIBER attachments of the record's channel; the LISTED records, and no
others, have a pending set that is not empty (R110). -/
abbrev State.pendingSound (s : State) : Prop :=
  ∀ r : RecId, (s.msg r).pending.Nodup ∧ ((s.msg r).pending ≠ [] ↔ (s.msg r).state = .listed) ∧
    ∀ a ∈ (s.msg r).pending,
      (s.att a).any (fun u => u.role == .subscriber && (s.msg r).channel == some u.channel) = true

/-- A record stands where its state says (R28, R30): FREE with the values of Table 2-1; QUEUED, LISTED or DOOMED in its
channel's list; IN_HAND in a hand slot. -/
def State.recordPlaced (s : State) (r : RecId) : Bool :=
  match (s.msg r).state with
  | .free => s.msg r == MsgRecord.free
  | .queued | .listed | .doomed => (s.msg r).channel.any (fun c => (s.chan c).list.contains r)
  | .inHand => s.inHands.contains r
  | .unlisted => true

/-- Every record stands where its state says, and only an UNLISTED one has issued its outcome already (R38). -/
abbrev State.statesSound (s : State) : Prop :=
  ∀ r : RecId, s.recordPlaced r = true ∧ ((s.msg r).receipted = true → (s.msg r).state = .unlisted)

/-- Law 8 (R30), with what keeps it. -/
abbrev State.recordsPlaced (s : State) : Prop :=
  s.listsSound ∧ s.slotsSound ∧ s.holdersSound ∧ s.pendingSound ∧ s.statesSound

/-- The like of Law 9 for a FANOUT channel (R97): in an OPEN one that is not held, no parked subscriber stands in the
pending set of a record of the list. -/
abbrev State.nobodyPends (s : State) : Prop :=
  ∀ c : ChanId, (s.chan c).state = .opened → (s.chan c).kind = .fanout → (s.chan c).held = false →
    ∀ p ∈ (s.chan c).waiters, ∀ w ∈ (s.port p).parked, ∀ r ∈ (s.chan c).list,
      (s.msg r).pending.contains ⟨p, w.handle⟩ = false

/-- Law 3 (R50): in an OPEN or PURGING channel the occupancy does not exceed the depth limit. -/
abbrev State.depthKept (s : State) : Prop :=
  ∀ c : ChanId, (s.chan c).state = .opened ∨ (s.chan c).state = .purging → s.occupancy c ≤ (s.chan c).depthLimit

/-- A FREE channel record holds the FREE values (R3, R26). -/
abbrev State.freeIsFree (s : State) : Prop := ∀ c : ChanId, (s.chan c).state = .free → s.chan c = Channel.free

/-- The laws about where messages and takes stand, together: Laws 3, 4, 8, 9 and 10 with the work queue, and the FREE
values of the FREE channel records. -/
abbrev State.lawful (s : State) : Prop :=
  s.channelsAgree ∧ s.nobodyPends ∧ s.handsAgree ∧ s.reclaimAgrees ∧ s.recordsPlaced ∧ s.depthKept ∧ s.freeIsFree

/-! ## The words of the statements -/

/-- A frame on this link ends here and is taken as a command: the receiver takes it, and the port is ACTIVE (R185, R192). -/
abbrev State.ready (s : State) (l : Link) : Prop := s.takes l = true ∧ (s.port l.port).session = .active

/-- A handle byte names no live attachment of a port (R12). -/
abbrev State.namesNone (s : State) (p : Port) (b : Byte) : Prop := ∀ h : Handle, b.toNat = h.val → s.att ⟨p, h⟩ = none

/-- A handle byte names a live attachment of a port (R12). -/
abbrev State.names (s : State) (p : Port) (b : Byte) (h : Handle) (t : Attachment) : Prop :=
  b.toNat = h.val ∧ s.att ⟨p, h⟩ = some t

/-- A slot byte names no HOLDING slot of a port: it is above 3, or its slot is EMPTY or RESERVED (R79, R80, R83). -/
abbrev State.holdsNone (s : State) (p : Port) (b : Byte) : Prop :=
  ∀ i : Slot, b.toNat = i.val → s.slot p i = .empty ∨ s.slot p i = .reserved

/-- A slot byte names a HOLDING slot of a port. -/
abbrev State.holdsAt (s : State) (p : Port) (b : Byte) (i : Slot) (r : RecId) (h : Handle) (t : Ticket) : Prop :=
  b.toNat = i.val ∧ ∃ lease, s.slot p i = .holding r h t lease

/-- The success results (R186). -/
def succeeds (x : Result) : Bool := [Result.ok, .parked, .empty, .held, .purgeStarted].contains x

/-- The results of the refusals that change more than the response record (R186). -/
def leavesMark (x : Result) : Bool :=
  [Result.badCode, .noMessageSlot, .poolExhausted, .noReceiptRoom, .channelFull].contains x

/-- How a frame came to its port; none for the events of the timers, the reclaim engine and the reset. -/
def linkOf (i : Instr) : Option Link :=
  match i with
  | .frameError l _ => some l
  | .collect l _ => some l
  | _ => (Instr.frame i).map CommandFrame.link

/-- The port that a frame comes to; none for the events of the timers, the reclaim engine and the reset. -/
def senderOf (i : Instr) : Option Port := (linkOf i).map Link.port

/-- The events `es`, in their order, are what an event of the part queues at a queue `q` (R165, R166). -/
def queued (q : List Event) (es : List Event) : List Event := es.foldl placeEvent q

/-- The handles of a port, rising, through which it consumes or subscribes to a channel (R141). -/
def State.listenersAt (s : State) (c : ChanId) (p : Port) : List Handle :=
  (List.finRange 8).filter (fun h => match s.att ⟨p, h⟩ with
    | some t => t.channel == c && t.role != .producer
    | none => false)

/-- CHANNEL_HELD or CHANNEL_RESUMED for the attachments of a port to a channel (R141). -/
def State.heldEvents (s : State) (c : ChanId) (p : Port) (k : EventKind) : List Event :=
  (s.listenersAt c p).map (fun h => ⟨k, (s.chan c).name, some h, none, none, none⟩)

/-- What a message record keeps until it is freed (R27). -/
def MsgRecord.identity (m : MsgRecord) : Ticket × Option ChanId × Word × Nat × List CellId × Bool :=
  (m.ticket, m.channel, m.tag, m.length, m.chain, m.urgent)

/-- The allocation rule (R35): S + N is at most 768. -/
abbrev State.admitted (s : State) (p : Port) (k : Nat) : Prop :=
  s.sharedInUse + (((s.port p).charge + k - 64) - ((s.port p).charge - 64)) ≤ 768

/-- The resource checks pass for a post (R53). -/
abbrev State.resources (s : State) (p : Port) (flags : Byte) (payload : List Byte) : Prop :=
  (∃ r : RecId, (s.msg r).state = .free) ∧ s.admitted p (cellsFor payload.length) ∧
    (flags.getLsbD 1 = true → (s.port p).receipts.length + (s.port p).reservations < 16)

/-- A counter of a channel (R145). -/
def State.counter (s : State) (c : ChanId) (k : Counter) : Word := (s.chan c).stats[counterNumber k]

/-- The counters of a channel but one are the same. -/
abbrev State.otherCounters (c : ChanId) (ks : List Counter) (s t : State) : Prop :=
  ∀ k : Counter, k ∉ ks → t.counter c k = s.counter c k

/-- The channels, records, cells, work queue, clock and waiting commands of two states are the same. -/
abbrev State.storesSame (s t : State) : Prop :=
  t.channels = s.channels ∧ t.records = s.records ∧ t.cells = s.cells ∧ t.reclaim = s.reclaim ∧
    t.tickPhase = s.tickPhase ∧ t.engineGap = s.engineGap ∧ t.pending = s.pending

/-- Every port but one is the same. -/
abbrev State.othersSame (p : Port) (s t : State) : Prop := ∀ q : Port, q ≠ p → t.port q = s.port q

/-- Every channel but one is the same. -/
abbrev State.restOfChannels (c : ChanId) (s t : State) : Prop := ∀ d : ChanId, d ≠ c → t.chan d = s.chan d

/-- Every message record but one is the same. -/
abbrev State.restOfRecords (r : RecId) (s t : State) : Prop := ∀ q : RecId, q ≠ r → t.msg q = s.msg q

/-- The clock, the engine's gap and the waiting commands are the same. -/
abbrev State.clockSame (s t : State) : Prop :=
  t.tickPhase = s.tickPhase ∧ t.engineGap = s.engineGap ∧ t.pending = s.pending

/-- The clock and the waiting commands are the same where channels may join and leave the work queue: the engine's gap
stays, but that an engine which starts, idle before and with work now, has none (log 26). -/
abbrev State.clockLeft (s t : State) : Prop :=
  t.tickPhase = s.tickPhase ∧ t.engineGap = (if s.reclaim = [] ∧ t.reclaim ≠ [] then 0 else s.engineGap) ∧
    t.pending = s.pending

/-- The clock and the waiting commands are the same, and the reclaim engine has taken a step (log 26). -/
abbrev State.clockStep (s t : State) : Prop :=
  t.tickPhase = s.tickPhase ∧ t.engineGap = s.engineGap - 1 ∧ t.pending = s.pending

/-- A port's session, epoch, lease, options, bad-code count and penalty timer are the same. -/
abbrev State.sessionSame (s t : State) (q : Port) : Prop :=
  (t.port q).session = (s.port q).session ∧ (t.port q).epoch = (s.port q).epoch ∧
    (t.port q).lease = (s.port q).lease ∧ (t.port q).receiptAttention = (s.port q).receiptAttention ∧
    (t.port q).badCodes = (s.port q).badCodes ∧ (t.port q).penalty = (s.port q).penalty

/-- Every port's session, epoch, lease, options, bad-code count and penalty timer are the same. -/
abbrev State.sessionsSame (s t : State) : Prop := ∀ q : Port, s.sessionSame t q

/-- Every hand slot and every parked take is the same. -/
abbrev State.handsSame (s t : State) : Prop :=
  ∀ q : Port, (t.port q).slots = (s.port q).slots ∧ (t.port q).parked = (s.port q).parked

/-- A channel is the same but for its message list and its counters. -/
abbrev State.listAndStats (c : ChanId) (s t : State) : Prop :=
  t.chan c = { s.chan c with list := (t.chan c).list, stats := (t.chan c).stats }

/-- An arrival is reported at once: at the threshold, or for an urgent record (R171, R173). -/
def Attachment.reports (u : Attachment) (urgent : Bool) : Bool :=
  u.threshold != 0 && (urgent || u.arrivals + 1 == u.threshold)

/-- An attachment after one arrival (R171, R173). -/
def Attachment.afterArrival (u : Attachment) (urgent : Bool) : Attachment :=
  if u.threshold = 0 then u
  else if u.reports urgent then { u with arrivals := 0, timer := none }
  else { u with arrivals := u.arrivals + 1,
                timer := if u.timer = none ∧ u.wait ≠ 0 then some u.wait.toNat else u.timer }

/-- Whether an attachment is one to a channel in a role. -/
def Attachment.isIn (u : Attachment) (c : ChanId) (x : Role) : Bool := u.channel == c && u.role == x

/-- The events that a rule queues at a port for some of its attachments, handles rising (R13). -/
def State.eventsFor (s : State) (q : Port) (mk : Handle → Attachment → Option Event) : List Event :=
  (List.finRange 8).filterMap (fun h => (s.att ⟨q, h⟩).bind (mk h))

/-- The ARRIVAL events at a port when an arrival comes to some attachments (R171, R173). -/
def State.arrivalEvents (s : State) (who : AttRef → Bool) (urgent : Bool) (q : Port) : List Event :=
  s.eventsFor q (fun h u => if who ⟨q, h⟩ && u.reports urgent then
    some ⟨.arrival, (s.chan u.channel).name, some h, none, none, some (u.arrivals + 1)⟩ else none)

/-- The attachments of a channel in a role. -/
def State.isIn (s : State) (c : ChanId) (x : Role) (a : AttRef) : Bool := (s.att a).any (fun u => u.isIn c x)

/-- The STATS_NEAR_WRAP events at a port for a counter of a channel (R148). -/
def State.nearWrapEvents (s : State) (c : ChanId) (k : Counter) (q : Port) : List Event :=
  s.eventsFor q (fun h u => if u.channel == c && u.statsNotify then
    some ⟨.statsNearWrap, (s.chan c).name, some h, none, none, some (counterNumber k).val⟩ else none)

/-- The STATS_NEAR_WRAP events at a port when a counter of a channel rises `n` times (R148). -/
def State.wrapEvents (s : State) (c : ChanId) (k : Counter) (n : Nat) (q : Port) : List Event :=
  if (List.range n).any (fun j => s.counter c k + BitVec.ofNat 16 j == 49151) then s.nearWrapEvents c k q else []

/-- The STATS_NEAR_WRAP events at a port when a counter of a channel that has risen `n` times rises once more (R148). -/
def State.wrapAfter (s : State) (c : ChanId) (k : Counter) (n : Nat) (q : Port) : List Event :=
  if s.counter c k + BitVec.ofNat 16 n = 49151 then s.nearWrapEvents c k q else []

/-- From `s` to `t` the occupancy of an OPEN channel has fallen, and is at its room mark or below (R64). -/
def State.makesRoom (s t : State) (c : ChanId) : Bool :=
  (t.chan c).state == .opened && decide (t.occupancy c < s.occupancy c) && decide (t.occupancy c ≤ (t.chan c).roomMark)

/-- The ROOM events at a port when the ROOM check of a channel tells its producers (R64). -/
def State.roomEvents (s : State) (tells : Bool) (c : ChanId) (q : Port) : List Event :=
  s.eventsFor q (fun h u => if tells && u.isIn c .producer && u.roomWanted then
    some ⟨.room, (s.chan c).name, some h, none, none, none⟩ else none)

/-- An attachment after the ROOM check of a channel (R64). -/
def Attachment.afterRoom (u : Attachment) (tells : Bool) (c : ChanId) : Attachment :=
  if tells && u.isIn c .producer then { u with roomWanted := false } else u

/-- From `s` to `t`, where nothing but the occupancy of a channel and its room bears on the attachments: every attachment
is the same, but that the ROOM check has cleared the room-wanted flags it answers. -/
abbrev State.attsAfterRoom (s t : State) (c : ChanId) : Prop :=
  ∀ a : AttRef, t.att a = (s.att a).map (fun u => u.afterRoom (s.makesRoom t c) c)

/-- The lease timer of a slot that a port fills now (R88). -/
def State.freshLease (s : State) (p : Port) : Option Nat :=
  if (s.port p).lease = 0 then none else some (s.port p).lease.toNat

/-- LEASE_EXPIRED at the port whose slot's lease has run out (R89). -/
def State.leaseEvents (s : State) (p : Port) (i : Slot) (c : ChanId) (h : Handle) (tk : Ticket) (q : Port) : List Event :=
  if q = p then [⟨.leaseExpired, (s.chan c).name, some h, some i, some tk, none⟩] else []

/-- The receipt of an outcome, if the record's receipt flag is set (R153, R154). -/
def State.receiptOf (s : State) (c : ChanId) (o : MsgOutcome) (detail : Nat) (r : RecId) : List Receipt :=
  if (s.msg r).wantsReceipt then [⟨(s.msg r).ticket, (s.chan c).name, (s.msg r).tag, o, detail⟩] else []

/-- From `s` to `t` the receipt of one outcome joins its source port's queue, and no other queue changes (R153). -/
abbrev State.oneReceipt (s t : State) (c : ChanId) (o : MsgOutcome) (detail : Nat) (r : RecId) : Prop :=
  ∀ q : Port, (t.port q).receipts = (s.port q).receipts ++
    (if q = (s.msg r).ticket.source then s.receiptOf c o detail r else [])

/-- From `s` to `t` the records of `freed` and no others are freed, as far as the cell pool goes (R36, R39): their cells
return, each port's charge falls by the chain lengths of those it posted, and the payload of every other record stays. -/
abbrev State.cellsReturn (s t : State) (freed : List RecId) : Prop :=
  t.cells = s.cells.filter (fun e => !freed.any (fun r => (s.msg r).chain.contains e.1)) ∧
  (∀ q : Port, (t.port q).charge = (s.port q).charge -
    ((freed.filter (fun r => (s.msg r).ticket.source == q)).map (fun r => (s.msg r).chain.length)).sum) ∧
  (s.cellsAgree → ∀ r : RecId, r ∉ freed → t.payload r = s.payload r)

/-- From `s` to `t` the outcomes of the records of `issued` and no others are issued, as far as the reservations go: that
of each record with the receipt flag becomes an entry (R153), and no other reservation and no port's serial changes. -/
abbrev State.reservationsReturn (s t : State) (issued : List RecId) : Prop :=
  ∀ q : Port, (t.port q).serial = (s.port q).serial ∧ (t.port q).reservations =
    (s.port q).reservations - issued.countP (fun r => (s.msg r).wantsReceipt && (s.msg r).ticket.source == q)

/-! ### The watch at a post (R135) -/

/-- A tag equals the tag of the channel's watch under its mask. -/
def Channel.hit (ch : Channel) (tag : Word) : Bool := ch.watch.any (fun w => tag &&& w.mask == w.tag &&& w.mask)

/-- A channel after the watch compare of a post: a hit holds it, and removes the watch unless it is rearmed. -/
def Channel.watched (ch : Channel) (tag : Word) : Channel :=
  if ch.hit tag then { ch with held := true, watch := ch.watch.filter Watch.rearm } else ch

/-- What a hit queues at a port: WATCH_HIT for the owner, then CHANNEL_HELD if the channel was not held. -/
def State.watchEvents (s : State) (c : ChanId) (tag : Word) (tk : Ticket) (q : Port) : List Event :=
  if (s.chan c).hit tag then
    (match (s.chan c).watch with
      | some w => if q = w.owner.port then
          [⟨.watchHit, (s.chan c).name, some w.owner.handle, none, some tk, none⟩] else []
      | none => []) ++ (if (s.chan c).held then [] else s.heldEvents c q .channelHeld)
  else []

/-- A record after the watch compare: a hit that holds the channel ends an expiry that was due (log 5). -/
def State.pausedAt (s : State) (c : ChanId) (tag : Word) (r : RecId) : MsgRecord :=
  if (s.chan c).hit tag = true ∧ (s.chan c).held = false ∧ r ∈ (s.chan c).list then
    { s.msg r with expiring := false } else s.msg r

/-! ### Subscribers of a post (R58, R102, R113, R125) -/

/-- A SUBSCRIBER of a channel whose filter passes a tag, or rejects it. -/
def State.passing (s : State) (c : ChanId) (tag : Word) (passes : Bool) (a : AttRef) : Bool :=
  (s.att a).any (fun u => u.isIn c .subscriber && u.filter.passes tag == passes)

/-- The lag count of a subscriber after one more shed. -/
def Attachment.nextLag (u : Attachment) : Nat := min (u.lag + 1) 65535

/-- The LAGGED events at a port when a record is shed (R124, R125). -/
def State.lagEvents (s : State) (r : RecId) (q : Port) : List Event :=
  s.eventsFor q (fun h u => if (s.msg r).pending.contains ⟨q, h⟩ && !u.lagReported then
    some ⟨.lagged, (s.chan u.channel).name, some h, none, none, some u.nextLag⟩ else none)

/-! ### Binds (R99) -/

/-- The parked take of a port, with the attachment it was sent through. -/
def State.waiterOf (s : State) (q : Port) : Option AttRef := (s.port q).parked.map (fun w => ⟨q, w.handle⟩)

/-- WAIT_DONE at a port whose parked take is bound to a record with this ticket. -/
def State.doneEvent (s : State) (c : ChanId) (q : Port) (tk : Ticket) : List Event :=
  match (s.port q).parked with
  | some w => [⟨.waitDone, (s.chan c).name, some w.handle, some w.slot, some tk, none⟩]
  | none => []

/-- The hands of a port after its parked take is bound to a record: the reserved slot is HOLDING with a fresh lease, the
wait is over, and every other slot is as it was. -/
abbrev State.bound (s t : State) (q : Port) (r : RecId) (tk : Ticket) : Prop :=
  ∀ w ∈ (s.port q).parked, (t.port q).parked = none ∧
    ∀ i : Slot, t.slot q i = if i = w.slot then .holding r w.handle tk (s.freshLease q) else s.slot q i

/-- The hands of a port are the same. -/
abbrev State.handSame (s t : State) (q : Port) : Prop :=
  (t.port q).parked = (s.port q).parked ∧ (t.port q).slots = (s.port q).slots

/-- The subscribers parked on a channel that a post to it binds at once (R102): none where the channel is held, or becomes
held by the post's own hit. -/
def State.takers (s : State) (c : ChanId) (tag : Word) : List AttRef :=
  if (s.chan c).held || (s.chan c).hit tag then []
  else (s.chan c).waiters.filterMap (fun q => (s.waiterOf q).filter (s.passing c tag true))

/-- The subscribers that a post leaves pending (R58). -/
def State.awaiting (s : State) (c : ChanId) (tag : Word) : List AttRef :=
  allRefs.filter (fun a => s.passing c tag true a && !(s.takers c tag).contains a)

/-- The first record of a FANOUT list that is pending for the parked take of a port (R103). -/
def State.firstFor (s : State) (c : ChanId) (q : Port) : Option RecId :=
  (s.waiterOf q).bind (fun a => (s.chan c).list.find? (fun r => (s.msg r).pending.contains a))

/-- The parked subscribers that a RESUME binds to a record (R103). -/
def State.resumedBy (s : State) (c : ChanId) (r : RecId) : List AttRef :=
  (s.chan c).waiters.filterMap (fun q => if s.firstFor c q = some r then s.waiterOf q else none)

/-- The command that names an expiry. -/
def expiryCommand : Expiry → Instr
  | .lifetime r => .lifetimeExpiry r
  | .wait p => .waitExpiry p
  | .lease p i => .leaseExpiry p i
  | .penalty p => .penaltyExpiry p
  | .coalescing p h => .coalescingExpiry p h

/-! ### What the attachments of a port leave behind when they go (R18 to R23, R181)

`hs` says which handles of port `p` go: one at a DETACH, all at a teardown. -/

/-- The records in the port's slots that were taken through the attachments that go, slots rising. -/
def State.lettingGo (s : State) (p : Port) (hs : Handle → Bool) : List RecId :=
  (List.finRange 4).filterMap (fun i => match s.slot p i with
    | .holding r h _ _ => if hs h then some r else none
    | _ => none)

/-- The attachment goes. -/
def leaves (p : Port) (hs : Handle → Bool) (a : AttRef) : Bool := a.port == p && hs a.handle

/-- The attachment goes from the channel. -/
def State.leavesChannel (s : State) (p : Port) (hs : Handle → Bool) (c : ChanId) (a : AttRef) : Bool :=
  leaves p hs a && (s.att a).any (fun u => u.channel == c)

/-- A POINT record is handed back to the list: its channel is OPEN and its redelivery count below 7 (R84). -/
def State.requeues (s : State) (c : ChanId) (r : RecId) : Bool :=
  (s.chan c).state == .opened && decide ((s.msg r).redelivery < 7)

/-- The records of a channel that its hand-backs requeue, in the order in which they come back. -/
def State.comingBack (s : State) (p : Port) (hs : Handle → Bool) (c : ChanId) : List RecId :=
  (s.lettingGo p hs).filter (fun r => (s.msg r).channel == some c && (s.chan c).kind == .point && s.requeues c r)

/-- The waiters of a channel that stay. -/
def State.waitersLeft (s : State) (p : Port) (hs : Handle → Bool) (c : ChanId) : List Port :=
  (s.chan c).waiters.filter (fun q => !(s.waiterOf q).any (leaves p hs))

/-- Records that come back, each with the waiter it is bound to (R101). -/
def State.bindsBack (s : State) (p : Port) (hs : Handle → Bool) (c : ChanId) : List (RecId × Port) :=
  if (s.chan c).held then [] else (s.comingBack p hs c).zip (s.waitersLeft p hs c)

/-- A record that is freed as the attachments go: a POINT record that is poisoned or discarded (R84), a FANOUT record that
nobody holds or awaits any more (R121). -/
def State.freedBy (s : State) (p : Port) (hs : Handle → Bool) (r : RecId) : Bool :=
  match (s.msg r).channel with
  | none => false
  | some c =>
    match (s.chan c).kind with
    | .point => (s.lettingGo p hs).contains r && !s.requeues c r
    | .fanout =>
      ((s.msg r).holders ++ (s.msg r).pending).any (leaves p hs) && (s.msg r).state != .doomed &&
        ((s.msg r).holders ++ (s.msg r).pending).all (leaves p hs)

/-- The list of a channel once the attachments have gone and before it closes, if it does (R85, R20). -/
def State.listLeft (s : State) (p : Port) (hs : Handle → Bool) (c : ChanId) : List RecId :=
  ((s.comingBack p hs c).drop (s.bindsBack p hs c).length).reverse ++
    (s.chan c).list.filter (fun r => (s.msg r).state != .listed || (s.msg r).pending.any (fun a => !leaves p hs a))

/-- The channel's last attachment goes. -/
def State.lastGoes (s : State) (p : Port) (hs : Handle → Bool) (c : ChanId) : Bool :=
  !(s.attachmentsOf c).isEmpty && (s.attachmentsOf c).all (leaves p hs)

/-- A channel, but for its counters, once the attachments have gone (R21, R22, R23). -/
def State.channelLeft (s : State) (p : Port) (hs : Handle → Bool) (c : ChanId) : Channel :=
  if s.lastGoes p hs c then
    if s.listLeft p hs c = [] then Channel.free
    else { s.chan c with state := .closing, list := s.listLeft p hs c, waiters := [], held := false, watch := none,
                         purger := none }
  else { s.chan c with
         list := s.listLeft p hs c
         waiters := (s.waitersLeft p hs c).drop (s.bindsBack p hs c).length
         watch := (s.chan c).watch.filter (fun w => !s.leavesChannel p hs c w.owner)
         purger := (s.chan c).purger.filter (fun a => !s.leavesChannel p hs c a) }

/-- A message record once the attachments have gone (R19, R20, R41, R84, R86). -/
def State.recordLeft (s : State) (p : Port) (hs : Handle → Bool) (r : RecId) : MsgRecord :=
  let m := s.msg r
  match m.channel with
  | none => m
  | some c =>
    if s.freedBy p hs r then MsgRecord.free
    else if ((s.bindsBack p hs c).map Prod.fst).contains r then
      { m with redelivery := m.redelivery + 1, expiring := false }
    else if (s.comingBack p hs c).contains r then
      if s.lastGoes p hs c then { m with state := .doomed, redelivery := m.redelivery + 1, pending := [], expiring := false }
      else { m with state := .queued, redelivery := m.redelivery + 1, expiring := false }
    else
      let holders := m.holders.filter (fun a => !leaves p hs a)
      let pending := m.pending.filter (fun a => !leaves p hs a)
      if m.state = .listed ∧ pending = [] then
        { m with state := .unlisted, holders := holders, pending := [], expiring := false }
      else if m.state = .queued ∧ s.lastGoes p hs c = true then
        { m with state := .doomed, pending := [], expiring := false }
      else { m with holders := holders, pending := pending }

/-- The work queue once the attachments have gone (R40): the entry of a channel that becomes FREE leaves it, that of a
PURGING channel that becomes CLOSING loses its count, and the OPEN channels that become CLOSING join the tail, each as its
last attachment goes. -/
def State.reclaimLeft (s : State) (p : Port) (hs : Handle → Bool) : List WorkEntry :=
  (s.reclaim.filter (fun e => !(s.lastGoes p hs e.channel && (s.listLeft p hs e.channel).isEmpty))).map
      (fun e => if s.lastGoes p hs e.channel then { e with count := none } else e) ++
    (List.finRange 8).filterMap (fun h => (s.att ⟨p, h⟩).bind (fun u =>
      if s.lastGoes p hs u.channel && (s.attachmentsOf u.channel).getLast? == some ⟨p, h⟩ &&
        (s.chan u.channel).state == .opened && !(s.listLeft p hs u.channel).isEmpty then some ⟨u.channel, none⟩ else none))

/-- The records that the emptying of the hand slots frees, slots rising (R19). -/
def State.freedFromHands (s : State) (p : Port) (hs : Handle → Bool) : List RecId :=
  (s.lettingGo p hs).filter (fun r => s.freedBy p hs r && (s.msg r).state != .listed)

/-- The records that the leaving of the pending sets frees, handles rising and in list order (R20). -/
def State.freedFromLists (s : State) (p : Port) (hs : Handle → Bool) : List RecId :=
  (List.finRange 8).flatMap (fun h => if hs h then
    match s.att ⟨p, h⟩ with
    | some u => (s.chan u.channel).list.filter (fun r => s.freedBy p hs r && (s.msg r).pending.contains ⟨p, h⟩)
    | none => [] else [])

/-- The records that are freed as the attachments go, in the order in which their outcomes are issued (R155). -/
def State.freedInOrder (s : State) (p : Port) (hs : Handle → Bool) : List RecId :=
  s.freedFromHands p hs ++ s.freedFromLists p hs

/-- The receipt of a record that is freed as the attachments go: none where its outcome has been issued before (R38). -/
def State.farewell (s : State) (r : RecId) : List Receipt :=
  match (s.msg r).channel, (s.msg r).receipted with
  | none, _ => []
  | _, true => []
  | some c, false =>
    match (s.chan c).kind, (s.chan c).state with
    | .fanout, _ => s.receiptOf c .delivered (s.msg r).taken r
    | .point, .opened => s.receiptOf c .poisoned 0 r
    | .point, _ => s.receiptOf c .discarded 0 r

/-- The receipts that a port's queue gains as the attachments go. -/
def State.farewells (s : State) (p : Port) (hs : Handle → Bool) (q : Port) : List Receipt :=
  ((s.freedInOrder p hs).filter (fun r => (s.msg r).ticket.source == q)).flatMap s.farewell

/-- How often each counter of a channel rises as the attachments go (R87, R121). -/
def State.risesBy (s : State) (p : Port) (hs : Handle → Bool) (c : ChanId) (k : Counter) : Nat :=
  match (s.chan c).kind, k with
  | .point, .returned => (s.lettingGo p hs).countP (fun r => (s.msg r).channel == some c)
  | .point, .discarded => (s.freedInOrder p hs).countP (fun r => (s.msg r).channel == some c)
  | .fanout, .delivered => (s.freedInOrder p hs).countP (fun r => (s.msg r).channel == some c && !(s.msg r).receipted)
  | _, _ => 0

/-- The hands of a port once the attachments of port `p` have gone: the slots and the parked take of those attachments are
empty; a waiter of another port to which a record comes back holds it. -/
abbrev State.handsLeft (s t : State) (p : Port) (hs : Handle → Bool) (q : Port) : Prop :=
  (∀ c : ChanId, ∀ x ∈ s.bindsBack p hs c, x.2 = q → s.bound t q x.1 (s.msg x.1).ticket) ∧
  ((∀ c : ChanId, ∀ x ∈ s.bindsBack p hs c, x.2 ≠ q) →
    (t.port q).parked = (if (s.waiterOf q).any (leaves p hs) then none else (s.port q).parked) ∧
    ∀ i : Slot, t.slot q i = match s.slot q i with
      | .holding r h tk lease => if leaves p hs ⟨q, h⟩ then .empty else .holding r h tk lease
      | .reserved => if (s.waiterOf q).any (leaves p hs) then .empty else .reserved
      | .empty => .empty)

/-- A record comes back to the list of a channel without being bound: it is an arrival (R61). -/
def State.arrivesBack (s : State) (p : Port) (hs : Handle → Bool) (c : ChanId) (r : RecId) : Bool :=
  (s.comingBack p hs c).contains r && !((s.bindsBack p hs c).map Prod.fst).contains r

/-- An attachment after the arrivals of some records at its channel, each urgent or not (R171, R173). -/
def Attachment.afterArrivals (u : Attachment) (urgents : List Bool) : Attachment := urgents.foldl Attachment.afterArrival u

/-- The urgent flags of those records of a list that arrive back at a channel. -/
def State.urgentsBack (s : State) (p : Port) (hs : Handle → Bool) (c : ChanId) (records : List RecId) : List Bool :=
  (records.filter (s.arrivesBack p hs c)).map (fun r => (s.msg r).urgent)

/-- The state without the attachments that go: they are told nothing (R18 step 1). -/
def State.without (s : State) (p : Port) (hs : Handle → Bool) : State :=
  s.modPort p (fun q => { q with attachments := Vector.ofFn (fun h => if hs h then none else q.attachments[h]) })

/-- The ARRIVAL events at a port when an arrival comes to the consumers of a channel after some others. -/
def State.arrivalAfter (s : State) (c : ChanId) (earlier : List Bool) (urgent : Bool) (q : Port) : List Event :=
  s.eventsFor q (fun h u => if u.isIn c .consumer && (u.afterArrivals earlier).reports urgent then
    some ⟨.arrival, (s.chan c).name, some h, none, none, some ((u.afterArrivals earlier).arrivals + 1)⟩ else none)

/-- Each element of a list, behind those that come before it; `before` come before the list. -/
def eachAfter {α : Type} (before : List α) : List α → List (List α × α)
  | [] => []
  | x :: rest => (before, x) :: eachAfter (before ++ [x]) rest

/-- How many records of a list belong to a channel and meet a condition. -/
def State.countOf (s : State) (c : ChanId) (records : List RecId) (f : RecId → Bool) : Nat :=
  records.countP (fun r => (s.msg r).channel == some c && f r)

/-- What the free of a FANOUT record queues at a port after the frees of `before`: STATS_NEAR_WRAP if DELIVERED has come
to its mark (R121, R148). -/
def State.deliveredEvents (s : State) (p : Port) (hs : Handle → Bool) (q : Port) (before : List RecId) (r : RecId) :
    List Event :=
  match (s.msg r).channel, (s.msg r).receipted with
  | some c, false => (s.without p hs).wrapAfter c .delivered (s.countOf c before (fun x => !(s.msg x).receipted)) q
  | _, _ => []

/-- What the hand-back of a record queues at a port after those of `before`. POINT: STATS_NEAR_WRAP if RETURNED has come to
its mark (R148); then WAIT_DONE for the waiter it is bound to (R99, R101), or ARRIVAL for the consumers (R61), or, if it is
freed, STATS_NEAR_WRAP if DISCARDED has. FANOUT: what its free queues, if it is freed. -/
def State.handBackEvents (s : State) (p : Port) (hs : Handle → Bool) (q : Port) (before : List RecId) (r : RecId) :
    List Event :=
  let o := s.without p hs
  match (s.msg r).channel with
  | none => []
  | some c =>
    match (s.chan c).kind with
    | .point =>
      o.wrapAfter c .returned (s.countOf c before (fun _ => true)) q ++
        (if s.requeues c r then
          (if s.arrivesBack p hs c r then o.arrivalAfter c (s.urgentsBack p hs c before) (s.msg r).urgent q
          else if (s.bindsBack p hs c).contains (r, q) then s.doneEvent c q (s.msg r).ticket else [])
        else o.wrapAfter c .discarded (s.countOf c before (fun x => !s.requeues c x)) q)
    | .fanout =>
      if (s.freedFromHands p hs).contains r then
        s.deliveredEvents p hs q (before.filter (s.freedFromHands p hs).contains) r else []

/-- The events that a port's queue gains as the attachments of port `p` go, from `s` to `t`: those of the hand-backs, slots
rising; those of the frees in the lists; and ROOM where room has come (R64), channels rising (log 12). -/
def State.goneEvents (s t : State) (p : Port) (hs : Handle → Bool) (q : Port) : List Event :=
  (eachAfter [] (s.lettingGo p hs)).flatMap (fun x => s.handBackEvents p hs q x.1 x.2) ++
    (eachAfter (s.freedFromHands p hs) (s.freedFromLists p hs)).flatMap (fun x => s.deliveredEvents p hs q x.1 x.2) ++
    (List.finRange 32).flatMap (fun c => (s.without p hs).roomEvents (s.makesRoom t c) c q)

/-- What the going of a port's attachments does to the channels, the work queue, the cells and the charges. -/
abbrev State.gone (s t : State) (p : Port) (hs : Handle → Bool) : Prop :=
  (∀ c : ChanId, t.chan c = { s.channelLeft p hs c with stats := (t.chan c).stats }) ∧
  (∀ c : ChanId, s.lastGoes p hs c = true → s.listLeft p hs c = [] → t.chan c = Channel.free) ∧
  (∀ c : ChanId, ∀ k : Counter, s.lastGoes p hs c = false →
    t.counter c k = s.counter c k + BitVec.ofNat 16 (s.risesBy p hs c k)) ∧
  t.reclaim = s.reclaimLeft p hs ∧ s.cellsReturn t (s.freedInOrder p hs)

/-- What the going of the attachments of port `p` does at a port: to its hands, receipts and events, and to its attachments
that stay (arrivals, R171, and the answered room-wanted flags, R64). -/
abbrev State.portGone (s t : State) (p : Port) (hs : Handle → Bool) (q : Port) : Prop :=
  s.handsLeft t p hs q ∧
  (t.port q).receipts = (s.port q).receipts ++ s.farewells p hs q ∧
  (t.port q).reservations = (s.port q).reservations - (s.farewells p hs q).length ∧
  (∀ h : Handle, leaves p hs ⟨q, h⟩ = false → t.att ⟨q, h⟩ = (s.att ⟨q, h⟩).map (fun u =>
    (if u.role = .consumer then u.afterArrivals (s.urgentsBack p hs u.channel (s.lettingGo p hs)) else u).afterRoom
      (s.makesRoom t u.channel) u.channel)) ∧
  (t.port q).events = queued (s.port q).events (s.goneEvents t p hs q) ∧
  (t.port q).serial = (s.port q).serial

/-- The port `p` is as `q` but for its response record, which is `x`, its SDO output and its frame receiver: what every
frame taken as a command writes (R187, R192, R195). -/
abbrev State.portIs (t : State) (p : Port) (q : PortState) (x : Response) : Prop :=
  t.port p = { q with response := x, sdo := (t.port p).sdo, deaf := (t.port p).deaf, flight := none }

/-- Nothing has changed but what every frame taken as a command writes. -/
abbrev State.onlyAnswers (s t : State) (p : Port) (x : Response) : Prop :=
  s.storesSame t ∧ s.othersSame p t ∧ t.portIs p (s.port p) x

end Sys2Proof.Machine
end

