-- ==== Sys2Proof/Certificates/Slice0/Obligations.lean ====
section
/-! DEFINITION. The statements for the provers. `s.ready l` says that a frame on the link `l` ends here and is taken as a
command on an ACTIVE port; `s.lawful` is the invariant that the statement `LawfulIsKept` is about. -/

open Sys2Proof Sys2Proof.Machine

/-! ## The machine -/

/-- One step with a command at the front of the queue is that command's meaning on the rest (log 1). -/
def Obligations.StepRunsTheFrontCommand : Prop :=
  ∀ (c : Instr) (s : State), step { s with pending := c :: s.pending } = exec c s

/-- The part never stops: every step, of a command or of the part itself, answers a next state. -/
def Obligations.EveryStepAnswersANextState : Prop := ∀ s : State, ∃ t, step s = .next t

/-- Device reset leaves every block as R26 and R93 (and R49, R162, R176, R191) say. -/
def Obligations.ResetEmptiesThePart : Prop :=
  ∀ (cause : ResetCause) (s : State), cause ≠ .shortPulse →
    ∃ t, exec (.deviceReset cause) s = .next t ∧
      (∀ p : Port,
        (t.port p).session = .unsynced ∧ (t.port p).epoch = 0 ∧ (t.port p).lease = 0 ∧
        (t.port p).receiptAttention = false ∧ (t.port p).response = ⟨0, 0, .none, [], false⟩ ∧
        (t.port p).badCodes = 0 ∧ (t.port p).penalty = none ∧ (∀ i, t.slot p i = .empty) ∧ (t.port p).parked = none ∧
        (t.port p).receipts = [] ∧ (t.port p).reservations = 0 ∧ (t.port p).events = [] ∧ (t.port p).serial = 0 ∧
        (t.port p).charge = 0 ∧ (∀ h, t.att ⟨p, h⟩ = none) ∧ t.statusByte p = BitVec.ofNat 8 p.val ∧
        t.attnAsserted p = false) ∧
      (∀ c : ChanId, t.chan c = ⟨.free, 0, .point, 1, 0, .refuse, 0, [], [], false, none, Vector.replicate 8 0, none⟩) ∧
      (∀ name : Word, t.lookupName name = none) ∧
      (∀ r : RecId, t.msg r =
        ⟨.free, ⟨0, 0⟩, none, 0, 0, [], false, false, none, false, 0, [], [], 0, false⟩) ∧
      t.freeCells.length = 1024 ∧ t.reclaim = [] ∧ t.tickPhase = 0

/-- What causes device reset, and what a short low pulse does, for either choice of the part (R2; log 8). The waiting
commands and the count of free choices are the model's own and stay (log 16, log 21); that a pulse which does not reset
leaves a frame in flight as it was is the model's choice (log 8). -/
def Obligations.ResetCausesAndTheShortPulse : Prop :=
  ∀ s : State,
    exec (.deviceReset .powerOn) s = .next { State.reset with draws := s.draws, pending := s.pending } ∧
    exec (.deviceReset .lowPulse) s = .next { State.reset with draws := s.draws, pending := s.pending } ∧
    ∃ t, exec (.deviceReset .shortPulse) s = .next t ∧
      (t = { State.reset with draws := s.draws + 1, pending := s.pending } ∨ t = { s with draws := s.draws + 1 })

/-! ## Frames -/

/-- The bits of a byte, most significant first. -/
def crcBits (b : Byte) : List Bool := (List.range 8).map (fun k => b.getLsbD (7 - k))

/-- The CRC (R194): one bit at a time through the polynomial 0x1021 from 0xFFFF, its check value, and what it covers in a
command frame and in a COLLECT envelope. -/
def Obligations.CrcIsTheSpecsCrc : Prop :=
  (∀ bytes : List Byte, crc16 bytes =
    (bytes.flatMap crcBits).foldl
      (fun (c : Word) (b : Bool) => if c.msb != b then (c <<< 1) ^^^ 0x1021#16 else c <<< 1) 0xFFFF#16) ∧
  crc16 [0x31, 0x32, 0x33, 0x34, 0x35, 0x36, 0x37, 0x38, 0x39] = 0x29B1#16 ∧
  (∀ (code seq : Byte) (args : List Byte),
    let covered := code :: seq :: ((BitVec.ofNat 16 args.length).extractLsb' 8 8) ::
      ((BitVec.ofNat 16 args.length).extractLsb' 0 8) :: args
    buildFrame code seq args = covered ++ [(crc16 covered).extractLsb' 8 8, (crc16 covered).extractLsb' 0 8]) ∧
  (∀ x : Response,
    let covered := x.seq :: x.code :: resultCode x.result :: ((BitVec.ofNat 16 x.data.length).extractLsb' 8 8) ::
      ((BitVec.ofNat 16 x.data.length).extractLsb' 0 8) :: x.data
    envelope x = covered ++ [(crc16 covered).extractLsb' 8 8, (crc16 covered).extractLsb' 0 8])

/-- Decoding the frame of a well-formed frame command gives that command back, with every operand. (A frame of zero bytes
is the FRAME_ERROR of no bytes: the model's reading, log 17.) -/
def Obligations.FramesDecodeToTheirCommands : Prop :=
  ∀ (i : Instr) (l : Link) (bytes : List Byte), i.wf = true → encodeFrame i = some (l, bytes) →
    decodeFrame l bytes = some i

/-- Table 11-3: the command codes and the argument lengths they allow. -/
def argumentLengths : List (Byte × List Nat) :=
  [(0x01, [3]), (0x02, [0]), (0x10, [15]), (0x11, [12]), (0x12, [1]), (0x13, [1]), (0x14, [1]),
   (0x20, (List.range 257).map (fun k => 6 + k)), (0x21, [3]), (0x22, [4]), (0x23, [4]), (0x24, [1])] ++
  [(0x25, [0]), (0x30, [5]), (0x31, [2, 4, 6, 8, 10]), (0x40, [6]), (0x41, [1]), (0x42, [1]), (0x43, [1]), (0x44, [2]),
   (0x45, [2]), (0x50, [1]), (0x51, [1]), (0x52, [1]), (0x53, [1])]

/-- The frame checks in the order of Table 11-2 (R193) with the codes and lengths of Table 11-3, and the FRAME_ERROR that
the first failed one makes: it replaces the response record, with the seq and code bytes received or 0 (R187), and nothing
else; the bytes are echoed behind byte 0 (R195). -/
def Obligations.FailedFrameChecksOnlyAnswer : Prop :=
  (∀ (code : Byte) (n : Nat), lengthAllowed code n =
    (argumentLengths.find? (fun e => e.1 == code)).map (fun e => e.2.contains n)) ∧
  (∀ bytes : List Byte, bytes ≠ [] → bytes.length < 4 → frameCheck bytes = some .frameAborted) ∧
  (∀ (code seq a b : Byte) (rest : List Byte),
    let n := a.toNat * 256 + b.toNat
    let all := code :: seq :: a :: b :: rest
    frameCheck all =
      if all.length < n + 6 then some .frameAborted
      else if n + 6 < all.length then some .frameLength
      else if all.drop (n + 4) ≠ Word.bytes (crc16 (all.take (n + 4))) then some .crcError
      else if lengthAllowed code n = none then some .unknownCommand
      else if lengthAllowed code n = some false then some .badLength
      else none) ∧
  (∀ (l : Link) (bytes : List Byte) (x : Result) (s : State),
    bytes ≠ [] → (Instr.frameError l bytes).wf = true → frameCheck bytes = some x → s.takes l = true →
    ∃ t, exec (.frameError l bytes) s = .next t ∧
      s.onlyAnswers t l.port ⟨bytes.getD 1 0, bytes.getD 0 0, x, [], true⟩ ∧
      (t.port l.port).sdo = s.firstByte l :: bytes.dropLast)

/-- Frames and the receiver (R192). An event of a frame at which no frame is taken (a frame that the receiver ignores, the
beginning of one, the end of one that was ignored or discarded) and a frame of zero bytes reach no outcome. A frame that
begins in time is heard, one that begins too early while the receiver ignores its bits is not; a receiver ignores from the
beginning of a frame it does not hear, and no longer from the next it hears. The assertion of CSn puts a frame that is
heard in flight with the status byte of that moment (R198), and its end takes it out. (What SDO carries during an ignored
frame, the events of one frame, and FRAME_ERROR for zero bytes are the model's: logs 9, 6, 17.) -/
def Obligations.IgnoredFramesReachNoOutcome : Prop :=
  (∀ (i : Instr) (l : Link) (s : State), linkOf i = some l → s.takes l = false →
    ∃ t, exec i s = .next t ∧ s.storesSame t ∧ s.othersSame l.port t ∧
      t.port l.port = { s.port l.port with deaf := (t.port l.port).deaf, flight := (t.port l.port).flight }) ∧
  (∀ (l : Link) (s : State),
    ∃ t, exec (.frameError l []) s = .next t ∧ s.storesSame t ∧ s.othersSame l.port t ∧
      t.port l.port = { s.port l.port with deaf := (t.port l.port).deaf, flight := (t.port l.port).flight }) ∧
  (∀ (i : Instr) (l : Link) (s : State), linkOf i = some l → i.wf = true →
    ∃ t, exec i s = .next t ∧
      (t.port l.port).deaf = (if l.part = .ends then (s.port l.port).deaf else !s.hears l) ∧
      (t.port l.port).flight = (if l.part = .begins ∧ s.hears l = true then some (s.statusByte l.port) else none)) ∧
  (∀ (s : State) (l : Link), (l.early = false → s.hears l = true) ∧
    (l.early = true → (s.port l.port).deaf = true → s.hears l = false) ∧
    (l.part = .whole → s.takes l = s.hears l) ∧ (l.part = .begins → s.takes l = false) ∧
    (l.part = .ends → s.takes l = (s.port l.port).flight.isSome))

/-- Every command frame that is taken is echoed one byte late behind byte 0 (R195) and fills the response record with its
seq and code bytes and the new flag (R187). Byte 0 is the status byte sampled at the assertion of CSn (R198): that of the
state before a frame with nothing between its beginning and its end, and the byte held since the beginning for a frame in
flight (a frame is one event or two: the model's choice, log 6). -/
def Obligations.CommandFramesEchoAndAnswer : Prop :=
  (∀ (i : Instr) (f : CommandFrame) (s : State), i.frame = some f → s.takes f.link = true →
    ∃ t, exec i s = .next t ∧
      (t.port f.link.port).sdo = s.firstByte f.link :: (buildFrame f.code f.seq f.args).dropLast ∧
      (t.port f.link.port).response.seq = f.seq ∧ (t.port f.link.port).response.code = f.code ∧
      (t.port f.link.port).response.isNew = true) ∧
  (∀ (s : State) (l : Link), l.part = .whole → s.firstByte l = s.statusByte l.port) ∧
  (∀ (s : State) (l : Link) (b : Byte), l.part = .ends → (s.port l.port).flight = some b → s.firstByte l = b)

/-- A refused command changes its port's response record and nothing else, but for the results that leave a mark (R186);
every command but HELLO on an UNSYNCED port is so refused, with NOT_SYNCED (R185). -/
def Obligations.RefusedCommandsOnlyAnswer : Prop :=
  (∀ (i : Instr) (f : CommandFrame) (s : State), i.frame = some f → i.wf = true → s.takes f.link = true →
    (s.port f.link.port).session = .unsynced → f.code ≠ 0x01 →
    ∃ t, exec i s = .next t ∧ s.onlyAnswers t f.link.port ⟨f.seq, f.code, .notSynced, [], true⟩) ∧
  (∀ (i : Instr) (f : CommandFrame) (s : State), i.frame = some f → s.takes f.link = true →
    ∃ t x, exec i s = .next t ∧ (t.port f.link.port).response.result = x ∧
      (succeeds x = false → leavesMark x = false →
        s.onlyAnswers t f.link.port ⟨f.seq, f.code, x, [], true⟩))

/-- Whatever a frame, a timer or the reclaim engine does, the session, options, epoch, response record, serial, bad-code
count, frame receiver, frame in flight and SDO of every port whose frame it is not stay as they are (R183, R196). -/
def Obligations.OtherPortsKeepTheirSessions : Prop :=
  ∀ (i : Instr) (s : State) (p : Port), (∀ cause, i ≠ .deviceReset cause) → senderOf i ≠ some p →
    ∃ t, exec i s = .next t ∧
      (t.port p).session = (s.port p).session ∧ (t.port p).epoch = (s.port p).epoch ∧
      (t.port p).lease = (s.port p).lease ∧ (t.port p).receiptAttention = (s.port p).receiptAttention ∧
      (t.port p).response = (s.port p).response ∧ (t.port p).serial = (s.port p).serial ∧
      (t.port p).badCodes = (s.port p).badCodes ∧ (t.port p).deaf = (s.port p).deaf ∧
      (t.port p).flight = (s.port p).flight ∧ (t.port p).sdo = (s.port p).sdo

/-! ## Sessions -/

/-- An accepted HELLO (R179 to R181, R184, R190): the new session, what it finds empty, what survives, and the 22 bytes of
its result. On an ACTIVE port the teardown lets go of everything the old session had: its hand slots are handed back, all
its attachments leave their channels, the channels it leaves empty close or become FREE, and its records lose their
receipt flags (R160, R181); other ports keep their sessions, and gain what the hand-backs bring them: WAIT_DONE of a bind
(R99, R101), ARRIVAL of a requeue (R61), ROOM (R64), the receipts and STATS_NEAR_WRAP. An option bit that is not defined is
refused with BAD_ARGUMENT. (A doomed, bound or requeued record has no expiry due: the model's own field, log 5; the engine's
gap: log 26; where the rules leave it open, the order of the events of one queue: logs 12, 13, 14.) -/
def Obligations.HelloOpensASession : Prop :=
  (∀ (l : Link) (seq : Byte) (lease : Word) (options : Byte) (s : State),
    s.takes l = true → options = 0 ∨ options = 1 → s.lawful → s.unsyncedEmpty →
    ∃ (t : State) (epoch : Nat), exec (.hello l seq lease options) s = .next t ∧
      epoch = (if (s.port l.port).epoch = 255 then 1 else (s.port l.port).epoch + 1) ∧
      (t.port l.port).session = .active ∧ (t.port l.port).epoch = epoch ∧ (t.port l.port).lease = lease ∧
      (t.port l.port).receiptAttention = (options == 1) ∧
      (∀ i, t.slot l.port i = .empty) ∧ (t.port l.port).parked = none ∧ (∀ h, t.att ⟨l.port, h⟩ = none) ∧
      (t.port l.port).events = [] ∧ (t.port l.port).receipts = [] ∧ (t.port l.port).reservations = 0 ∧
      t.attnAsserted l.port = false ∧
      (t.port l.port).serial = (s.port l.port).serial ∧ (t.port l.port).badCodes = (s.port l.port).badCodes ∧
      (t.port l.port).penalty = (s.port l.port).penalty ∧
      (t.port l.port).response = ⟨seq, 0x01, .ok,
        [BitVec.ofNat 8 l.port.val, BitVec.ofNat 8 epoch, 0x4B, 0x32, 1, lease.extractLsb' 8 8, lease.extractLsb' 0 8,
         options, 32, 8, 1, 0, 4, 0, 32, 64, 4, 16, 32, 0x03, 0xE8, 100], true⟩ ∧ s.clockLeft t ∧
      (if (s.port l.port).session = .unsynced then s.storesSame t ∧ s.othersSame l.port t
      else
        s.gone t l.port (fun _ => true) ∧
        (∀ q : Port, q ≠ l.port → s.portGone t l.port (fun _ => true) q ∧ s.sessionSame t q) ∧
        ∀ r : RecId, t.msg r =
          let m := s.recordLeft l.port (fun _ => true) r
          if m.state ≠ .free ∧ m.ticket.source = l.port then { m with wantsReceipt := false } else m)) ∧
  (∀ (l : Link) (seq : Byte) (lease : Word) (options : Byte) (s : State),
    s.takes l = true → options ≠ 0 → options ≠ 1 →
    ∃ t, exec (.hello l seq lease options) s = .next t ∧
      s.onlyAnswers t l.port ⟨seq, 0x01, .badArgument, [], true⟩)

/-- The fixed fields of a message record stay until it is freed (R27), and so does its payload (R34), whatever command
other than a POST or a reset is taken. -/
def Obligations.MessagesKeepTheirIdentity : Prop :=
  ∀ (i : Instr) (s : State), (∀ cause, i ≠ .deviceReset cause) →
    (∀ l seq h tag flags life payload, i ≠ .post l seq h tag flags life payload) → s.cellsAgree →
    ∃ t, exec i s = .next t ∧ ∀ r : RecId,
      ((t.msg r).identity = (s.msg r).identity ∧ t.payload r = s.payload r) ∨
        (t.msg r).identity = MsgRecord.free.identity

/-- STATUS reads the figures of the moment (R189, R31, R37) into the places of Table 11-10, and changes nothing; the shared
cells in use are what the charges exceed the reserves of 64 by, over the ports (R35, R37). A penalty
expiry that is due and not yet taken still counts as one boundary (the model's inference, log 5). And when a port's ATTNn
line is asserted (R169). -/
def Obligations.StatusReportsTheMoment : Prop :=
  (∀ s : State, (s.sharedInUse : Int) =
    ((List.finRange 4).map (fun p => max 0 (((s.port p).charge : Int) - 64))).sum) ∧
  (∀ (l : Link) (seq : Byte) (s : State), s.ready l →
    ∃ (t : State) (d : List Byte), exec (.status l seq) s = .next t ∧
      s.onlyAnswers t l.port ⟨seq, 0x02, .ok, d, true⟩ ∧ d.length = 16 ∧
      d.take 2 = [1, BitVec.ofNat 8 (s.port l.port).epoch] ∧
      (d.drop 2).take 2 = Word.bytes (BitVec.ofNat 16 (1024 - s.cells.length)) ∧
      (d.drop 4).take 2 = Word.bytes (BitVec.ofNat 16 (s.port l.port).charge) ∧
      (d.drop 6).take 2 = Word.bytes (BitVec.ofNat 16 s.sharedInUse) ∧
      (d.drop 8).take 2 = Word.bytes (BitVec.ofNat 16
        ((List.finRange 256).countP (fun r => (s.msg r).state == .free))) ∧
      d.drop 10 = [BitVec.ofNat 8 (s.port l.port).events.length, BitVec.ofNat 8 (s.port l.port).receipts.length,
        BitVec.ofNat 8 (s.port l.port).reservations,
        BitVec.ofNat 8 ((List.finRange 4).countP (fun i => match s.slot l.port i with
          | .holding _ _ _ _ => true
          | _ => false)),
        if (s.port l.port).parked.isSome then 1 else 0,
        match (s.port l.port).penalty with
        | none => 0
        | some n => BitVec.ofNat 8 (max n 1)]) ∧
  (∀ (s : State) (p : Port), s.attnAsserted p = true ↔
    (s.port p).session = .active ∧
      ((s.port p).events ≠ [] ∨ (s.port p).receiptAttention = true ∧ (s.port p).receipts ≠ []))

/-- COLLECT shifts out the status byte, its echo, the envelope of the response record and 0xFF, one byte for each byte of
the frame; it clears the new flag if the frame held the whole response, and changes nothing else (R197). The bits of the
status byte (Table 11-5, R198) and the result codes (Table 11-4). -/
def Obligations.CollectShiftsOutTheResponse : Prop :=
  (∀ (l : Link) (after : List Byte) (s : State), s.takes l = true →
    ∃ t, exec (.collect l after) s = .next t ∧
      let x := (s.port l.port).response
      let covered := [x.seq, x.code, resultCode x.result] ++ Word.bytes (BitVec.ofNat 16 x.data.length) ++ x.data
      s.storesSame t ∧ s.othersSame l.port t ∧
      t.portIs l.port (s.port l.port)
        { x with isNew := if x.data.length + 9 ≤ after.length + 1 then false else x.isNew } ∧
      (t.port l.port).sdo =
        ([s.firstByte l, 0xC0] ++ covered ++ Word.bytes (crc16 covered) ++
          List.replicate (after.length + 1) 0xFF).take (after.length + 1)) ∧
  (∀ (s : State) (p : Port),
    ((s.statusByte p).getLsbD 7 = true ↔ (s.port p).session = .active) ∧
    ((s.statusByte p).getLsbD 6 = true ↔ (s.port p).events ≠ []) ∧
    ((s.statusByte p).getLsbD 5 = true ↔ (s.port p).receipts ≠ []) ∧
    ((s.statusByte p).getLsbD 4 = true ↔ (s.port p).response.isNew = true) ∧
    ((s.statusByte p).getLsbD 3 = true ↔ (s.port p).penalty ≠ none) ∧
    ((s.statusByte p).getLsbD 2 = true ↔ ∃ i r h tk lease, s.slot p i = .holding r h tk lease) ∧
    (s.statusByte p).extractLsb' 0 2 = BitVec.ofNat 2 p.val) ∧
  [Result.none, .ok, .parked, .empty, .held, .purgeStarted, .crcError, .frameAborted, .frameLength, .badLength,
    .unknownCommand, .notSynced, .badArgument, .badHandle, .badSlot, .ticketMismatch, .wrongRole, .wrongKind, .nameInUse,
    .noSuchName, .noChannelSlot, .noAttachSlot, .alreadyAttached, .badCode, .penalty, .channelBusy, .channelFull,
    .poolExhausted, .noMessageSlot, .noReceiptRoom, .handFull, .waitActive, .noWait, .watchBusy, .notWatcher, .notHeld,
    .queueShort].map resultCode =
    [0x00, 0x01, 0x02, 0x03, 0x04, 0x05, 0x10, 0x11, 0x12, 0x13, 0x14, 0x18, 0x20, 0x21, 0x22, 0x23, 0x28, 0x29, 0x30,
     0x31, 0x32, 0x33, 0x34, 0x38, 0x39, 0x40, 0x41, 0x48, 0x49, 0x4A, 0x50, 0x51, 0x52, 0x58, 0x59, 0x5A, 0x60]

/-! ## Channels -/

/-- The attachment record of Table 1-5's last column (R10). -/
def freshAttachment (c : ChanId) (x : Role) : Attachment :=
  ⟨c, x, if x = .producer then 0 else 1, 0, false, 0, none, false, .all, 0, false⟩

/-- An accepted CREATE (R14, R15): the lowest FREE channel record, the lowest free handle, and nothing else. And the
checks of CREATE in their order (R14): the first that fails gives the result, and a refused CREATE changes nothing. -/
def Obligations.CreateMakesAChannel : Prop :=
  (∀ (l : Link) (seq : Byte) (name : Word) (kind depth mark policy : Byte) (code : AccessCode) (role : Byte) (s : State)
    (k : Kind) (v : Policy) (x : Role) (h : Handle) (c : ChanId),
    s.ready l → (s.port l.port).penalty = none →
    name ≠ 0 → kindOf kind = some k → 1 ≤ depth.toNat → depth.toNat ≤ 64 → mark.toNat < depth.toNat →
    policyOf policy = some v → roleOf role = some x → roleSuits x k = true →
    (∀ d : ChanId, (s.chan d).state ≠ .free → (s.chan d).name ≠ name) →
    s.att ⟨l.port, h⟩ = none → (∀ j : Handle, j < h → s.att ⟨l.port, j⟩ ≠ none) →
    (s.chan c).state = .free → (∀ d : ChanId, d < c → (s.chan d).state ≠ .free) →
    ∃ t, exec (.create l seq name kind depth mark policy code role) s = .next t ∧
      t.chan c = ⟨.opened, name, k, depth.toNat, mark.toNat, v, code, [], [], false, none, Vector.replicate 8 0, none⟩ ∧
      s.restOfChannels c t ∧ t.records = s.records ∧ t.cells = s.cells ∧ t.reclaim = s.reclaim ∧ s.clockSame t ∧
      s.othersSame l.port t ∧
      t.portIs l.port
        { s.port l.port with attachments := (s.port l.port).attachments.set h (some (freshAttachment c x)) }
        ⟨seq, 0x10, .ok, [BitVec.ofNat 8 h.val], true⟩) ∧
  (∀ (l : Link) (seq : Byte) (name : Word) (kind depth mark policy : Byte) (code : AccessCode) (role : Byte) (s : State),
    let x : Result :=
      if (s.port l.port).penalty ≠ none then .penalty
      else if name = 0 ∨ 1 < kind.toNat ∨ depth.toNat < 1 ∨ 64 < depth.toNat ∨ depth.toNat ≤ mark.toNat ∨
        1 < policy.toNat ∨ 2 < role.toNat ∨ role = 1 ∧ kind = 1 ∨ role = 2 ∧ kind = 0 then .badArgument
      else if ∃ d : ChanId, (s.chan d).state = .closing ∧ (s.chan d).name = name then .channelBusy
      else if ∃ d : ChanId, (s.chan d).state ≠ .free ∧ (s.chan d).name = name then .nameInUse
      else if ∀ h : Handle, s.att ⟨l.port, h⟩ ≠ none then .noAttachSlot
      else if ∀ d : ChanId, (s.chan d).state ≠ .free then .noChannelSlot
      else .ok
    s.ready l → s.namesDiffer →
    ∃ t, exec (.create l seq name kind depth mark policy code role) s = .next t ∧ (t.port l.port).response.result = x ∧
      (x ≠ .ok → s.onlyAnswers t l.port ⟨seq, 0x10, x, [], true⟩))

/-- An accepted ATTACH (R16, R17): the lowest free handle, the bad-code count back to 0, and with REPLAY a place in the
pending set of every LISTED record of the list. And the checks of ATTACH in their order (R16): the first that fails gives
the result, and a refused ATTACH changes nothing but, with BAD_CODE, the penalty state. -/
def Obligations.AttachJoinsAChannel : Prop :=
  (∀ (l : Link) (seq : Byte) (name : Word) (role : Byte) (code : AccessCode) (options : Byte) (s : State)
    (x : Role) (h : Handle) (c : ChanId),
    s.ready l → s.namesDiffer → (s.port l.port).penalty = none →
    name ≠ 0 → roleOf role = some x → (options = 0 ∨ options = 1 ∧ x = .subscriber) →
    (s.chan c).name = name → ((s.chan c).state = .opened ∨ (s.chan c).state = .purging) →
    roleSuits x (s.chan c).kind = true →
    (∀ j : Handle, ∀ u ∈ s.att ⟨l.port, j⟩, u.channel = c → u.role ≠ x) →
    ((s.chan c).code = 0 ∨ (s.chan c).code = code) →
    s.att ⟨l.port, h⟩ = none → (∀ j : Handle, j < h → s.att ⟨l.port, j⟩ ≠ none) →
    ∃ t, exec (.attach l seq name role code options) s = .next t ∧
      t.channels = s.channels ∧ t.cells = s.cells ∧ t.reclaim = s.reclaim ∧ s.clockSame t ∧ s.othersSame l.port t ∧
      t.portIs l.port
        { s.port l.port with
          badCodes := 0
          attachments := (s.port l.port).attachments.set h (some (freshAttachment c x)) }
        ⟨seq, 0x11, .ok, [BitVec.ofNat 8 h.val, if (s.chan c).kind = .point then 0 else 1], true⟩ ∧
      ∀ r : RecId,
        if options = 1 ∧ r ∈ (s.chan c).list ∧ (s.msg r).state = .listed then
          t.msg r = { s.msg r with pending := (t.msg r).pending } ∧
            ∀ a, a ∈ (t.msg r).pending ↔ a = ⟨l.port, h⟩ ∨ a ∈ (s.msg r).pending
        else t.msg r = s.msg r) ∧
  (∀ (l : Link) (seq : Byte) (name : Word) (role : Byte) (code : AccessCode) (options : Byte) (s : State),
    let named : ChanId → Prop := fun d => (s.chan d).state ≠ .free ∧ (s.chan d).name = name
    let x : Result :=
      if (s.port l.port).penalty ≠ none then .penalty
      else if name = 0 ∨ 2 < role.toNat ∨ 1 < options.toNat ∨ options = 1 ∧ role ≠ 2 then .badArgument
      else if ∀ d : ChanId, ¬ named d then .noSuchName
      else if ∃ d : ChanId, named d ∧ (s.chan d).state = .closing then .channelBusy
      else if ∃ d : ChanId, named d ∧ (role = 1 ∧ (s.chan d).kind = .fanout ∨ role = 2 ∧ (s.chan d).kind = .point) then
        .wrongKind
      else if ∃ d : ChanId, named d ∧ ∃ h : Handle, ∃ y ∈ roleOf role, s.isIn d y ⟨l.port, h⟩ = true then .alreadyAttached
      else if ∃ d : ChanId, named d ∧ (s.chan d).code ≠ 0 ∧ (s.chan d).code ≠ code then .badCode
      else if ∀ h : Handle, s.att ⟨l.port, h⟩ ≠ none then .noAttachSlot
      else .ok
    s.ready l → s.namesDiffer →
    ∃ t, exec (.attach l seq name role code options) s = .next t ∧ (t.port l.port).response.result = x ∧
      (x ≠ .ok → x ≠ .badCode → s.onlyAnswers t l.port ⟨seq, 0x11, x, [], true⟩))

/-- Wrong codes and the penalty (R9): each BAD_CODE counts, with REPLAY or without, and the third in a row sets the timer
to 100 long ticks; while it runs, every CREATE and ATTACH is refused with PENALTY; its expiry stops it. -/
def Obligations.ThirdBadCodeStartsThePenalty : Prop :=
  (∀ (l : Link) (seq : Byte) (name : Word) (role : Byte) (code : AccessCode) (options : Byte) (s : State) (x : Role)
    (c : ChanId),
    s.ready l → s.namesDiffer → (s.port l.port).penalty = none → name ≠ 0 → roleOf role = some x →
    (options = 0 ∨ options = 1 ∧ x = .subscriber) → (s.chan c).name = name →
    ((s.chan c).state = .opened ∨ (s.chan c).state = .purging) →
    roleSuits x (s.chan c).kind = true →
    (∀ j : Handle, ∀ u ∈ s.att ⟨l.port, j⟩, u.channel = c → u.role ≠ x) →
    (s.chan c).code ≠ 0 → (s.chan c).code ≠ code →
    ∃ t, exec (.attach l seq name role code options) s = .next t ∧ s.storesSame t ∧ s.othersSame l.port t ∧
      t.portIs l.port
        { s.port l.port with
          badCodes := if (s.port l.port).badCodes = 2 then 0 else (s.port l.port).badCodes + 1
          penalty := if (s.port l.port).badCodes = 2 then some 100 else none }
        ⟨seq, 0x11, .badCode, [], true⟩) ∧
  (∀ (i : Instr) (f : CommandFrame) (s : State),
    i.frame = some f → f.code = 0x10 ∨ f.code = 0x11 → s.ready f.link → (s.port f.link.port).penalty ≠ none →
    ∃ t, exec i s = .next t ∧ s.onlyAnswers t f.link.port ⟨f.seq, f.code, .penalty, [], true⟩) ∧
  (∀ (p : Port) (s : State), (s.port p).penalty = some 0 →
    ∃ t, exec (.penaltyExpiry p) s = .next t ∧ s.storesSame t ∧ s.othersSame p t ∧
      t.port p = { s.port p with penalty := none })

/-- DETACH (R18 to R23): the handle is freed; the port's parked take through it ends; its hand slots are handed back in
ascending order, POINT records requeued (and bound, in order, to the waiters of an unheld channel), poisoned or discarded,
FANOUT records released; a subscriber leaves every pending set, which frees or unlists the records it empties; the channel
forgets its watch and purge; and a channel whose last attachment goes becomes FREE with an empty list, else CLOSING with
its list DOOMED, from OPEN at the tail of the work queue, from PURGING in its place without its count. Every port gains
what this brings it: WAIT_DONE of a bind (R99, R101), ARRIVAL of a requeue (R61), ROOM (R64), the receipts and
STATS_NEAR_WRAP. A handle that names no attachment is refused (R12). (A doomed, bound, requeued or unlisted record has no
expiry due: the model's own field, log 5; the engine's gap: log 26; where the rules leave it open, the order of the
events of one queue: logs 13, 14.) -/
def Obligations.DetachFreesOrClosesTheChannel : Prop :=
  (∀ (l : Link) (seq b : Byte) (s : State), s.ready l → s.namesNone l.port b →
    ∃ t, exec (.detach l seq b) s = .next t ∧ s.onlyAnswers t l.port ⟨seq, 0x12, .badHandle, [], true⟩) ∧
  (∀ (l : Link) (seq b : Byte) (s : State) (h : Handle) (u : Attachment), s.ready l → s.names l.port b h u → s.lawful →
    let hs : Handle → Bool := fun k => k == h
    ∃ t, exec (.detach l seq b) s = .next t ∧
      (t.port l.port).response = ⟨seq, 0x12, .ok, [], true⟩ ∧ t.att ⟨l.port, h⟩ = none ∧
      s.gone t l.port hs ∧ (∀ r : RecId, t.msg r = s.recordLeft l.port hs r) ∧
      (∀ q : Port, s.portGone t l.port hs q) ∧ s.clockLeft t ∧ s.sessionsSame t)

/-- An accepted PURGE on an OPEN channel (R45, R41): an empty list answers OK with 0 and changes nothing; else every
record of the list is DOOMED in its place and the channel joins the tail of the work queue with their count. A channel
that is not OPEN refuses it, and so does a handle that names no attachment (R12). (A DOOMED record has no expiry due: the
model's own field, log 5; the engine's gap: log 26.) -/
def Obligations.PurgeDoomsTheList : Prop :=
  (∀ (l : Link) (seq b : Byte) (s : State), s.ready l → s.namesNone l.port b →
    ∃ t, exec (.purge l seq b) s = .next t ∧ s.onlyAnswers t l.port ⟨seq, 0x13, .badHandle, [], true⟩) ∧
  (∀ (l : Link) (seq b : Byte) (s : State) (h : Handle) (u : Attachment),
    s.ready l → s.names l.port b h u → s.lawful →
    ∃ t, exec (.purge l seq b) s = .next t ∧
      if (s.chan u.channel).state ≠ .opened then s.onlyAnswers t l.port ⟨seq, 0x13, .channelBusy, [], true⟩
      else if (s.chan u.channel).list = [] then s.onlyAnswers t l.port ⟨seq, 0x13, .ok, [0], true⟩
      else
        t.chan u.channel = { s.chan u.channel with state := .purging, purger := some ⟨l.port, h⟩ } ∧
        s.restOfChannels u.channel t ∧
        t.reclaim = s.reclaim ++ [⟨u.channel, some (s.chan u.channel).list.length⟩] ∧
        (∀ r : RecId, t.msg r = if r ∈ (s.chan u.channel).list then
          { s.msg r with state := .doomed, pending := [], expiring := false } else s.msg r) ∧
        t.cells = s.cells ∧ s.clockLeft t ∧ s.othersSame l.port t ∧
        t.portIs l.port (s.port l.port)
          ⟨seq, 0x13, .purgeStarted, [BitVec.ofNat 8 (s.chan u.channel).list.length], true⟩)

/-! ## Posting -/

/-- What the header of a POST that is accepted leaves in the new record (R57). -/
def postedRecord (st : RecState) (p : Port) (serial : Word) (c : ChanId) (tag : Word) (flags : Byte) (life : Word)
    (payload : List Byte) (chain : List CellId) (pending : List AttRef) : MsgRecord :=
  ⟨st, ⟨p, serial⟩, some c, tag, payload.length, chain, flags.getLsbD 0, flags.getLsbD 1,
   if life = 0 then none else some life.toNat, false, 0, pending, [], 0, false⟩

/-- A POST to an OPEN POINT channel below its depth limit that nothing binds (the channel is held, or the tag hits its
watch, or no take waits): the record is QUEUED at the tail with its payload in cells of its own, ceil(n/32) of them for n
bytes (R34), the port pays for them, POSTED counts it, the watch compare runs (R59 step 2, R135), and every other message
keeps its payload (R52 to R61). (A hit that holds the channel ends expiries that were due: the model's inference, log 5.) -/
def Obligations.PostQueuesAPointMessage : Prop :=
  (∀ n k : Nat, cellsFor n ≤ k ↔ n ≤ 32 * k) ∧
  (∀ (l : Link) (seq b : Byte) (tag : Word) (flags : Byte) (life : Word) (payload : List Byte) (s : State) (h : Handle)
    (u : Attachment),
    let c := u.channel
    let tk : Ticket := ⟨l.port, (s.port l.port).serial⟩
    s.ready l → s.names l.port b h u → s.lawful → s.cellsAgree →
    payload.length ≤ 256 → flags &&& 0xFC = 0 → u.role = .producer →
    (s.chan c).state = .opened → (s.chan c).kind = .point →
    ((s.chan c).held = true ∨ (s.chan c).waiters = [] ∨ (s.chan c).hit tag = true) →
    s.resources l.port flags payload → s.occupancy c < (s.chan c).depthLimit →
    ∃ (t : State) (r : RecId), exec (.post l seq b tag flags life payload) s = .next t ∧
      (s.msg r).state = .free ∧
      t.msg r = postedRecord .queued l.port (s.port l.port).serial c tag flags life payload (t.msg r).chain [] ∧
      t.payload r = payload ∧
      (∀ q : RecId, q ≠ r → t.msg q = s.pausedAt c tag q ∧ t.payload q = s.payload q) ∧
      t.chan c = { (s.chan c).watched tag with list := (s.chan c).list ++ [r], stats := (t.chan c).stats } ∧
      t.counter c .posted = s.counter c .posted + 1 ∧ s.otherCounters c [.posted] t ∧
      s.restOfChannels c t ∧ t.occupancy c = s.occupancy c + 1 ∧
      (t.port l.port).serial = (s.port l.port).serial + 1 ∧
      (t.port l.port).charge = (s.port l.port).charge + cellsFor payload.length ∧
      (t.port l.port).reservations = (s.port l.port).reservations + (if flags.getLsbD 1 then 1 else 0) ∧
      (t.port l.port).response = ⟨seq, 0x20, .ok,
        BitVec.ofNat 8 l.port.val :: Word.bytes (s.port l.port).serial, true⟩ ∧
      s.handsSame t ∧ s.sessionsSame t ∧
      (∀ q, (t.port q).receipts = (s.port q).receipts) ∧ t.reclaim = s.reclaim ∧ s.clockSame t ∧
      (∀ q, q ≠ l.port → (t.port q).charge = (s.port q).charge ∧ (t.port q).reservations = (s.port q).reservations) ∧
      (∀ a : AttRef, t.att a =
        (s.att a).map (fun v => if v.isIn c .consumer then v.afterArrival (flags.getLsbD 0) else v)) ∧
      (∀ q : Port, (t.port q).events = queued (s.port q).events
        (s.wrapEvents c .posted 1 q ++ s.watchEvents c tag tk q ++
          s.arrivalEvents (s.isIn c .consumer) (flags.getLsbD 0) q)))

/-- A POST to an OPEN, unheld POINT channel with a waiter, whose tag hits no watch, binds to the first waiter (R100, R99):
the record goes IN_HAND into the reserved slot with a fresh lease, the wait ends, WAIT_DONE is queued and no attachment
counts an arrival. -/
def Obligations.PostBindsToTheFirstWaiter : Prop :=
  ∀ (l : Link) (seq b : Byte) (tag : Word) (flags : Byte) (life : Word) (payload : List Byte) (s : State) (h : Handle)
    (u : Attachment) (q : Port) (rest : List Port),
    let c := u.channel
    let tk : Ticket := ⟨l.port, (s.port l.port).serial⟩
    s.ready l → s.names l.port b h u → s.lawful → s.cellsAgree →
    payload.length ≤ 256 → flags &&& 0xFC = 0 → u.role = .producer →
    (s.chan c).state = .opened → (s.chan c).kind = .point → (s.chan c).hit tag = false →
    (s.chan c).held = false → (s.chan c).waiters = q :: rest →
    s.resources l.port flags payload → s.occupancy c < (s.chan c).depthLimit →
    ∃ (t : State) (r : RecId), exec (.post l seq b tag flags life payload) s = .next t ∧
      (s.msg r).state = .free ∧
      t.msg r = postedRecord .inHand l.port (s.port l.port).serial c tag flags life payload (t.msg r).chain [] ∧
      t.payload r = payload ∧ (∀ o : RecId, o ≠ r → t.msg o = s.msg o ∧ t.payload o = s.payload o) ∧
      t.chan c = { s.chan c with waiters := rest, stats := (t.chan c).stats } ∧
      t.counter c .posted = s.counter c .posted + 1 ∧ s.otherCounters c [.posted] t ∧
      (s.port q).parked ≠ none ∧ s.bound t q r tk ∧ (∀ o, o ≠ q → s.handSame t o) ∧
      (∀ o, (t.port o).events = queued (s.port o).events
        (s.wrapEvents c .posted 1 o ++ (if o = q then s.doneEvent c q tk else []))) ∧
      (∀ a, t.att a = s.att a) ∧
      t.occupancy c = s.occupancy c + 1 ∧ s.restOfChannels c t ∧
      (t.port l.port).serial = (s.port l.port).serial + 1 ∧
      (t.port l.port).charge = (s.port l.port).charge + cellsFor payload.length ∧
      (t.port l.port).reservations = (s.port l.port).reservations + (if flags.getLsbD 1 then 1 else 0) ∧
      s.sessionsSame t ∧ (∀ o, (t.port o).receipts = (s.port o).receipts) ∧ t.reclaim = s.reclaim ∧ s.clockSame t ∧
      (t.port l.port).response = ⟨seq, 0x20, .ok,
        BitVec.ofNat 8 l.port.val :: Word.bytes (s.port l.port).serial, true⟩

/-- From `s` to `t` port `p` has posted record `r` to an OPEN FANOUT channel with room for it (R58, R59, R102, R113,
R122): unless the channel is held or the tag hits its watch, the parked subscribers whose filters pass hold it at once;
the others whose filters pass are pending; with none of either it is freed as DELIVERED with count 0, with none pending it
is UNLISTED. FILTERED counts the filters that reject. `tells`: the post's event ends with the channel's ROOM check. -/
abbrev FanoutPosted (s t : State) (p : Port) (c : ChanId) (tag : Word) (flags : Byte) (life : Word) (payload : List Byte)
    (r : RecId) (tells : Bool) : Prop :=
  let tk : Ticket := ⟨p, (s.port p).serial⟩
  let took : Port → Bool := fun q => (s.waiterOf q).any (fun a => (s.takers c tag).contains a)
  let nobody := (s.takers c tag).isEmpty && (s.awaiting c tag).isEmpty
  let rejects := allRefs.countP (s.passing c tag false)
  (if nobody then t.msg r = MsgRecord.free
  else
    t.msg r = { postedRecord (if s.awaiting c tag = [] then .unlisted else .listed) p (s.port p).serial c tag flags life
                  payload (t.msg r).chain (t.msg r).pending with
                holders := (t.msg r).holders, taken := (s.takers c tag).length } ∧
    (∀ a, a ∈ (t.msg r).pending ↔ a ∈ s.awaiting c tag) ∧ (∀ a, a ∈ (t.msg r).holders ↔ a ∈ s.takers c tag) ∧
    t.payload r = payload) ∧
  (∀ q : RecId, q ≠ r → t.msg q = s.pausedAt c tag q ∧ t.payload q = s.payload q) ∧
  t.chan c = { (s.chan c).watched tag with
               list := (s.chan c).list ++ (if s.awaiting c tag = [] then [] else [r])
               waiters := (s.chan c).waiters.filter (fun q => !took q)
               stats := (t.chan c).stats } ∧
  t.counter c .posted = s.counter c .posted + 1 ∧
  t.counter c .filtered = s.counter c .filtered + BitVec.ofNat 16 rejects ∧
  t.counter c .delivered = s.counter c .delivered + (if nobody then 1 else 0) ∧
  s.otherCounters c [.posted, .filtered, .delivered] t ∧ s.restOfChannels c t ∧
  (t.port p).serial = (s.port p).serial + 1 ∧
  (∀ q, (t.port q).charge =
    (s.port q).charge + (if q = p ∧ nobody = false then cellsFor payload.length else 0)) ∧
  (∀ q, (t.port q).reservations =
    (s.port q).reservations + (if q = p ∧ nobody = false ∧ flags.getLsbD 1 = true then 1 else 0)) ∧
  (∀ q, (t.port q).receipts = (s.port q).receipts ++
    (if q = p ∧ nobody = true ∧ flags.getLsbD 1 = true then [⟨tk, (s.chan c).name, tag, .delivered, 0⟩] else [])) ∧
  (∀ q, if took q then s.bound t q r tk else s.handSame t q) ∧
  (∀ a, t.att a = (s.att a).map (fun v =>
    (if a ∈ s.takers c tag then { v with lagReported := false }
    else if a ∈ s.awaiting c tag then v.afterArrival (flags.getLsbD 0) else v).afterRoom tells c)) ∧
  (∀ q, (t.port q).events = queued (s.port q).events
    (s.wrapEvents c .filtered rejects q ++ s.wrapEvents c .posted 1 q ++ s.watchEvents c tag tk q ++
      (if took q then s.doneEvent c q tk else []) ++
      s.arrivalEvents (fun a => (s.awaiting c tag).contains a) (flags.getLsbD 0) q ++
      s.wrapEvents c .delivered (if nobody then 1 else 0) q ++ s.roomEvents tells c q)) ∧
  s.sessionsSame t ∧ t.reclaim = s.reclaim ∧ s.clockSame t

/-- A POST to an OPEN FANOUT channel below its depth limit (R58, R59, R113, R122), with the parked subscribers it binds
(R102) and the watch compare (R59 step 2). (A hit that holds the channel ends expiries that were due: the model's
inference, log 5.) -/
def Obligations.FanoutPostFormsThePendingSet : Prop :=
  ∀ (l : Link) (seq b : Byte) (tag : Word) (flags : Byte) (life : Word) (payload : List Byte) (s : State) (h : Handle)
    (u : Attachment),
    let c := u.channel
    s.ready l → s.names l.port b h u → s.lawful → s.cellsAgree →
    payload.length ≤ 256 → flags &&& 0xFC = 0 → u.role = .producer →
    (s.chan c).state = .opened → (s.chan c).kind = .fanout →
    s.resources l.port flags payload → s.occupancy c < (s.chan c).depthLimit →
    ∃ (t : State) (r : RecId), exec (.post l seq b tag flags life payload) s = .next t ∧
      (s.msg r).state = .free ∧ FanoutPosted s t l.port c tag flags life payload r false ∧
      t.occupancy c = s.occupancy c + (if s.awaiting c tag = [] then 0 else 1) ∧
      (t.port l.port).response = ⟨seq, 0x20, .ok,
        BitVec.ofNat 8 l.port.val :: Word.bytes (s.port l.port).serial, true⟩

/-- A POST refused at steps 1 to 4 of R52 (BAD_HANDLE, BAD_ARGUMENT, WRONG_ROLE, CHANNEL_BUSY, in this order) changes
nothing. A POST refused at the resource checks, in their order, or at the depth check (R53, R54, R56): REFUSED counts it,
CHANNEL_FULL alone sets room-wanted, no message, cell, serial or charge is used. -/
def Obligations.RefusedPostsUseNothing : Prop :=
  (∀ (l : Link) (seq b : Byte) (tag : Word) (flags : Byte) (life : Word) (payload : List Byte) (s : State),
    s.ready l → s.namesNone l.port b → payload.length ≤ 256 →
    ∃ t, exec (.post l seq b tag flags life payload) s = .next t ∧
      s.onlyAnswers t l.port ⟨seq, 0x20, .badHandle, [], true⟩) ∧
  (∀ (l : Link) (seq b : Byte) (tag : Word) (flags : Byte) (life : Word) (payload : List Byte) (s : State) (h : Handle)
    (u : Attachment), s.ready l → s.names l.port b h u → payload.length ≤ 256 →
    (flags &&& 0xFC ≠ 0 ∨ u.role ≠ .producer ∨ (s.chan u.channel).state ≠ .opened) →
    ∃ t, exec (.post l seq b tag flags life payload) s = .next t ∧
      s.onlyAnswers t l.port ⟨seq, 0x20, if flags &&& 0xFC ≠ 0 then .badArgument else if u.role ≠ .producer then .wrongRole
        else .channelBusy, [], true⟩) ∧
  (∀ (l : Link) (seq b : Byte) (tag : Word) (flags : Byte) (life : Word) (payload : List Byte) (s : State) (h : Handle)
    (u : Attachment),
    let ch := s.chan u.channel
    s.ready l → s.names l.port b h u → payload.length ≤ 256 → flags &&& 0xFC = 0 → u.role = .producer →
    ch.state = .opened →
    (¬ s.resources l.port flags payload ∨
      ch.depthLimit ≤ s.occupancy u.channel ∧ (ch.policy = .refuse ∨ ch.held = true ∨ ch.list = [])) →
    ∃ (t : State) (x : Result), exec (.post l seq b tag flags life payload) s = .next t ∧
      x = (if ∀ r : RecId, (s.msg r).state ≠ .free then .noMessageSlot
        else if ¬ s.admitted l.port (cellsFor payload.length) then .poolExhausted
        else if flags.getLsbD 1 = true ∧ 16 ≤ (s.port l.port).receipts.length + (s.port l.port).reservations then
          .noReceiptRoom
        else .channelFull) ∧
      (t.port l.port).response = ⟨seq, 0x20, x, [], true⟩ ∧
      t.counter u.channel .refused = s.counter u.channel .refused + 1 ∧ s.otherCounters u.channel [.refused] t ∧
      t.chan u.channel = { ch with stats := (t.chan u.channel).stats } ∧ s.restOfChannels u.channel t ∧
      t.att ⟨l.port, h⟩ = some { u with roomWanted := u.roomWanted || x == .channelFull } ∧
      (∀ a, a ≠ ⟨l.port, h⟩ → t.att a = s.att a) ∧
      t.records = s.records ∧ t.cells = s.cells ∧ t.reclaim = s.reclaim ∧ s.clockSame t ∧
      (t.port l.port).serial = (s.port l.port).serial ∧ s.handsSame t ∧ s.sessionsSame t ∧
      ∀ q, (t.port q).charge = (s.port q).charge ∧ (t.port q).reservations = (s.port q).reservations ∧
        (t.port q).receipts = (s.port q).receipts ∧
        (t.port q).events = queued (s.port q).events (s.wrapEvents u.channel .refused 1 q))

/-- From `s` to `t` a FANOUT channel has shed the record at the head of its list (R124 to R126): every subscriber pending
in it is charged one lag, which stops at 65535, and gets LAGGED with the count unless its flag says so already; the record
leaves the list, is freed if nobody holds it and else UNLISTED, and its outcome is SHED, with a receipt in place of its
reservation where the poster wants one. (An unlisted record has no expiry
due: the model's own field, log 5.) -/
abbrev FanoutShed (s t : State) (c : ChanId) (old : RecId) (rest : List RecId) : Prop :=
  t.msg old = (if (s.msg old).holders = [] then MsgRecord.free
    else { s.msg old with state := .unlisted, pending := [], expiring := false, receipted := true, wantsReceipt := false }) ∧
  (∀ q : RecId, q ≠ old → t.msg q = s.msg q ∧ t.payload q = s.payload q) ∧
  t.chan c = { s.chan c with list := rest, stats := (t.chan c).stats } ∧ s.restOfChannels c t ∧
  t.counter c .shed = s.counter c .shed + 1 ∧ s.otherCounters c [.shed] t ∧ s.oneReceipt t c .shed 0 old ∧
  (∀ a, t.att a = (s.att a).map (fun v =>
    if a ∈ (s.msg old).pending then { v with lag := v.nextLag, lagReported := true } else v)) ∧
  (∀ q, (t.port q).events = queued (s.port q).events (s.lagEvents old q ++ s.wrapEvents c .shed 1 q)) ∧
  (∀ q, (t.port q).charge + (if q = (s.msg old).ticket.source ∧ (s.msg old).holders = [] then (s.msg old).chain.length
    else 0) = (s.port q).charge) ∧
  t.cells = s.cells.filter (fun e => !((s.msg old).holders.isEmpty && (s.msg old).chain.contains e.1)) ∧
  (∀ q, (t.port q).reservations + (if q = (s.msg old).ticket.source ∧ (s.msg old).wantsReceipt = true then 1 else 0) =
    (s.port q).reservations) ∧
  s.handsSame t ∧ s.sessionsSame t ∧ (∀ q, (t.port q).serial = (s.port q).serial) ∧ t.reclaim = s.reclaim ∧ s.clockSame t

/-- A POST to a full, unheld channel with policy SHED (R54). POINT (R55): the record at the head of the list is freed with
SHED and the new one joins the tail, with the watch compare. FANOUT (R124 to R126): the head is shed, with lag for those
it was pending for, and then the post goes on as any other; the ROOM check runs where it leaves the channel below its
limit. (A hit that holds the channel ends expiries that were due: the model's inference, log 5.) -/
def Obligations.FullShedChannelDropsItsHead : Prop :=
  (∀ (l : Link) (seq b : Byte) (tag : Word) (flags : Byte) (life : Word) (payload : List Byte) (s : State) (h : Handle)
    (u : Attachment) (old : RecId) (rest : List RecId),
    let c := u.channel
    let tk : Ticket := ⟨l.port, (s.port l.port).serial⟩
    s.ready l → s.names l.port b h u → s.lawful → s.cellsAgree → s.receiptsBounded →
    payload.length ≤ 256 → flags &&& 0xFC = 0 → u.role = .producer →
    (s.chan c).state = .opened → (s.chan c).kind = .point → (s.chan c).policy = .shed → (s.chan c).held = false →
    (s.chan c).list = old :: rest →
    s.resources l.port flags payload → (s.chan c).depthLimit ≤ s.occupancy c →
    ∃ (t : State) (r : RecId), exec (.post l seq b tag flags life payload) s = .next t ∧
      (t.port l.port).response = ⟨seq, 0x20, .ok,
        BitVec.ofNat 8 l.port.val :: Word.bytes (s.port l.port).serial, true⟩ ∧
      t.chan c = { (s.chan c).watched tag with list := rest ++ [r], stats := (t.chan c).stats } ∧
      r ∉ rest ∧ (r = old ∨ (s.msg r).state = .free ∧ t.msg old = MsgRecord.free) ∧
      t.msg r = postedRecord .queued l.port (s.port l.port).serial c tag flags life payload (t.msg r).chain [] ∧
      t.payload r = payload ∧
      (∀ q, q ≠ r → q ≠ old → t.msg q = s.pausedAt c tag q ∧ t.payload q = s.payload q) ∧
      t.counter c .shed = s.counter c .shed + 1 ∧ t.counter c .posted = s.counter c .posted + 1 ∧
      s.otherCounters c [.shed, .posted] t ∧ t.occupancy c = s.occupancy c ∧ s.restOfChannels c t ∧
      (t.port l.port).serial = (s.port l.port).serial + 1 ∧
      (∀ q, (t.port q).charge + (if q = (s.msg old).ticket.source then (s.msg old).chain.length else 0) =
        (s.port q).charge + (if q = l.port then cellsFor payload.length else 0)) ∧
      (∀ q, (t.port q).reservations + (if q = (s.msg old).ticket.source ∧ (s.msg old).wantsReceipt = true then 1 else 0) =
        (s.port q).reservations + (if q = l.port ∧ flags.getLsbD 1 = true then 1 else 0)) ∧
      s.handsSame t ∧ s.sessionsSame t ∧ t.reclaim = s.reclaim ∧ s.clockSame t ∧
      (∀ a : AttRef, t.att a =
        (s.att a).map (fun v => if v.isIn c .consumer then v.afterArrival (flags.getLsbD 0) else v)) ∧
      (∀ q : Port, (t.port q).events = queued (s.port q).events
        (s.wrapEvents c .shed 1 q ++ s.wrapEvents c .posted 1 q ++ s.watchEvents c tag tk q ++
          s.arrivalEvents (s.isIn c .consumer) (flags.getLsbD 0) q)) ∧
      s.oneReceipt t c .shed 0 old) ∧
  (∀ (l : Link) (seq b : Byte) (tag : Word) (flags : Byte) (life : Word) (payload : List Byte) (s : State) (h : Handle)
    (u : Attachment) (old : RecId) (rest : List RecId),
    let c := u.channel
    s.ready l → s.names l.port b h u → s.lawful → s.cellsAgree → s.receiptsBounded →
    payload.length ≤ 256 → flags &&& 0xFC = 0 → u.role = .producer →
    (s.chan c).state = .opened → (s.chan c).kind = .fanout → (s.chan c).policy = .shed → (s.chan c).held = false →
    (s.chan c).list = old :: rest →
    s.resources l.port flags payload → (s.chan c).depthLimit ≤ s.occupancy c →
    ∃ (t : State) (less : State) (r : RecId), exec (.post l seq b tag flags life payload) s = .next t ∧
      FanoutShed s less c old rest ∧ (less.msg r).state = .free ∧
      FanoutPosted less t l.port c tag flags life payload r (s.makesRoom t c) ∧
      t.occupancy c + 1 = s.occupancy c + (if s.awaiting c tag = [] then 0 else 1) ∧
      (t.port l.port).response = ⟨seq, 0x20, .ok,
        BitVec.ofNat 8 l.port.val :: Word.bytes (s.port l.port).serial, true⟩)

/-- The watch compare at a post (R135, R136): a tag equal under the mask holds the channel, queues WATCH_HIT at the
owner's port and, if the channel was not held, CHANNEL_HELD for its consumers and subscribers after it, and removes the
watch unless it is rearmed; any other tag changes nothing. The hold ends expiries that were due (the model's inference,
log 5). -/
def Obligations.WatchHitHoldsTheChannel : Prop :=
  ∀ (s : State) (c : ChanId) (tag : Word) (tk : Ticket) (w : Watch), (s.chan c).watch = some w →
    if tag &&& w.mask = w.tag &&& w.mask then
      (watchCompare s c tag tk).chan c =
        { s.chan c with held := true, watch := if w.rearm then some w else none } ∧
      (∀ q : Port, ((watchCompare s c tag tk).port q) = { s.port q with
        events := queued (s.port q).events
          ((if q = w.owner.port then [⟨.watchHit, (s.chan c).name, some w.owner.handle, none, some tk, none⟩] else []) ++
            (if (s.chan c).held then [] else s.heldEvents c q .channelHeld)) }) ∧
      s.restOfChannels c (watchCompare s c tag tk) ∧
      (∀ r : RecId, (watchCompare s c tag tk).msg r =
        if (s.chan c).held = false ∧ r ∈ (s.chan c).list then { s.msg r with expiring := false } else s.msg r) ∧
      (watchCompare s c tag tk).cells = s.cells ∧ (watchCompare s c tag tk).reclaim = s.reclaim ∧
      s.clockSame (watchCompare s c tag tk)
    else watchCompare s c tag tk = s

/-! ## Taking -/

/-- A TAKE through a CONSUMER on an OPEN, unheld channel takes the head of the list into the lowest EMPTY slot (R75, R76).
An expiry of the record that was due is not taken any more (the model's inference, log 5); the header's flags byte has 0 in
its bits but urgent (the model's choice, log 25). -/
def Obligations.TakeGivesTheHeadToAConsumer : Prop :=
  ∀ (l : Link) (seq b : Byte) (wait : Word) (s : State) (h : Handle) (u : Attachment) (i : Slot) (r : RecId)
    (rest : List RecId),
    let c := u.channel
    s.ready l → s.names l.port b h u → s.lawful → u.role = .consumer → (s.chan c).state = .opened →
    (s.chan c).held = false → (s.chan c).list = r :: rest →
    s.slot l.port i = .empty → (∀ j : Slot, j < i → s.slot l.port j ≠ .empty) →
    ∃ t, exec (.take l seq b wait) s = .next t ∧
      t.chan c = { s.chan c with list := rest } ∧ s.restOfChannels c t ∧
      t.msg r = { s.msg r with state := .inHand, expiring := false } ∧ s.restOfRecords r t ∧
      t.occupancy c = s.occupancy c ∧ t.cells = s.cells ∧ t.reclaim = s.reclaim ∧ s.clockSame t ∧
      s.othersSame l.port t ∧
      t.portIs l.port
        { s.port l.port with slots := (s.port l.port).slots.set i (.holding r h (s.msg r).ticket
            (if (s.port l.port).lease = 0 then none else some (s.port l.port).lease.toNat)) }
        ⟨seq, 0x21, .ok, [BitVec.ofNat 8 i.val, BitVec.ofNat 8 h.val] ++ s.headerBytes r ++ s.payload r, true⟩

/-- A TAKE through a SUBSCRIBER on an OPEN, unheld channel takes the first record of the list that it is pending in (R77,
R112, R118, R119): it becomes a holder, the taken count rises, its lag-reported flag clears, and a record nobody else is
pending in becomes UNLISTED, with the ROOM check (R64). (An unlisted record has no expiry due: the model's own field,
log 5. The header's flags byte has 0 in its bits but urgent: the model's choice, log 25.) -/
def Obligations.TakeGivesASubscriberItsOldest : Prop :=
  ∀ (l : Link) (seq b : Byte) (wait : Word) (s : State) (h : Handle) (u : Attachment) (i : Slot) (r : RecId)
    (before rest : List RecId),
    let c := u.channel
    let a : AttRef := ⟨l.port, h⟩
    s.ready l → s.names l.port b h u → s.lawful → u.role = .subscriber → (s.chan c).state = .opened →
    (s.chan c).held = false → (s.chan c).list = before ++ r :: rest → a ∈ (s.msg r).pending →
    (∀ q ∈ before, a ∉ (s.msg q).pending) →
    s.slot l.port i = .empty → (∀ j : Slot, j < i → s.slot l.port j ≠ .empty) →
    ∃ t, exec (.take l seq b wait) s = .next t ∧
      t.slot l.port i = .holding r h (s.msg r).ticket
        (if (s.port l.port).lease = 0 then none else some (s.port l.port).lease.toNat) ∧
      (∀ q j, q ≠ l.port ∨ j ≠ i → t.slot q j = s.slot q j) ∧
      (∀ x, t.att x = (if x = a then some { u with lagReported := false } else s.att x).map
        (fun v => v.afterRoom (s.makesRoom t c) c)) ∧
      (∀ x, x ∈ (t.msg r).pending ↔ x ∈ (s.msg r).pending ∧ x ≠ a) ∧
      (∀ x, x ∈ (t.msg r).holders ↔ x ∈ (s.msg r).holders ∨ x = a) ∧
      (t.msg r).taken = min ((s.msg r).taken + 1) 32 ∧ (t.msg r).identity = (s.msg r).identity ∧
      (t.msg r).lifetime = (s.msg r).lifetime ∧ s.restOfRecords r t ∧
      s.listAndStats c t ∧ (t.chan c).stats = (s.chan c).stats ∧ s.restOfChannels c t ∧ s.sessionsSame t ∧
      (∀ q, (t.port q).parked = (s.port q).parked ∧ (t.port q).receipts = (s.port q).receipts) ∧
      (∀ q, (t.port q).events = queued (s.port q).events (s.roomEvents (s.makesRoom t c) c q)) ∧
      (t.msg r).redelivery = (s.msg r).redelivery ∧ (t.msg r).receipted = (s.msg r).receipted ∧
      (t.msg r).wantsReceipt = (s.msg r).wantsReceipt ∧
      (if ∀ x ∈ (s.msg r).pending, x = a then
        (t.msg r).state = .unlisted ∧ (t.msg r).expiring = false ∧ (t.chan c).list = before ++ rest ∧
          t.occupancy c + 1 = s.occupancy c
      else (t.msg r).state = .listed ∧ (t.msg r).expiring = (s.msg r).expiring ∧
        (t.chan c).list = (s.chan c).list ∧ t.occupancy c = s.occupancy c) ∧
      (t.port l.port).response = ⟨seq, 0x21, .ok,
        [BitVec.ofNat 8 i.val, BitVec.ofNat 8 h.val] ++ s.headerBytes r ++ s.payload r, true⟩ ∧
      s.cellsReturn t [] ∧ s.reservationsReturn t [] ∧ t.reclaim = s.reclaim ∧ s.clockSame t

/-- The checks of TAKE in their order (R74): BAD_HANDLE, WRONG_ROLE, CHANNEL_BUSY, HAND_FULL; a TAKE refused at one
changes nothing. A TAKE that finds nothing it may take (R75, R96): with wait 0 it answers HELD or EMPTY, with a wait it
parks in the lowest EMPTY slot at the tail of the waiter list, or is refused with WAIT_ACTIVE. A success clears a
SUBSCRIBER's lag-reported flag. -/
def Obligations.TakeThatFindsNothingParks : Prop :=
  (∀ (l : Link) (seq b : Byte) (wait : Word) (s : State), s.ready l → s.namesNone l.port b →
    ∃ t, exec (.take l seq b wait) s = .next t ∧ s.onlyAnswers t l.port ⟨seq, 0x21, .badHandle, [], true⟩) ∧
  (∀ (l : Link) (seq b : Byte) (wait : Word) (s : State) (h : Handle) (u : Attachment),
    s.ready l → s.names l.port b h u →
    (u.role = .producer ∨ (s.chan u.channel).state ≠ .opened ∨ ∀ i : Slot, s.slot l.port i ≠ .empty) →
    ∃ t, exec (.take l seq b wait) s = .next t ∧
      s.onlyAnswers t l.port ⟨seq, 0x21, if u.role = .producer then .wrongRole
        else if (s.chan u.channel).state ≠ .opened then .channelBusy else .handFull, [], true⟩) ∧
  (∀ (l : Link) (seq b : Byte) (wait : Word) (s : State) (h : Handle) (u : Attachment) (i : Slot),
    let c := u.channel
    let after : Attachment := if u.role = .subscriber then { u with lagReported := false } else u
    s.ready l → s.names l.port b h u → s.lawful → u.role ≠ .producer → (s.chan c).state = .opened →
    ((s.chan c).held = true ∨ u.role = .consumer ∧ (s.chan c).list = [] ∨
      u.role = .subscriber ∧ ∀ r ∈ (s.chan c).list, (⟨l.port, h⟩ : AttRef) ∉ (s.msg r).pending) →
    s.slot l.port i = .empty → (∀ j : Slot, j < i → s.slot l.port j ≠ .empty) →
    ∃ t, exec (.take l seq b wait) s = .next t ∧
      t.records = s.records ∧ t.cells = s.cells ∧ t.reclaim = s.reclaim ∧ s.clockSame t ∧ s.othersSame l.port t ∧
      s.restOfChannels c t ∧
      if wait = 0 then
        t.chan c = s.chan c ∧
        t.portIs l.port
          { s.port l.port with attachments := (s.port l.port).attachments.set h (some after) }
          ⟨seq, 0x21, if (s.chan c).held then .held else .empty, [], true⟩
      else if (s.port l.port).parked ≠ none then
        t.chan c = s.chan c ∧ t.portIs l.port (s.port l.port) ⟨seq, 0x21, .waitActive, [], true⟩
      else
        t.chan c = { s.chan c with waiters := (s.chan c).waiters ++ [l.port] } ∧
        t.portIs l.port
          { s.port l.port with
            attachments := (s.port l.port).attachments.set h (some after)
            slots := (s.port l.port).slots.set i .reserved
            parked := some ⟨h, i, wait.toNat⟩ }
          ⟨seq, 0x21, .parked, [BitVec.ofNat 8 i.val, BitVec.ofNat 8 h.val], true⟩)

/-- The message header (R73, R200): 13 bytes. Bits 1 to 7 of its flags byte are 0 (the model's choice, log 25). -/
def headerOf (m : MsgRecord) (name : Word) : List Byte :=
  [BitVec.ofNat 8 m.ticket.source.val] ++ Word.bytes m.ticket.serial ++ Word.bytes name ++ Word.bytes m.tag ++
    Word.bytes (BitVec.ofNat 16 m.length) ++ [if m.urgent then 1 else 0, BitVec.ofNat 8 m.redelivery] ++
    Word.bytes (BitVec.ofNat 16 (m.lifetime.getD 0))

/-- READ_HAND (R79): a HOLDING slot answers with slot, handle, header and payload, every other slot value with BAD_SLOT;
nothing else changes. (The header's flags byte has 0 in its bits but urgent: the model's choice, log 25.) -/
def Obligations.ReadHandReadsTheSlot : Prop :=
  (∀ (l : Link) (seq b : Byte) (s : State) (i : Slot) (r : RecId) (h : Handle) (tk : Ticket) (c : ChanId),
    s.ready l → s.holdsAt l.port b i r h tk → (s.msg r).channel = some c →
    ∃ t, exec (.readHand l seq b) s = .next t ∧
      s.onlyAnswers t l.port ⟨seq, 0x24, .ok, [BitVec.ofNat 8 i.val, BitVec.ofNat 8 h.val] ++
        headerOf (s.msg r) (s.chan c).name ++ s.payload r, true⟩) ∧
  (∀ (l : Link) (seq b : Byte) (s : State), s.ready l → s.holdsNone l.port b →
    ∃ t, exec (.readHand l seq b) s = .next t ∧ s.onlyAnswers t l.port ⟨seq, 0x24, .badSlot, [], true⟩)

/-- RELEASE of a POINT record frees it with TAKEN and the releasing port (R81), and the event ends with the ROOM
check; RELEASE of a FANOUT record takes the holder out and frees only an UNLISTED record with no holder left, with
DELIVERED and its taken count unless its outcome has been issued (R82); the cells of a freed record return and its
source port's charge falls by its chain length (R36, R39), and the payload of every other record stays (R34); a slot
that holds nothing and another ticket are refused (R80). And what the end of any event does (R64): for each OPEN
channel whose occupancy has fallen and is at its room mark or below, ROOM for exactly the producers whose room-wanted
flag is set, which clears, and nothing else (for several channels of one event in rising order: the model's choice,
log 12). -/
def Obligations.ReleaseEndsTheHold : Prop :=
  (∀ (l : Link) (seq b src : Byte) (serial : Word) (s : State) (i : Slot) (r : RecId) (h : Handle) (tk : Ticket)
    (c : ChanId),
    s.ready l → s.holdsAt l.port b i r h tk → src.toNat = tk.source.val → serial = tk.serial → s.lawful →
    (s.msg r).channel = some c → (s.chan c).kind = .point →
    ∃ t, exec (.release l seq b src serial) s = .next t ∧
      t.slot l.port i = .empty ∧ (∀ q j, q ≠ l.port ∨ j ≠ i → t.slot q j = s.slot q j) ∧
      t.msg r = MsgRecord.free ∧ s.restOfRecords r t ∧
      s.cellsReturn t [r] ∧ s.reservationsReturn t [r] ∧
      t.counter c .delivered = s.counter c .delivered + 1 ∧ s.otherCounters c [.delivered] t ∧
      (t.chan c).list = (s.chan c).list ∧ s.restOfChannels c t ∧ t.occupancy c + 1 = s.occupancy c ∧
      s.oneReceipt t c .taken l.port.val r ∧ s.listAndStats c t ∧ s.sessionsSame t ∧ s.attsAfterRoom t c ∧
      (∀ q, (t.port q).events = queued (s.port q).events
        (s.wrapEvents c .delivered 1 q ++ s.roomEvents (s.makesRoom t c) c q)) ∧
      (∀ q, (t.port q).parked = (s.port q).parked) ∧
      (t.port l.port).response = ⟨seq, 0x22, .ok, [], true⟩ ∧ t.reclaim = s.reclaim ∧ s.clockSame t) ∧
  (∀ (l : Link) (seq b src : Byte) (serial : Word) (s : State) (i : Slot) (r : RecId) (h : Handle) (tk : Ticket)
    (c : ChanId),
    let frees := (s.msg r).state == .unlisted && (s.msg r).holders.all (fun a => a == ⟨l.port, h⟩)
    let n := if frees && !(s.msg r).receipted then 1 else 0
    s.ready l → s.holdsAt l.port b i r h tk → src.toNat = tk.source.val → serial = tk.serial → s.lawful →
    (s.msg r).channel = some c → (s.chan c).kind = .fanout →
    ∃ t, exec (.release l seq b src serial) s = .next t ∧
      t.slot l.port i = .empty ∧ (∀ q j, q ≠ l.port ∨ j ≠ i → t.slot q j = s.slot q j) ∧
      (t.chan c).list = (s.chan c).list ∧ t.occupancy c = s.occupancy c ∧ s.restOfRecords r t ∧ s.restOfChannels c t ∧
      s.listAndStats c t ∧ s.sessionsSame t ∧ (∀ a, t.att a = s.att a) ∧
      t.counter c .delivered = s.counter c .delivered + BitVec.ofNat 16 n ∧ s.otherCounters c [.delivered] t ∧
      (∀ q, (t.port q).events = queued (s.port q).events (s.wrapEvents c .delivered n q)) ∧
      (∀ q, (t.port q).receipts = (s.port q).receipts ++
        (if q = (s.msg r).ticket.source ∧ n = 1 then s.receiptOf c .delivered (s.msg r).taken r else [])) ∧
      (∀ q, (t.port q).parked = (s.port q).parked) ∧
      (if frees then t.msg r = MsgRecord.free
      else t.msg r = { s.msg r with holders := (s.msg r).holders.filter (fun a => a != ⟨l.port, h⟩) }) ∧
      s.cellsReturn t (if frees then [r] else []) ∧ s.reservationsReturn t (if n = 1 then [r] else []) ∧
      (t.port l.port).response = ⟨seq, 0x22, .ok, [], true⟩ ∧ t.reclaim = s.reclaim ∧ s.clockSame t) ∧
  (∀ (l : Link) (seq b src : Byte) (serial : Word) (s : State) (i : Slot) (r : RecId) (h : Handle) (tk : Ticket),
    s.ready l → s.holdsAt l.port b i r h tk → (src.toNat ≠ tk.source.val ∨ serial ≠ tk.serial) →
    ∃ t, exec (.release l seq b src serial) s = .next t ∧
      s.onlyAnswers t l.port ⟨seq, 0x22, .ticketMismatch, [], true⟩) ∧
  (∀ (l : Link) (seq b src : Byte) (serial : Word) (s : State), s.ready l → s.holdsNone l.port b →
    ∃ t, exec (.release l seq b src serial) s = .next t ∧ s.onlyAnswers t l.port ⟨seq, 0x22, .badSlot, [], true⟩) ∧
  (∀ before s : State,
    let t := endOfEvent before s
    (∀ a : AttRef, t.att a =
      (s.att a).map (fun u => u.afterRoom (before.makesRoom s u.channel) u.channel)) ∧
    (∀ q : Port, (t.port q).events = queued (s.port q).events
      ((List.finRange 32).flatMap (fun c => s.roomEvents (before.makesRoom s c) c q))) ∧
    (∀ q : Port, t.port q =
      { s.port q with attachments := (t.port q).attachments, events := (t.port q).events }) ∧
    s.storesSame t)

/-- RETURN (R83 to R85, R48): in an OPEN channel with no waiter to bind to (or held) the record goes to the head of
the list with its count raised and is an arrival for every consumer; in an OPEN, unheld one with a waiter it binds to
the first (R101); at count 7 it is freed POISONED; in a PURGING channel it is freed DISCARDED; where it is freed its
cells return and its source port's charge falls (R36, R39), and else no cell or charge changes; a FANOUT record is
refused with WRONG_KIND, a slot that holds nothing with BAD_SLOT, another ticket with TICKET_MISMATCH. RETURNED counts
each hand-back once, before the other effects (the model's choice, log 14). (A requeued or bound record has no expiry
due: the model's own field, log 5.) -/
def Obligations.ReturnRequeuesPoisonsOrDiscards : Prop :=
  (∀ (l : Link) (seq b src : Byte) (serial : Word) (s : State) (i : Slot) (r : RecId) (h : Handle) (tk : Ticket)
    (c : ChanId),
    s.ready l → s.holdsAt l.port b i r h tk → src.toNat = tk.source.val → serial = tk.serial → s.lawful →
    (s.msg r).channel = some c →
    ((s.chan c).held = true ∨ (s.chan c).waiters = [] ∨ (s.chan c).state ≠ .opened ∨ 7 ≤ (s.msg r).redelivery ∨
      (s.chan c).kind = .fanout) →
    ∃ t, exec (.giveBack l seq b src serial) s = .next t ∧
      if (s.chan c).kind = .fanout then s.onlyAnswers t l.port ⟨seq, 0x23, .wrongKind, [], true⟩
      else
        t.slot l.port i = .empty ∧ (∀ q j, q ≠ l.port ∨ j ≠ i → t.slot q j = s.slot q j) ∧
        t.counter c .returned = s.counter c .returned + 1 ∧ s.restOfRecords r t ∧ s.restOfChannels c t ∧
        t.reclaim = s.reclaim ∧ s.clockSame t ∧ s.listAndStats c t ∧ s.sessionsSame t ∧
        (∀ q, (t.port q).parked = (s.port q).parked) ∧
        (if (s.chan c).state = .opened ∧ (s.msg r).redelivery < 7 then
          (t.chan c).list = r :: (s.chan c).list ∧
          t.msg r = { s.msg r with state := .queued, redelivery := (s.msg r).redelivery + 1, expiring := false } ∧
          t.occupancy c = s.occupancy c ∧ s.cellsReturn t [] ∧ s.reservationsReturn t [] ∧
          s.otherCounters c [.returned] t ∧
          (∀ a : AttRef, t.att a =
            (s.att a).map (fun v => if v.isIn c .consumer then v.afterArrival (s.msg r).urgent else v)) ∧
          (∀ q, (t.port q).events = queued (s.port q).events
            (s.wrapEvents c .returned 1 q ++ s.arrivalEvents (s.isIn c .consumer) (s.msg r).urgent q)) ∧
          (∀ q, (t.port q).receipts = (s.port q).receipts) ∧
          (t.port l.port).response = ⟨seq, 0x23, .ok, [0], true⟩
        else
          (t.chan c).list = (s.chan c).list ∧ t.msg r = MsgRecord.free ∧ t.occupancy c + 1 = s.occupancy c ∧
          s.cellsReturn t [r] ∧ s.reservationsReturn t [r] ∧
          t.counter c .discarded = s.counter c .discarded + 1 ∧ s.otherCounters c [.returned, .discarded] t ∧
          s.oneReceipt t c (if (s.chan c).state = .opened then .poisoned else .discarded) 0 r ∧ s.attsAfterRoom t c ∧
          (∀ q, (t.port q).events = queued (s.port q).events
            (s.wrapEvents c .returned 1 q ++ s.wrapEvents c .discarded 1 q ++ s.roomEvents (s.makesRoom t c) c q)) ∧
          (t.port l.port).response =
            ⟨seq, 0x23, .ok, [if (s.chan c).state = .opened then 1 else 2], true⟩)) ∧
  (∀ (l : Link) (seq b src : Byte) (serial : Word) (s : State) (i : Slot) (r : RecId) (h : Handle) (tk : Ticket)
    (c : ChanId) (q : Port) (rest : List Port),
    s.ready l → s.holdsAt l.port b i r h tk → src.toNat = tk.source.val → serial = tk.serial → s.lawful →
    (s.msg r).channel = some c → (s.chan c).kind = .point → (s.chan c).state = .opened → (s.chan c).held = false →
    (s.msg r).redelivery < 7 → (s.chan c).waiters = q :: rest →
    ∃ t, exec (.giveBack l seq b src serial) s = .next t ∧
      t.msg r = { s.msg r with redelivery := (s.msg r).redelivery + 1, expiring := false } ∧ s.restOfRecords r t ∧
      t.chan c = { s.chan c with waiters := rest, stats := (t.chan c).stats } ∧ s.restOfChannels c t ∧
      t.counter c .returned = s.counter c .returned + 1 ∧ s.otherCounters c [.returned] t ∧
      (s.port q).parked ≠ none ∧
      (∀ o : Port, (t.port o).parked = if o = q then none else (s.port o).parked) ∧
      (∀ (o : Port) (j : Slot), t.slot o j =
        if o = l.port ∧ j = i then .empty
        else if o = q ∧ s.slot o j = .reserved then
          .holding r (((s.port q).parked.map ParkedTake.handle).getD 0) tk (s.freshLease q)
        else s.slot o j) ∧
      (∀ o, (t.port o).events = queued (s.port o).events
        (s.wrapEvents c .returned 1 o ++ (if o = q then s.doneEvent c q tk else []))) ∧
      (∀ a, t.att a = s.att a) ∧ (∀ o, (t.port o).receipts = (s.port o).receipts) ∧
      t.occupancy c = s.occupancy c ∧ s.cellsReturn t [] ∧ s.reservationsReturn t [] ∧ t.reclaim = s.reclaim ∧
      s.clockSame t ∧ s.sessionsSame t ∧
      (t.port l.port).response = ⟨seq, 0x23, .ok, [0], true⟩) ∧
  (∀ (l : Link) (seq b src : Byte) (serial : Word) (s : State) (i : Slot) (r : RecId) (h : Handle) (tk : Ticket),
    s.ready l → s.holdsAt l.port b i r h tk → (src.toNat ≠ tk.source.val ∨ serial ≠ tk.serial) →
    ∃ t, exec (.giveBack l seq b src serial) s = .next t ∧
      s.onlyAnswers t l.port ⟨seq, 0x23, .ticketMismatch, [], true⟩) ∧
  (∀ (l : Link) (seq b src : Byte) (serial : Word) (s : State), s.ready l → s.holdsNone l.port b →
    ∃ t, exec (.giveBack l seq b src serial) s = .next t ∧ s.onlyAnswers t l.port ⟨seq, 0x23, .badSlot, [], true⟩)

/-- CANCEL_WAIT (R105): the entry leaves the waiter list, the slot becomes EMPTY, no event is queued; with no parked take
it is refused with NO_WAIT. -/
def Obligations.CancelWaitEndsTheParkedTake : Prop :=
  (∀ (l : Link) (seq : Byte) (s : State) (w : ParkedTake) (u : Attachment),
    s.ready l → s.handsAgree → (s.port l.port).parked = some w → s.att ⟨l.port, w.handle⟩ = some u →
    ∃ t, exec (.cancelWait l seq) s = .next t ∧
      t.chan u.channel =
        { s.chan u.channel with waiters := (s.chan u.channel).waiters.filter (fun q => q != l.port) } ∧
      s.restOfChannels u.channel t ∧ t.records = s.records ∧ t.cells = s.cells ∧ t.reclaim = s.reclaim ∧
      s.clockSame t ∧ s.othersSame l.port t ∧
      t.portIs l.port
        { s.port l.port with slots := (s.port l.port).slots.set w.slot .empty, parked := none }
        ⟨seq, 0x25, .ok, Word.bytes (s.chan u.channel).name ++
          [BitVec.ofNat 8 w.handle.val, BitVec.ofNat 8 w.slot.val], true⟩) ∧
  (∀ (l : Link) (seq : Byte) (s : State), s.ready l → (s.port l.port).parked = none →
    ∃ t, exec (.cancelWait l seq) s = .next t ∧ s.onlyAnswers t l.port ⟨seq, 0x25, .noWait, [], true⟩)

/-! ## Notification and filters -/

/-- SET_NOTIFY (R174): its checks in their order; the three settings are written, the arrival count returns to 0 and the
coalescing timer stops, with no event. -/
def Obligations.SetNotifyWritesTheSettings : Prop :=
  (∀ (l : Link) (seq b threshold : Byte) (wait : Word) (stats : Byte) (s : State), s.ready l →
    (∀ h : Handle, b.toNat = h.val → s.att ⟨l.port, h⟩ = none) →
    ∃ t, exec (.setNotify l seq b threshold wait stats) s = .next t ∧
      s.onlyAnswers t l.port ⟨seq, 0x30, .badHandle, [], true⟩) ∧
  (∀ (l : Link) (seq b threshold : Byte) (wait : Word) (stats : Byte) (s : State) (h : Handle) (u : Attachment),
    s.ready l → s.names l.port b h u →
    ∃ t, exec (.setNotify l seq b threshold wait stats) s = .next t ∧
      if 32 < threshold.toNat ∨ stats ≠ 0 ∧ stats ≠ 1 then s.onlyAnswers t l.port ⟨seq, 0x30, .badArgument, [], true⟩
      else if u.role = .producer ∧ (threshold ≠ 0 ∨ wait ≠ 0) then
        s.onlyAnswers t l.port ⟨seq, 0x30, .wrongRole, [], true⟩
      else
        s.storesSame t ∧ s.othersSame l.port t ∧
        t.portIs l.port
          { s.port l.port with
            attachments := (s.port l.port).attachments.set h (some
              { u with threshold := threshold.toNat, wait := wait, statsNotify := stats == 1, arrivals := 0,
                       timer := none }) }
          ⟨seq, 0x30, .ok, [], true⟩)

/-- SET_FILTER (R115): its checks in their order; the filter is replaced and nothing else changes; argument lengths other
than 2, 4, 6, 8 and 10 are refused with BAD_LENGTH; tags named twice in an EXACT list act as one. A term of more than 4
words, which no frame that passes its checks spells, answers the same BAD_LENGTH (the model's inference, log 18). -/
def Obligations.SetFilterReplacesTheFilter : Prop :=
  (∀ n : Nat, lengthAllowed 0x31 n = some (n == 2 || n == 4 || n == 6 || n == 8 || n == 10)) ∧
  (∀ (tags : List Word) (tag : Word), (Filter.exact tags).passes tag = (Filter.exact tags.dedup).passes tag) ∧
  (∀ (l : Link) (seq b mode : Byte) (content : List Word) (s : State), s.ready l → content.length ≤ 4 →
    (∀ h : Handle, b.toNat = h.val → s.att ⟨l.port, h⟩ = none) →
    ∃ t, exec (.setFilter l seq b mode content) s = .next t ∧
      s.onlyAnswers t l.port ⟨seq, 0x31, .badHandle, [], true⟩) ∧
  (∀ (l : Link) (seq b mode : Byte) (content : List Word) (s : State) (h : Handle) (u : Attachment),
    s.ready l → s.names l.port b h u → content.length ≤ 4 →
    ∃ t, exec (.setFilter l seq b mode content) s = .next t ∧
      if ¬ (mode = 0 ∧ content = [] ∨ mode = 1 ∧ content.length = 1 ∨ mode = 2 ∧ 1 ≤ content.length) then
        s.onlyAnswers t l.port ⟨seq, 0x31, .badArgument, [], true⟩
      else if u.role ≠ .subscriber then s.onlyAnswers t l.port ⟨seq, 0x31, .wrongRole, [], true⟩
      else
        s.storesSame t ∧ s.othersSame l.port t ∧
        t.portIs l.port
          { s.port l.port with
            attachments := (s.port l.port).attachments.set h (some
              { u with filter := if mode = 0 then .all else if mode = 1 then .hash (content.headD 0)
                                 else .exact content }) }
          ⟨seq, 0x31, .ok, [], true⟩) ∧
  (∀ (l : Link) (seq b mode : Byte) (content : List Word) (s : State), s.ready l → 4 < content.length →
    ∃ t, exec (.setFilter l seq b mode content) s = .next t ∧
      s.onlyAnswers t l.port ⟨seq, 0x31, .badLength, [], true⟩)

/-- The hash index (R114) is the direct form of the fold of the nibble sum; entry 0 belongs to tag 0 alone, sums that
differ by a multiple of 15 share an index, and the order of the nibbles does not matter; and what each filter passes
(R113). -/
def Obligations.FiltersPassByHashOrTag : Prop :=
  (∀ tag : Word, hashIndex tag = (if nibbleSum tag = 0 then 0 else (nibbleSum tag - 1) % 15 + 1)) ∧
  (∀ tag : Word, nibbleSum tag =
    (tag.extractLsb' 12 4).toNat + (tag.extractLsb' 8 4).toNat + (tag.extractLsb' 4 4).toNat +
      (tag.extractLsb' 0 4).toNat) ∧
  (∀ tag : Word, hashIndex tag = 0 ↔ tag = 0) ∧
  (∀ a b : Word, nibbleSum a ≠ 0 → nibbleSum b ≠ 0 → (hashIndex a = hashIndex b ↔ nibbleSum a % 15 = nibbleSum b % 15)) ∧
  hashIndex 0x1234 = 10 ∧ hashIndex 0x4321 = 10 ∧
  (∀ tag : Word, Filter.all.passes tag = true) ∧
  (∀ table tag : Word, (Filter.hash table).passes tag = table.getLsbD (hashIndex tag)) ∧
  (∀ (tags : List Word) (tag : Word), (Filter.exact tags).passes tag = true ↔ tag ∈ tags)

/-! ## Inspection -/

/-- WATCH (R133) and UNWATCH (R134): their checks in their order, and their effects on the watch alone. -/
def Obligations.WatchAndUnwatchSetTheWatch : Prop :=
  (∀ (l : Link) (seq b : Byte) (s : State), s.ready l → (∀ h : Handle, b.toNat = h.val → s.att ⟨l.port, h⟩ = none) →
    (∀ tag mask rearm, ∃ t, exec (.watch l seq b tag mask rearm) s = .next t ∧
      s.onlyAnswers t l.port ⟨seq, 0x40, .badHandle, [], true⟩) ∧
    ∃ t, exec (.unwatch l seq b) s = .next t ∧ s.onlyAnswers t l.port ⟨seq, 0x41, .badHandle, [], true⟩) ∧
  (∀ (l : Link) (seq b : Byte) (tag mask : Word) (rearm : Byte) (s : State) (h : Handle) (u : Attachment),
    s.ready l → s.names l.port b h u →
    ∃ t, exec (.watch l seq b tag mask rearm) s = .next t ∧
      if rearm ≠ 0 ∧ rearm ≠ 1 then s.onlyAnswers t l.port ⟨seq, 0x40, .badArgument, [], true⟩
      else if (s.chan u.channel).state ≠ .opened then s.onlyAnswers t l.port ⟨seq, 0x40, .channelBusy, [], true⟩
      else if ∃ w, (s.chan u.channel).watch = some w ∧ w.owner ≠ ⟨l.port, h⟩ then
        s.onlyAnswers t l.port ⟨seq, 0x40, .watchBusy, [], true⟩
      else
        t.chan u.channel = { s.chan u.channel with watch := some ⟨tag, mask, rearm == 1, ⟨l.port, h⟩⟩ } ∧
        s.restOfChannels u.channel t ∧ t.records = s.records ∧ t.cells = s.cells ∧ t.reclaim = s.reclaim ∧
        s.clockSame t ∧ s.othersSame l.port t ∧
        t.portIs l.port (s.port l.port)
          ⟨seq, 0x40, .ok, [if (s.chan u.channel).watch = none then 0 else 1], true⟩) ∧
  (∀ (l : Link) (seq b : Byte) (s : State) (h : Handle) (u : Attachment), s.ready l → s.names l.port b h u →
    ∃ t, exec (.unwatch l seq b) s = .next t ∧
      if ∃ w, (s.chan u.channel).watch = some w ∧ w.owner = ⟨l.port, h⟩ then
        t.chan u.channel = { s.chan u.channel with watch := none } ∧
        s.restOfChannels u.channel t ∧ t.records = s.records ∧ t.cells = s.cells ∧ t.reclaim = s.reclaim ∧
        s.clockSame t ∧ s.othersSame l.port t ∧
        t.portIs l.port (s.port l.port) ⟨seq, 0x41, .ok, [], true⟩
      else s.onlyAnswers t l.port ⟨seq, 0x41, .notWatcher, [], true⟩)

/-- HOLD (R139, R141): its checks; on an unheld OPEN channel it sets the held flag and queues CHANNEL_HELD for every
consumer and subscriber; on a held one it answers ALREADY. An expiry that was due is not taken any more (the model's
inference, log 5). -/
def Obligations.HoldSetsTheHeldFlag : Prop :=
  (∀ (l : Link) (seq b : Byte) (s : State), s.ready l → (∀ h : Handle, b.toNat = h.val → s.att ⟨l.port, h⟩ = none) →
    ∃ t, exec (.hold l seq b) s = .next t ∧ s.onlyAnswers t l.port ⟨seq, 0x42, .badHandle, [], true⟩) ∧
  (∀ (l : Link) (seq b : Byte) (s : State) (h : Handle) (u : Attachment), s.ready l → s.names l.port b h u →
    ∃ t, exec (.hold l seq b) s = .next t ∧
      if (s.chan u.channel).state ≠ .opened then s.onlyAnswers t l.port ⟨seq, 0x42, .channelBusy, [], true⟩
      else if (s.chan u.channel).held then s.onlyAnswers t l.port ⟨seq, 0x42, .ok, [1], true⟩
      else
        t.chan u.channel = { s.chan u.channel with held := true } ∧ s.restOfChannels u.channel t ∧
        (∀ r : RecId, t.msg r =
          if r ∈ (s.chan u.channel).list then { s.msg r with expiring := false } else s.msg r) ∧
        t.cells = s.cells ∧ t.reclaim = s.reclaim ∧ s.clockSame t ∧
        (∀ q, q ≠ l.port → t.port q =
          { s.port q with events := queued (s.port q).events (s.heldEvents u.channel q .channelHeld) }) ∧
        t.portIs l.port
          { s.port l.port with
            events := queued (s.port l.port).events (s.heldEvents u.channel l.port .channelHeld) }
          ⟨seq, 0x42, .ok, [0], true⟩)

/-- RESUME (R140, R103): a handle that names no attachment is refused, and an unheld channel answers NOT_HELD. On a held
one the flag clears and CHANNEL_RESUMED goes to every consumer and subscriber. Then, on an OPEN POINT channel, the records
of the list are paired with the waiters in list order, each with its WAIT_DONE, until one of the two lists is empty. On an
OPEN FANOUT channel each waiter, in list order, takes the first record of the list that is pending for it; a record whose
pending set this empties is UNLISTED, and the ROOM check runs at the end. On a PURGING channel nothing is bound. (A bound
or unlisted record has no expiry due: the model's own field, log 5.) -/
def Obligations.ResumePairsRecordsWithWaiters : Prop :=
  (∀ (l : Link) (seq b : Byte) (s : State), s.ready l → s.namesNone l.port b →
    ∃ t, exec (.resume l seq b) s = .next t ∧ s.onlyAnswers t l.port ⟨seq, 0x43, .badHandle, [], true⟩) ∧
  (∀ (l : Link) (seq b : Byte) (s : State) (h : Handle) (u : Attachment), s.ready l → s.names l.port b h u → s.lawful →
    let c := u.channel
    let n := if (s.chan c).state = .opened then min (s.chan c).list.length (s.chan c).waiters.length else 0
    ∃ t, exec (.resume l seq b) s = .next t ∧
      if (s.chan c).held = false then s.onlyAnswers t l.port ⟨seq, 0x43, .notHeld, [], true⟩
      else
        (t.port l.port).response = ⟨seq, 0x43, .ok, [], true⟩ ∧
        t.chan c = { s.chan c with held := false, list := (t.chan c).list, waiters := (t.chan c).waiters } ∧
        s.restOfChannels c t ∧ s.cellsReturn t [] ∧ s.reservationsReturn t [] ∧ t.reclaim = s.reclaim ∧ s.clockSame t ∧
        s.sessionsSame t ∧
        (∀ q, (t.port q).receipts = (s.port q).receipts) ∧
        ((s.chan c).kind = .point ∨ (s.chan c).state = .purging →
          (t.chan c).list = (s.chan c).list.drop n ∧ (t.chan c).waiters = (s.chan c).waiters.drop n ∧
          (∀ r : RecId, r ∉ (s.chan c).list.take n → t.msg r = s.msg r) ∧
          (∀ q : Port, q ∉ (s.chan c).waiters.take n →
            (t.port q).events = queued (s.port q).events (s.heldEvents c q .channelResumed) ∧ s.handSame t q) ∧
          (∀ a : AttRef, t.att a = s.att a) ∧
          ∀ (r : RecId) (q : Port), (r, q) ∈ ((s.chan c).list.zip (s.chan c).waiters).take n →
            (s.port q).parked ≠ none ∧ t.msg r = { s.msg r with state := .inHand, expiring := false } ∧
            s.bound t q r (s.msg r).ticket ∧
            (t.port q).events = queued (s.port q).events
              (s.heldEvents c q .channelResumed ++ s.doneEvent c q (s.msg r).ticket)) ∧
        ((s.chan c).kind = .fanout ∧ (s.chan c).state = .opened →
          let stays : RecId → List AttRef := fun r =>
            (s.msg r).pending.filter (fun a => !(s.resumedBy c r).contains a)
          (t.chan c).list = (s.chan c).list.filter (fun r => !(stays r).isEmpty) ∧
          (t.chan c).waiters = (s.chan c).waiters.filter (fun q => (s.firstFor c q).isNone) ∧
          (∀ r : RecId,
            if s.resumedBy c r = [] then t.msg r = s.msg r
            else
              t.msg r = { s.msg r with
                          state := if stays r = [] then .unlisted else .listed
                          pending := stays r
                          holders := (t.msg r).holders
                          taken := min ((s.msg r).taken + (s.resumedBy c r).length) 32
                          expiring := if stays r = [] then false else (s.msg r).expiring } ∧
              ∀ a, a ∈ (t.msg r).holders ↔ a ∈ (s.msg r).holders ∨ a ∈ s.resumedBy c r) ∧
          (∀ q : Port,
            match (if q ∈ (s.chan c).waiters then s.firstFor c q else none) with
            | some r => s.bound t q r (s.msg r).ticket ∧
                (t.port q).events = queued (s.port q).events
                  (s.heldEvents c q .channelResumed ++ s.doneEvent c q (s.msg r).ticket ++
                    s.roomEvents (s.makesRoom t c) c q)
            | none => s.handSame t q ∧
                (t.port q).events = queued (s.port q).events
                  (s.heldEvents c q .channelResumed ++ s.roomEvents (s.makesRoom t c) c q)) ∧
          ∀ a : AttRef, t.att a = (s.att a).map (fun v =>
            (if (s.chan c).list.any (fun r => (s.resumedBy c r).contains a) then { v with lagReported := false }
            else v).afterRoom (s.makesRoom t c) c)))

/-- CHANNEL_INFO (R25), PEEK (R143) and READ_STATS (R147): their checks in their order and the bytes they answer; only
READ_STATS with the clear flag changes anything but the response record. The counters have the numbers of Table 7-2.
(The header's flags byte that PEEK answers has 0 in its bits but urgent: the model's choice, log 25.) -/
def Obligations.InspectionReadsTheChannel : Prop :=
  [Counter.posted, .refused, .delivered, .returned, .expired, .shed, .filtered, .discarded].map
    (fun k => (counterNumber k).val) = [0, 1, 2, 3, 4, 5, 6, 7] ∧
  (∀ (l : Link) (seq b x : Byte) (s : State), s.ready l → (∀ h : Handle, b.toNat = h.val → s.att ⟨l.port, h⟩ = none) →
    (∃ t, exec (.channelInfo l seq b) s = .next t ∧ s.onlyAnswers t l.port ⟨seq, 0x14, .badHandle, [], true⟩) ∧
    (∃ t, exec (.peek l seq b x) s = .next t ∧ s.onlyAnswers t l.port ⟨seq, 0x44, .badHandle, [], true⟩) ∧
    ∃ t, exec (.readStats l seq b x) s = .next t ∧ s.onlyAnswers t l.port ⟨seq, 0x45, .badHandle, [], true⟩) ∧
  (∀ (l : Link) (seq b : Byte) (s : State) (h : Handle) (u : Attachment), s.ready l → s.names l.port b h u →
    let ch := s.chan u.channel
    let inRole := fun x : Role => BitVec.ofNat 8 (allRefs.countP (fun a => match s.att a with
      | some v => v.channel == u.channel && v.role == x
      | none => false))
    (s.chan u.channel).state = .opened ∨ (s.chan u.channel).state = .purging →
    ∃ t, exec (.channelInfo l seq b) s = .next t ∧ s.onlyAnswers t l.port ⟨seq, 0x14, .ok,
      [BitVec.ofNat 8 u.channel.val] ++ Word.bytes ch.name ++
      [if ch.kind = .point then 0 else 1, if ch.state = .opened then 1 else 2, BitVec.ofNat 8 ch.depthLimit,
       BitVec.ofNat 8 ch.roomMark, if ch.policy = .refuse then 0 else 1, if ch.code = 0 then 0 else 1,
       BitVec.ofNat 8 (s.occupancy u.channel), BitVec.ofNat 8 ch.list.length, BitVec.ofNat 8 ch.waiters.length,
       inRole .producer, inRole .consumer, inRole .subscriber, if ch.held then 1 else 0,
       if ch.watch = none then 0 else 1, if ch.purger = none then 0 else 1], true⟩) ∧
  (∀ (l : Link) (seq b x : Byte) (s : State) (h : Handle) (u : Attachment), s.ready l → s.names l.port b h u →
    ∃ t, exec (.peek l seq b x) s = .next t ∧
      if 63 < x.toNat then s.onlyAnswers t l.port ⟨seq, 0x44, .badArgument, [], true⟩
      else if (s.chan u.channel).state = .purging then s.onlyAnswers t l.port ⟨seq, 0x44, .empty, [], true⟩
      else match (s.chan u.channel).list[x.toNat]? with
        | none => s.onlyAnswers t l.port ⟨seq, 0x44, .empty, [], true⟩
        | some r => (s.msg r).channel = some u.channel → s.onlyAnswers t l.port ⟨seq, 0x44, .ok,
            x :: headerOf (s.msg r) (s.chan u.channel).name, true⟩) ∧
  (∀ (l : Link) (seq b x : Byte) (s : State) (h : Handle) (u : Attachment), s.ready l → s.names l.port b h u →
    let d := ((List.finRange 8).map (fun k => (s.chan u.channel).stats[k])).flatMap Word.bytes
    ∃ t, exec (.readStats l seq b x) s = .next t ∧
      if x = 0 then s.onlyAnswers t l.port ⟨seq, 0x45, .ok, d, true⟩
      else if x = 1 then
        t.chan u.channel = { s.chan u.channel with stats := Vector.replicate 8 0 } ∧ s.restOfChannels u.channel t ∧
        t.records = s.records ∧ t.cells = s.cells ∧ t.reclaim = s.reclaim ∧ s.clockSame t ∧ s.othersSame l.port t ∧
        t.portIs l.port (s.port l.port) ⟨seq, 0x45, .ok, d, true⟩
      else s.onlyAnswers t l.port ⟨seq, 0x45, .badArgument, [], true⟩)

/-! ## Queues -/

/-- An event entry (Table 11-9), absent fields as 0 (R200). -/
def eventLayout (k : Byte) (e : Event) : List Byte :=
  [k] ++ Word.bytes e.name ++
    [match e.handle with | some h => BitVec.ofNat 8 h.val | none => 0,
     match e.slot with | some i => BitVec.ofNat 8 i.val | none => 0] ++
    (match e.ticket with
     | some tk => BitVec.ofNat 8 tk.source.val :: Word.bytes tk.serial
     | none => [0, 0, 0]) ++
    Word.bytes (match e.count with | some n => BitVec.ofNat 16 n | none => 0)

/-- READ_EVENTS (R167) and READ_RECEIPTS (R156): 1 to 8 entries from the head are copied behind the two numbers, and
nothing else changes; other arguments are refused, and argument lengths other than 1 at frame level. The entries are laid
out as Tables 11-8 and 11-9 say. -/
def Obligations.ReadsCopyTheHeadOfTheQueue : Prop :=
  (∀ (l : Link) (seq n : Byte) (s : State), s.ready l →
    ∃ t, exec (.readEvents l seq n) s = .next t ∧
      if 1 ≤ n.toNat ∧ n.toNat ≤ 8 then
        s.onlyAnswers t l.port ⟨seq, 0x50, .ok,
          [BitVec.ofNat 8 (s.port l.port).events.length, BitVec.ofNat 8 (min n.toNat (s.port l.port).events.length)] ++
            ((s.port l.port).events.take n.toNat).flatMap eventBytes, true⟩
      else s.onlyAnswers t l.port ⟨seq, 0x50, .badArgument, [], true⟩) ∧
  (∀ (l : Link) (seq n : Byte) (s : State), s.ready l →
    ∃ t, exec (.readReceipts l seq n) s = .next t ∧
      if 1 ≤ n.toNat ∧ n.toNat ≤ 8 then
        s.onlyAnswers t l.port ⟨seq, 0x52, .ok,
          [BitVec.ofNat 8 (s.port l.port).receipts.length,
           BitVec.ofNat 8 (min n.toNat (s.port l.port).receipts.length)] ++
            ((s.port l.port).receipts.take n.toNat).flatMap receiptBytes, true⟩
      else s.onlyAnswers t l.port ⟨seq, 0x52, .badArgument, [], true⟩) ∧
  (∀ n : Nat, lengthAllowed 0x50 n = some (n == 1) ∧ lengthAllowed 0x52 n = some (n == 1)) ∧
  (∀ e : Event, eventBytes e = eventLayout (eventCode e.kind) e) ∧
  (∀ x : Receipt, receiptBytes x =
    [BitVec.ofNat 8 x.ticket.source.val] ++ Word.bytes x.ticket.serial ++ Word.bytes x.name ++ Word.bytes x.tag ++
      [outcomeCode x.outcome, BitVec.ofNat 8 x.detail]) ∧
  [EventKind.arrival, .waitDone, .waitExpired, .leaseExpired, .room, .lagged, .watchHit, .channelHeld, .channelResumed,
    .purgeDone, .statsNearWrap, .overflow].map eventCode = [1, 2, 3, 4, 5, 6, 7, 8, 9, 10, 11, 12] ∧
  [MsgOutcome.taken, .delivered, .expired, .shed, .discarded, .poisoned].map outcomeCode = [1, 2, 3, 4, 5, 6]

/-- DROP_EVENTS (R168) and DROP_RECEIPTS (R158): the number asked for leaves the head of the queue and the rest is
reported; more than are queued is refused with QUEUE_SHORT and removes nothing; argument lengths other than 1 are refused
at frame level. -/
def Obligations.DropsRemoveFromTheHead : Prop :=
  (∀ n : Nat, lengthAllowed 0x51 n = some (n == 1) ∧ lengthAllowed 0x53 n = some (n == 1)) ∧
  (∀ (l : Link) (seq n : Byte) (s : State), s.ready l →
    ∃ t, exec (.dropEvents l seq n) s = .next t ∧
      if n.toNat = 0 ∨ 32 < n.toNat then s.onlyAnswers t l.port ⟨seq, 0x51, .badArgument, [], true⟩
      else if (s.port l.port).events.length < n.toNat then s.onlyAnswers t l.port ⟨seq, 0x51, .queueShort, [], true⟩
      else s.storesSame t ∧ s.othersSame l.port t ∧
        t.portIs l.port { s.port l.port with events := (s.port l.port).events.drop n.toNat }
          ⟨seq, 0x51, .ok, [BitVec.ofNat 8 ((s.port l.port).events.length - n.toNat)], true⟩) ∧
  (∀ (l : Link) (seq n : Byte) (s : State), s.ready l →
    ∃ t, exec (.dropReceipts l seq n) s = .next t ∧
      if n.toNat = 0 ∨ 16 < n.toNat then s.onlyAnswers t l.port ⟨seq, 0x53, .badArgument, [], true⟩
      else if (s.port l.port).receipts.length < n.toNat then s.onlyAnswers t l.port ⟨seq, 0x53, .queueShort, [], true⟩
      else s.storesSame t ∧ s.othersSame l.port t ∧
        t.portIs l.port { s.port l.port with receipts := (s.port l.port).receipts.drop n.toNat }
          ⟨seq, 0x53, .ok, [BitVec.ofNat 8 ((s.port l.port).receipts.length - n.toNat)], true⟩)

/-- An event is placed as R165 says: at the tail of up to 30 entries; the 32nd becomes OVERFLOW with count 1; while an
OVERFLOW entry stands in the queue, only its count rises, up to 255. -/
def Obligations.EventsArePlacedOrCounted : Prop :=
  ∀ (ordinary : List Event) (e : Event), (∀ x ∈ ordinary, x.kind ≠ .overflow) →
    (ordinary.length < 31 → placeEvent ordinary e = ordinary ++ [e]) ∧
    (ordinary.length = 31 → placeEvent ordinary e = ordinary ++ [⟨.overflow, 0, none, none, none, some 1⟩]) ∧
    ∀ n, placeEvent (ordinary ++ [⟨.overflow, 0, none, none, none, some n⟩]) e =
      ordinary ++ [⟨.overflow, 0, none, none, none, some (min (n + 1) 255)⟩]

/-- An arrival (R171, R173): with threshold 0 nothing; at the threshold, or for an urgent record, one ARRIVAL with the
whole count, which returns to 0 and stops the timer; else the count rises and the timer starts at the first of a group. -/
def Obligations.ArrivalsAreGathered : Prop :=
  ∀ (s : State) (c : ChanId) (urgent : Bool) (a : AttRef) (u : Attachment), s.att a = some u →
    ∃ t, arrive s c urgent a = t ∧
      s.othersSame a.port t ∧ t.channels = s.channels ∧ t.records = s.records ∧ t.cells = s.cells ∧
      t.reclaim = s.reclaim ∧ s.clockSame t ∧
      if u.threshold = 0 then t = s
      else if urgent = true ∨ u.arrivals + 1 = u.threshold then
        t.port a.port =
          { s.port a.port with
            attachments := (s.port a.port).attachments.set a.handle (some { u with arrivals := 0, timer := none })
            events := placeEvent (s.port a.port).events
              ⟨.arrival, (s.chan c).name, some a.handle, none, none, some (u.arrivals + 1)⟩ }
      else
        t.port a.port =
          { s.port a.port with
            attachments := (s.port a.port).attachments.set a.handle (some
              { u with arrivals := u.arrivals + 1,
                       timer := if u.timer = none ∧ u.wait ≠ 0 then some u.wait.toNat else u.timer }) }

/-! ## Time and the reclaim engine -/

/-- A wait that runs out (R104) and a coalescing timer that runs out (R172), at their boundary. -/
def Obligations.WaitAndCoalescingTimersExpire : Prop :=
  (∀ (p : Port) (s : State) (w : ParkedTake) (u : Attachment),
    s.handsAgree → (s.port p).parked = some w → w.timer = 0 → s.att ⟨p, w.handle⟩ = some u →
    ∃ t, exec (.waitExpiry p) s = .next t ∧
      t.chan u.channel = { s.chan u.channel with waiters := (s.chan u.channel).waiters.filter (fun q => q != p) } ∧
      s.restOfChannels u.channel t ∧ t.records = s.records ∧ t.cells = s.cells ∧ t.reclaim = s.reclaim ∧
      s.clockSame t ∧ s.othersSame p t ∧
      t.port p = { s.port p with
        slots := (s.port p).slots.set w.slot .empty, parked := none,
        events := placeEvent (s.port p).events
          ⟨.waitExpired, (s.chan u.channel).name, some w.handle, none, none, none⟩ }) ∧
  (∀ (p : Port) (h : Handle) (s : State) (u : Attachment), s.att ⟨p, h⟩ = some u → u.timer = some 0 →
    ∃ t, exec (.coalescingExpiry p h) s = .next t ∧ s.storesSame t ∧ s.othersSame p t ∧
      t.port p = { s.port p with
        attachments := (s.port p).attachments.set h (some { u with arrivals := 0, timer := none }),
        events := placeEvent (s.port p).events
          ⟨.arrival, (s.chan u.channel).name, some h, none, none, some u.arrivals⟩ })

/-- A lifetime that runs out (R67, R68): a POINT record, and a FANOUT record without holders, is freed with EXPIRED; a
FANOUT record with holders becomes UNLISTED, with EXPIRED issued, and the event ends with the ROOM check. The cells of
a freed record return and its source port's charge falls by its chain length (R36, R39). That an expiry is due, and
that an unlisted record has none due, is said by the model's own field expiring (log 5). Where the lifetime does not
run nothing happens (log 4). -/
def Obligations.LifetimesExpire : Prop :=
  (∀ (r : RecId) (s : State) (c : ChanId), s.lawful → (s.msg r).expiring = true → (s.msg r).lifetime ≠ none →
    (s.msg r).channel = some c → r ∈ (s.chan c).list → (s.chan c).state = .opened → (s.chan c).held = false →
    ∃ t, exec (.lifetimeExpiry r) s = .next t ∧
      (if (s.msg r).holders = [] then t.msg r = MsgRecord.free
      else t.msg r = { s.msg r with state := .unlisted, pending := [], expiring := false, receipted := true,
                                    wantsReceipt := false }) ∧
      (t.chan c).list = (s.chan c).list.filter (fun q => q != r) ∧ s.restOfRecords r t ∧ s.restOfChannels c t ∧
      t.counter c .expired = s.counter c .expired + 1 ∧ s.otherCounters c [.expired] t ∧
      t.occupancy c + 1 = s.occupancy c ∧
      s.oneReceipt t c .expired 0 r ∧ s.reservationsReturn t [r] ∧
      s.cellsReturn t (if (s.msg r).holders = [] then [r] else []) ∧
      s.listAndStats c t ∧ s.handsSame t ∧ s.sessionsSame t ∧ s.attsAfterRoom t c ∧
      (∀ q, (t.port q).events = queued (s.port q).events
        (s.wrapEvents c .expired 1 q ++ s.roomEvents (s.makesRoom t c) c q)) ∧
      t.reclaim = s.reclaim ∧ s.clockSame t) ∧
  (∀ (r : RecId) (s : State), (s.lifetimeRunning (s.msg r) = false ∨ (s.msg r).lifetime = none) →
    exec (.lifetimeExpiry r) s = .next s)

/-- A lease that runs out (R89): the slot empties and LEASE_EXPIRED is queued first. A POINT record of an OPEN channel
below count 7 is handed back (R84): with nobody to bind to, it goes to the head of the list with its count raised and
is an arrival for every consumer; in an unheld channel with a waiter it binds to the first (R101). A POINT record at
count 7 is freed POISONED, with the ROOM check, and one in a PURGING channel is freed DISCARDED (R48); both count
RETURNED and DISCARDED. A FANOUT record is released on the holder's behalf (R86, R82, R47): the holder leaves, and
only an UNLISTED record with no holder left is freed, with DELIVERED and its taken count unless its outcome has been
issued. The cells of a freed record return and its source port's charge falls (R36, R39). (A requeued or bound record
has no expiry due: the model's own field, log 5; RETURNED is counted before the other effects: log 14.) -/
def Obligations.LeaseExpiryHandsBack : Prop :=
  (∀ (p : Port) (i : Slot) (s : State) (r : RecId) (h : Handle) (tk : Ticket) (c : ChanId),
    s.lawful → s.slot p i = .holding r h tk (some 0) → (s.msg r).channel = some c → (s.chan c).kind = .point →
    (s.chan c).state = .opened → (s.msg r).redelivery < 7 →
    ((s.chan c).held = true ∨ (s.chan c).waiters = []) →
    ∃ t, exec (.leaseExpiry p i) s = .next t ∧
      t.slot p i = .empty ∧ (∀ q j, q ≠ p ∨ j ≠ i → t.slot q j = s.slot q j) ∧
      (∀ q, (t.port q).events = queued (s.port q).events
        (s.leaseEvents p i c h tk q ++ s.wrapEvents c .returned 1 q ++
          s.arrivalEvents (s.isIn c .consumer) (s.msg r).urgent q)) ∧
      (t.chan c).list = r :: (s.chan c).list ∧
      t.msg r = { s.msg r with state := .queued, redelivery := (s.msg r).redelivery + 1, expiring := false } ∧
      s.restOfRecords r t ∧
      t.counter c .returned = s.counter c .returned + 1 ∧ s.otherCounters c [.returned] t ∧ s.restOfChannels c t ∧
      t.occupancy c = s.occupancy c ∧ s.cellsReturn t [] ∧ s.reservationsReturn t [] ∧ t.reclaim = s.reclaim ∧
      s.clockSame t ∧ s.listAndStats c t ∧ s.sessionsSame t ∧
      (∀ a : AttRef, t.att a =
        (s.att a).map (fun v => if v.isIn c .consumer then v.afterArrival (s.msg r).urgent else v)) ∧
      ∀ q, (t.port q).receipts = (s.port q).receipts ∧ (t.port q).parked = (s.port q).parked) ∧
  (∀ (p : Port) (i : Slot) (s : State) (r : RecId) (h : Handle) (tk : Ticket) (c : ChanId) (q : Port) (rest : List Port),
    s.lawful → s.slot p i = .holding r h tk (some 0) → (s.msg r).channel = some c → (s.chan c).kind = .point →
    (s.chan c).state = .opened → (s.msg r).redelivery < 7 → (s.chan c).held = false → (s.chan c).waiters = q :: rest →
    ∃ t, exec (.leaseExpiry p i) s = .next t ∧
      t.msg r = { s.msg r with redelivery := (s.msg r).redelivery + 1, expiring := false } ∧ s.restOfRecords r t ∧
      t.chan c = { s.chan c with waiters := rest, stats := (t.chan c).stats } ∧ s.restOfChannels c t ∧
      t.counter c .returned = s.counter c .returned + 1 ∧ s.otherCounters c [.returned] t ∧
      (s.port q).parked ≠ none ∧
      (∀ o : Port, (t.port o).parked = if o = q then none else (s.port o).parked) ∧
      (∀ (o : Port) (j : Slot), t.slot o j =
        if o = p ∧ j = i then .empty
        else if o = q ∧ s.slot o j = .reserved then
          .holding r (((s.port q).parked.map ParkedTake.handle).getD 0) tk (s.freshLease q)
        else s.slot o j) ∧
      (∀ o, (t.port o).events = queued (s.port o).events
        (s.leaseEvents p i c h tk o ++ s.wrapEvents c .returned 1 o ++ (if o = q then s.doneEvent c q tk else []))) ∧
      (∀ a, t.att a = s.att a) ∧ (∀ o, (t.port o).receipts = (s.port o).receipts) ∧
      t.occupancy c = s.occupancy c ∧ s.cellsReturn t [] ∧ s.reservationsReturn t [] ∧ t.reclaim = s.reclaim ∧
      s.clockSame t ∧ s.sessionsSame t) ∧
  (∀ (p : Port) (i : Slot) (s : State) (r : RecId) (h : Handle) (tk : Ticket) (c : ChanId),
    s.lawful → s.slot p i = .holding r h tk (some 0) → (s.msg r).channel = some c → (s.chan c).kind = .point →
    ((s.chan c).state ≠ .opened ∨ 7 ≤ (s.msg r).redelivery) →
    ∃ t, exec (.leaseExpiry p i) s = .next t ∧
      t.slot p i = .empty ∧ (∀ q j, q ≠ p ∨ j ≠ i → t.slot q j = s.slot q j) ∧
      (∀ q, (t.port q).events = queued (s.port q).events
        (s.leaseEvents p i c h tk q ++ s.wrapEvents c .returned 1 q ++ s.wrapEvents c .discarded 1 q ++
          s.roomEvents (s.makesRoom t c) c q)) ∧
      t.msg r = MsgRecord.free ∧ s.restOfRecords r t ∧
      s.cellsReturn t [r] ∧ s.reservationsReturn t [r] ∧
      t.counter c .returned = s.counter c .returned + 1 ∧ t.counter c .discarded = s.counter c .discarded + 1 ∧
      s.otherCounters c [.returned, .discarded] t ∧ (t.chan c).list = (s.chan c).list ∧
      t.occupancy c + 1 = s.occupancy c ∧
      s.oneReceipt t c (if (s.chan c).state = .opened then .poisoned else .discarded) 0 r ∧ s.attsAfterRoom t c ∧
      s.listAndStats c t ∧ s.restOfChannels c t ∧ s.sessionsSame t ∧ (∀ q, (t.port q).parked = (s.port q).parked) ∧
      t.reclaim = s.reclaim ∧ s.clockSame t) ∧
  (∀ (p : Port) (i : Slot) (s : State) (r : RecId) (h : Handle) (tk : Ticket) (c : ChanId),
    let frees := (s.msg r).state == .unlisted && (s.msg r).holders.all (fun a => a == ⟨p, h⟩)
    let n := if frees && !(s.msg r).receipted then 1 else 0
    s.lawful → s.slot p i = .holding r h tk (some 0) → (s.msg r).channel = some c → (s.chan c).kind = .fanout →
    ∃ t, exec (.leaseExpiry p i) s = .next t ∧
      t.slot p i = .empty ∧ (∀ q j, q ≠ p ∨ j ≠ i → t.slot q j = s.slot q j) ∧
      (∀ q, (t.port q).events = queued (s.port q).events
        (s.leaseEvents p i c h tk q ++ s.wrapEvents c .delivered n q)) ∧
      (if frees then t.msg r = MsgRecord.free
      else t.msg r = { s.msg r with holders := (s.msg r).holders.filter (fun a => a != ⟨p, h⟩) }) ∧
      s.restOfRecords r t ∧
      s.cellsReturn t (if frees then [r] else []) ∧ s.reservationsReturn t (if n = 1 then [r] else []) ∧
      t.counter c .delivered = s.counter c .delivered + BitVec.ofNat 16 n ∧ s.otherCounters c [.delivered] t ∧
      (∀ q, (t.port q).receipts = (s.port q).receipts ++
        (if q = (s.msg r).ticket.source ∧ n = 1 then s.receiptOf c .delivered (s.msg r).taken r else [])) ∧
      (t.chan c).list = (s.chan c).list ∧ t.occupancy c = s.occupancy c ∧ s.listAndStats c t ∧ s.restOfChannels c t ∧
      (∀ a, t.att a = s.att a) ∧ s.sessionsSame t ∧ (∀ q, (t.port q).parked = (s.port q).parked) ∧
      t.reclaim = s.reclaim ∧ s.clockSame t)

/-- Time (R1). An expiry command whose timer runs comes when the boundaries its timer still has before it have passed,
unless what falls due on the way stops the timer; one whose timer does not run does not occur (log 4). Each boundary
brings every running timer one nearer to its expiry, and passing boundaries moves the clock, the timers and the running
lifetimes and nothing else. Boundaries add up; a stretch in which nothing falls due only passes boundaries. What is due is
taken first, against the state that the engine's last step left (R44). While the reclaim engine is idle, what passes on
the way is what the part does left to itself; while it has work, a boundary falls amid its steps (R44): before it comes
what is due, and then the steps that the engine owes. Each boundary puts its last step 50 steps of 2 µs further back, each
step brings it one nearer, and it owes what keeps it within one step of the boundary: 50 k - 1 steps for k boundaries from
its start on. The part, left to itself, passes no boundary while an expiry is due or the engine owes steps; where nothing
is due and the engine has work and owes none, its step or a boundary comes first, for either choice of the part. (That
time passes at these commands, and the order of what is due together, are the model's choices: logs 2, 3; the engine's gap
and the steps owed are the model's inference, and the choice is a free value: log 26; a lifetime that is due stands at the
model's field expiring: log 5.) -/
def Obligations.ExpiriesComeAtTheirBoundary : Prop :=
  (∀ (s : State) (x : Expiry), s.ticksLeft x = none → exec (expiryCommand x) s = .next s) ∧
  (∀ (s : State) (x : Expiry) (n : Nat), s.ticksLeft x = some n →
    exec (expiryCommand x) s = .next (if (reach n s).ticksLeft x = some 0 then expire (reach n s) x else reach n s)) ∧
  (∀ (s : State) (p : Port) (w : ParkedTake), (s.port p).parked = some w → s.att ⟨p, w.handle⟩ ≠ none →
    s.ticksLeft (.wait p) = some w.timer) ∧
  (∀ (s : State) (p : Port) (h : Handle) (u : Attachment), s.att ⟨p, h⟩ = some u →
    s.ticksLeft (.coalescing p h) = u.timer) ∧
  (∀ (s : State) (p : Port) (i : Slot) (r : RecId) (h : Handle) (tk : Ticket) (k : Nat),
    s.slot p i = .holding r h tk (some k) →
    s.ticksLeft (.lease p i) = some (if k = 0 then 0 else 100 * k - s.tickPhase)) ∧
  (∀ (s : State) (p : Port) (k : Nat), (s.port p).penalty = some k →
    s.ticksLeft (.penalty p) = some (if k = 0 then 0 else 100 * k - s.tickPhase)) ∧
  (∀ (s : State) (r : RecId) (k : Nat), s.lifetimeRunning (s.msg r) = true → (s.msg r).lifetime = some k →
    s.ticksLeft (.lifetime r) = some (if (s.msg r).expiring = true ∨ k = 0 then 0 else 100 * k - s.tickPhase)) ∧
  (∀ (n k : Nat) (s : State) (x : Expiry), s.ranged → s.ticksLeft x = some k → n ≤ k →
    (advance n s).ticksLeft x = some (k - n)) ∧
  (∀ (n : Nat) (s : State),
    let t := advance n s
    let k := (s.tickPhase + n) / 100
    t.tickPhase = (s.tickPhase + n) % 100 ∧ t.channels = s.channels ∧ t.cells = s.cells ∧ t.reclaim = s.reclaim ∧
    t.draws = s.draws ∧ t.pending = s.pending ∧
    (∀ p : Port, t.port p = { s.port p with
      penalty := (s.port p).penalty.map (fun v => v - k)
      slots := (t.port p).slots
      parked := (s.port p).parked.map (fun w => { w with timer := w.timer - n })
      attachments := (t.port p).attachments }) ∧
    (∀ (p : Port) (i : Slot), t.slot p i = match s.slot p i with
      | .holding r h tk (some v) => .holding r h tk (some (v - k))
      | x => x) ∧
    (∀ a : AttRef, t.att a = (s.att a).map (fun u => { u with timer := u.timer.map (fun v => v - n) })) ∧
    (∀ r : RecId, t.msg r =
      if s.lifetimeRunning (s.msg r) = true ∧ 1 ≤ k then
        match (s.msg r).lifetime with
        | none => s.msg r
        | some v => if k < v then { s.msg r with lifetime := some (v - k) }
                    else { s.msg r with lifetime := some 1, expiring := true }
      else s.msg r)) ∧
  (∀ (m n : Nat) (s : State), advance n (advance m s) = advance (m + n) s) ∧
  (∀ (m n : Nat) (s : State), s.ranged → reach n (reach m s) = reach (m + n) s) ∧
  (∀ (n : Nat) (s : State), s.ranged → s.reclaim = [] → (∀ x : Expiry, ∀ k ∈ s.ticksLeft x, n ≤ k) →
    reach n s = advance n s) ∧
  (∀ (n : Nat) (s : State), s.ranged → s.pending = [] → s.reclaim = [] →
    ∃ k : Nat, Host.Core.run Sys2Proof.core k s = .next (reach n s)) ∧
  (∀ s : State, reach 1 s = advance 1 (settle s)) ∧
  (∀ s : State, s.stepsOwed = 0 ∨ s.reclaim = [] → (∀ x : Expiry, s.ticksLeft x ≠ some 0) → settle s = s) ∧
  (∀ s : State, s.pending = [] → (∃ x : Expiry, s.ticksLeft x = some 0) →
    ∃ y : Expiry, s.ticksLeft y = some 0 ∧ step s = .next (expire s y) ∧
      (s.ranged → settle s = settle (expire s y))) ∧
  (∀ s : State, s.pending = [] → s.reclaim ≠ [] → s.stepsOwed ≠ 0 → (∀ x : Expiry, s.ticksLeft x ≠ some 0) →
    ∃ t, step s = .next t ∧ (exec .recordStep s = .next t ∨ exec .completionStep s = .next t) ∧ s.clockStep t ∧
      ((∀ x : Expiry, t.ticksLeft x ≠ some 0) → settle s = settle t)) ∧
  (∀ s : State, s.pending = [] → s.reclaim ≠ [] → s.stepsOwed = 0 → (∀ x : Expiry, s.ticksLeft x ≠ some 0) →
    ∃ t, step s = .next t ∧
      let u := { s with draws := s.draws + 1 }
      (exec .recordStep u = .next t ∨ exec .completionStep u = .next t ∨ t = advance 1 u)) ∧
  (∀ s : State, s.stepsOwed = s.engineGap - 1) ∧
  (∀ (n : Nat) (s : State), s.reclaim ≠ [] → (advance n s).engineGap = s.engineGap + 50 * n) ∧
  (∀ (n : Nat) (s : State), s.reclaim = [] → (advance (n + 1) s).engineGap = 0) ∧
  (∀ s : State, s.pending = [] → s.reclaim = [] → (∀ x : Expiry, s.ticksLeft x ≠ some 0) → step s = .next (advance 1 s))

/-- LONG_TICK_BOUNDARY (R65, R1). Time passes to the next long-tick boundary. Where nothing is due on the way and the
reclaim engine is idle, this lowers every running lifetime by one, and one that would reach 0 is due to expire, not left
at 0; leases and penalty timers come one boundary nearer; channels, cells and queues stay. (That a lifetime is due is said
by the model's field expiring, log 5; that time passes to the boundary, and that what falls due on the way is done first,
is log 3.) -/
def Obligations.LongTickLowersTheLifetimes : Prop :=
  (∀ s : State, s.tickPhase < 100 →
    ∃ t, exec .longTickBoundary s = .next t ∧ t = reach (100 - s.tickPhase) s ∧ t.tickPhase = 0) ∧
  (∀ s : State, s.tickPhase < 100 → s.reclaim = [] →
    (∀ x : Expiry, ∀ k ∈ s.ticksLeft x, 100 - s.tickPhase ≤ k) →
    ∃ t, exec .longTickBoundary s = .next t ∧ t.tickPhase = 0 ∧
      (∀ r : RecId, t.msg r =
        if s.lifetimeRunning (s.msg r) then
          match (s.msg r).lifetime with
          | none => s.msg r
          | some v => if 1 < v then { s.msg r with lifetime := some (v - 1) }
                      else { s.msg r with lifetime := some 1, expiring := true }
        else s.msg r) ∧
      (∀ p, (t.port p).penalty = (s.port p).penalty.map (fun v => v - 1)) ∧
      (∀ p i, t.slot p i = match s.slot p i with
        | .holding r h tk (some v) => .holding r h tk (some (v - 1))
        | x => x) ∧
      (∀ p, (t.port p).events = (s.port p).events ∧ (t.port p).receipts = (s.port p).receipts ∧
        (t.port p).response = (s.port p).response) ∧
      t.channels = s.channels ∧ t.cells = s.cells ∧ t.reclaim = s.reclaim ∧ t.pending = s.pending)

/-- A record step frees the first record of the head channel's list with DISCARDED, its cells returning and its source
port's charge falling by its chain length (R36, R39), or unlists one that is still held (R42); a completion step on an
empty list makes a PURGING channel OPEN, with PURGE_DONE for the purging attachment and then ROOM for the producers
that want it, and a CLOSING channel FREE, and its entry leaves the work queue (R43). A step that the work queue gives
no ground for has no effect (log 4). (An unlisted record has no expiry due: the model's own field, log 5; a step
lowers the engine's gap: log 26.) -/
def Obligations.ReclaimStepsDoTheirWork : Prop :=
  (∀ (s : State) (e : WorkEntry) (q : List WorkEntry) (r : RecId) (rest : List RecId), s.lawful → s.reclaim = e :: q →
    (s.chan e.channel).list = r :: rest →
    ∃ t, exec .recordStep s = .next t ∧
      (if (s.msg r).holders = [] then t.msg r = MsgRecord.free
      else t.msg r = { s.msg r with state := .unlisted, pending := [], expiring := false, receipted := true,
                                    wantsReceipt := false }) ∧
      (t.chan e.channel).list = rest ∧ (t.chan e.channel).state = (s.chan e.channel).state ∧ t.reclaim = s.reclaim ∧
      t.counter e.channel .discarded = s.counter e.channel .discarded + 1 ∧
      s.otherCounters e.channel [.discarded] t ∧ s.oneReceipt t e.channel .discarded 0 r ∧
      s.reservationsReturn t [r] ∧ s.cellsReturn t (if (s.msg r).holders = [] then [r] else []) ∧
      s.restOfRecords r t ∧ s.restOfChannels e.channel t ∧ s.listAndStats e.channel t ∧ s.handsSame t ∧
      s.sessionsSame t ∧ (∀ a, t.att a = s.att a) ∧
      (∀ p, (t.port p).events = queued (s.port p).events (s.wrapEvents e.channel .discarded 1 p)) ∧ s.clockStep t) ∧
  (∀ (s : State) (e : WorkEntry) (q : List WorkEntry), s.lawful → s.reclaim = e :: q → (s.chan e.channel).list = [] →
    (s.chan e.channel).state = .purging →
    ∃ t, exec .completionStep s = .next t ∧ t.reclaim = q ∧
      t.chan e.channel = { s.chan e.channel with state := .opened, purger := none } ∧
      s.restOfChannels e.channel t ∧ t.records = s.records ∧ s.cellsReturn t [] ∧ s.reservationsReturn t [] ∧
      s.clockStep t ∧ (∀ p, (t.port p).receipts = (s.port p).receipts) ∧ s.handsSame t ∧ s.sessionsSame t ∧
      (∀ a : AttRef, t.att a =
        (s.att a).map (fun u => u.afterRoom (decide (t.occupancy e.channel ≤ (s.chan e.channel).roomMark)) e.channel)) ∧
      ∀ p, (t.port p).events = queued (s.port p).events
          ((match (s.chan e.channel).purger with
            | some a => if a.port = p then
                [⟨.purgeDone, (s.chan e.channel).name, some a.handle, none, none, some (e.count.getD 0)⟩] else []
            | none => []) ++
            s.roomEvents (decide (t.occupancy e.channel ≤ (s.chan e.channel).roomMark)) e.channel p)) ∧
  (∀ (s : State) (e : WorkEntry) (q : List WorkEntry), s.lawful → s.reclaim = e :: q →
    (s.chan e.channel).list = [] → (s.chan e.channel).state = .closing →
    ∃ t, exec .completionStep s = .next t ∧ t.reclaim = q ∧ t.chan e.channel = Channel.free ∧
      s.restOfChannels e.channel t ∧ t.records = s.records ∧ t.cells = s.cells ∧ t.ports = s.ports ∧ s.clockStep t) ∧
  (∀ s : State, (s.reclaim = [] ∨ ∃ e ∈ s.reclaim.head?, (s.chan e.channel).list = []) → exec .recordStep s = .next s) ∧
  (∀ s : State, (s.reclaim = [] ∨ ∃ e ∈ s.reclaim.head?, (s.chan e.channel).list ≠ []) → exec .completionStep s = .next s)

/-- The reclaim engine drains its work queue (R44): record steps and completion steps one after another, at most one for
each record of the queued channels' lists and one for each channel, leave it empty. (What the part does between them when
it is left to itself is said by `ExpiriesComeAtTheirBoundary`.) -/
def Obligations.ReclaimEngineDrains : Prop :=
  ∀ s : State, ∃ (steps : List Instr) (t : State),
    steps.length ≤ s.reclaimWork ∧ (∀ i ∈ steps, i = .recordStep ∨ i = .completionStep) ∧
      Host.Core.run Sys2Proof.core steps.length { s with pending := steps } = .next t ∧ t.reclaim = [] ∧ t.pending = []

/-! ## Invariants -/

/-- The laws hold right after reset. -/
def Obligations.ResetMeetsEveryLaw : Prop :=
  State.reset.canonical ∧ State.reset.ranged ∧ State.reset.cellsAgree ∧ State.reset.sharedBounded ∧
    State.reset.handsAgree ∧ State.reset.receiptsBounded ∧ State.reset.eventsFormed ∧ State.reset.namesDiffer ∧
    State.reset.countsBounded ∧ State.reset.unsyncedEmpty ∧ State.reset.lawful

/-- The form of the state is kept by every step: canonical tables (the model's own form, log 15), fields in their ranges,
no name twice (Law 7), no count above its limit (Law 11). -/
def Obligations.FormOfTheStateIsKept : Prop :=
  ∀ s t : State, step s = .next t →
    (s.canonical → t.canonical) ∧ (s.ranged → t.ranged) ∧ (s.namesDiffer → t.namesDiffer) ∧
      (s.countsBounded → t.countsBounded)

/-- Law 1 and Law 2 are kept by every step: no cell is lost or shared, charges are the cells in use, and the free cells
with the charges make 1024. -/
def Obligations.CellsAreNeitherLostNorShared : Prop :=
  ∀ s : State,
    (s.cellsAgree → s.freeCells.length + ((List.finRange 4).map (fun p => (s.port p).charge)).sum = 1024) ∧
    ∀ t : State, step s = .next t → (s.cellsAgree → t.cellsAgree) ∧ (s.sharedBounded → t.sharedBounded)

/-- Law 5 is kept by every step: receipts and reservations of a port never exceed 16, and every reservation is owed by a
live record. -/
def Obligations.ReceiptRoomIsKept : Prop :=
  ∀ s t : State, s.receiptsBounded → step s = .next t → t.receiptsBounded

/-- Law 6 is kept by every step: at most 32 events, at most one of them OVERFLOW, and that one last. -/
def Obligations.EventQueuesStayFormed : Prop := ∀ s t : State, s.eventsFormed → step s = .next t → t.eventsFormed

/-- Law 12 is kept by every step: an UNSYNCED port has nothing of a session. -/
def Obligations.UnsyncedPortsStayEmpty : Prop := ∀ s t : State, s.unsyncedEmpty → step s = .next t → t.unsyncedEmpty

/-- Laws 9 and 10 are kept by every step: attachments belong to channels in use, waiters to parked takes, and in an OPEN,
unheld POINT channel nobody waits while a message is queued. -/
def Obligations.NobodyWaitsWhileMessagesAreQueued : Prop :=
  ∀ s t : State, s.channelsAgree → step s = .next t → t.channelsAgree

/-- Law 4 and the work queue are kept by every step. -/
def Obligations.HandsAndWorkQueueAgree : Prop :=
  ∀ s t : State, step s = .next t →
    (s.handsAgree → t.handsAgree) ∧ (s.reclaimAgrees → t.reclaimAgrees)

/-- Laws 3, 4, 8, 9 and 10 are kept by every step: every message stands in exactly the place its state says, its holders
and pending subscribers are SUBSCRIBER attachments of its channel (CONSUMER for a POINT message in hand), and no channel
exceeds its depth limit; and a FREE channel record holds the FREE values (R3, R26). -/
def Obligations.LawfulIsKept : Prop := ∀ s t : State, s.lawful → step s = .next t → t.lawful
end

