-- ==== Sys2Proof/Laws/Table.lean ====
section
/-! SUPPORT. Laws of tables: read after write, and every table operation keeps the canonical form. -/

namespace Sys2Proof.Machine

variable {α : Type}

@[simp] theorem Table.get_nil (d : α) (k : Nat) : Table.get d [] k = d := rfl

theorem Table.get_erase (d : α) (t : List (Nat × α)) (k j : Nat) :
    Table.get d (Table.erase t k) j = if j = k then d else Table.get d t j := by
  induction t with
  | nil => simp [Table.erase]
  | cons e rest ih =>
    obtain ⟨i, v⟩ := e
    unfold Table.erase at ih ⊢
    by_cases hi : i = k
    · subst hi
      simp only [List.filter_cons, bne_self_eq_false, Bool.false_eq_true, if_false, ih, Table.get]
      by_cases hj : j = i
      · simp [hj]
      · simp [hj, Ne.symm hj]
    · have : (i != k) = true := by simpa using hi
      simp only [List.filter_cons, this, if_true, Table.get, ih]
      by_cases hij : i = j
      · subst hij; simp [hi]
      · simp [hij]

theorem Table.get_insert (d : α) (k : Nat) (v : α) (t : List (Nat × α)) (h : ∀ e ∈ t, e.1 ≠ k) (j : Nat) :
    Table.get d (Table.insert k v t) j = if j = k then v else Table.get d t j := by
  induction t with
  | nil =>
    by_cases hj : j = k
    · simp [Table.insert, Table.get, hj]
    · simp [Table.insert, Table.get, hj, Ne.symm hj]
  | cons e rest ih =>
    obtain ⟨i, w⟩ := e
    have hi : i ≠ k := h (i, w) (by simp)
    have ih := ih (fun e he => h e (List.mem_cons_of_mem _ he))
    by_cases hk : k < i
    · by_cases hj : j = k
      · simp [Table.insert, hk, Table.get, hj]
      · simp [Table.insert, hk, Table.get, hj, Ne.symm hj]
    · by_cases hij : i = j
      · subst hij; simp [Table.insert, hk, Table.get, hi]
      · simp [Table.insert, hk, Table.get, hij, ih]

theorem Table.not_mem_erase (t : List (Nat × α)) (k : Nat) : ∀ e ∈ Table.erase t k, e.1 ≠ k := by
  intro e he
  simpa [Table.erase] using (List.mem_filter.mp he).2

/-- Read after write. -/
theorem Table.get_put [DecidableEq α] (d : α) (t : List (Nat × α)) (k : Nat) (v : α) (j : Nat) :
    Table.get d (Table.put d t k v) j = if j = k then v else Table.get d t j := by
  unfold Table.put
  by_cases hv : v = d
  · subst hv; simp [Table.get_erase]
  · rw [if_neg hv, Table.get_insert _ _ _ _ (Table.not_mem_erase t k), Table.get_erase]
    by_cases hj : j = k <;> simp [hj]

theorem Table.get_mapAll (d : α) (f : α → α) (hf : f d = d) (t : List (Nat × α)) (k : Nat) :
    Table.get d (Table.mapAll f t) k = f (Table.get d t k) := by
  induction t with
  | nil => simp [Table.mapAll, hf]
  | cons e rest ih =>
    obtain ⟨i, v⟩ := e
    unfold Table.mapAll at ih ⊢
    by_cases hi : i = k <;> simp [Table.get, hi, ih]

/-- Rising numbers, as a relation between any two entries. -/
theorem Table.rising_iff (t : List (Nat × α)) :
    Table.rising t = true ↔ t.Pairwise (fun a b => a.1 < b.1) := by
  induction t with
  | nil => simp [Table.rising]
  | cons a rest ih =>
    cases rest with
    | nil => simp [Table.rising]
    | cons b rest =>
      simp only [Table.rising, Bool.and_eq_true, decide_eq_true_eq, ih, List.pairwise_cons, List.mem_cons,
        forall_eq_or_imp]
      constructor
      · rintro ⟨hab, hb, hr⟩
        exact ⟨⟨hab, fun e he => lt_trans hab (hb e he)⟩, hb, hr⟩
      · rintro ⟨⟨hab, _⟩, hb, hr⟩
        exact ⟨hab, hb, hr⟩

theorem Table.wf_iff [DecidableEq α] (d : α) (n : Nat) (t : List (Nat × α)) :
    Table.wf d n t = true ↔ t.Pairwise (fun a b => a.1 < b.1) ∧ ∀ e ∈ t, e.1 < n ∧ e.2 ≠ d := by
  simp [Table.wf, Table.rising_iff]

theorem Table.wf_nil [DecidableEq α] (d : α) (n : Nat) : Table.wf d n [] = true := by simp [Table.wf, Table.rising]

theorem Table.wf_filter [DecidableEq α] {d : α} {n : Nat} {t : List (Nat × α)} (h : Table.wf d n t = true)
    (f : Nat × α → Bool) : Table.wf d n (t.filter f) = true := by
  rw [Table.wf_iff] at h ⊢
  exact ⟨h.1.filter f, fun e he => h.2 e (List.mem_filter.mp he).1⟩

theorem Table.mem_insert (k : Nat) (v : α) (t : List (Nat × α)) (e : Nat × α) :
    e ∈ Table.insert k v t ↔ e = (k, v) ∨ e ∈ t := by
  induction t with
  | nil => simp [Table.insert]
  | cons b rest ih =>
    obtain ⟨i, w⟩ := b
    by_cases hk : k < i
    · simp [Table.insert, hk]
    · simp only [Table.insert, hk, if_false, List.mem_cons, ih]; tauto

theorem Table.pairwise_insert (k : Nat) (v : α) (t : List (Nat × α)) (h : t.Pairwise (fun a b => a.1 < b.1))
    (hk : ∀ e ∈ t, e.1 ≠ k) : (Table.insert k v t).Pairwise (fun a b => a.1 < b.1) := by
  induction t with
  | nil => simp [Table.insert]
  | cons b rest ih =>
    obtain ⟨i, w⟩ := b
    have hi : i ≠ k := hk (i, w) (by simp)
    rw [List.pairwise_cons] at h
    by_cases hlt : k < i
    · simp only [Table.insert, hlt, if_true, List.pairwise_cons, List.mem_cons, forall_eq_or_imp]
      exact ⟨⟨trivial, fun e he => lt_trans hlt (h.1 e he)⟩, h.1, h.2⟩
    · simp only [Table.insert, hlt, if_false, List.pairwise_cons]
      refine ⟨?_, ih h.2 (fun e he => hk e (List.mem_cons_of_mem _ he))⟩
      intro e he
      rcases (Table.mem_insert k v rest e).mp he with rfl | he
      · show i < k
        omega
      · exact h.1 e he

/-- A write keeps the canonical form. -/
theorem Table.wf_put [DecidableEq α] {d : α} {n : Nat} {t : List (Nat × α)} (h : Table.wf d n t = true) {k : Nat}
    (hk : k < n) (v : α) : Table.wf d n (Table.put d t k v) = true := by
  unfold Table.put
  by_cases hv : v = d
  · rw [if_pos hv]; exact Table.wf_filter h _
  · rw [if_neg hv]
    have he := Table.wf_filter h (fun e => e.1 != k)
    rw [Table.wf_iff] at he ⊢
    refine ⟨Table.pairwise_insert k v _ he.1 (Table.not_mem_erase t k), ?_⟩
    intro e hm
    rcases (Table.mem_insert k v _ e).mp hm with rfl | hm
    · exact ⟨hk, hv⟩
    · exact he.2 e hm

/-- Changing every entry keeps the canonical form where no entry becomes what an unlisted number stands for. -/
theorem Table.wf_mapAll [DecidableEq α] {d : α} {n : Nat} {t : List (Nat × α)} (h : Table.wf d n t = true) (f : α → α)
    (hf : ∀ v, v ≠ d → f v ≠ d) : Table.wf d n (Table.mapAll f t) = true := by
  rw [Table.wf_iff] at h ⊢
  refine ⟨?_, ?_⟩
  · exact List.pairwise_map.mpr h.1
  · intro e he
    obtain ⟨b, hb, rfl⟩ := List.mem_map.mp he
    exact ⟨(h.2 b hb).1, hf _ (h.2 b hb).2⟩

/-! ## Sets of attachments -/

theorem mem_insertRef (a b : AttRef) (l : List AttRef) : b ∈ insertRef a l ↔ b = a ∨ b ∈ l := by
  induction l with
  | nil => simp [insertRef]
  | cons c rest ih =>
    by_cases hc : a = c
    · subst hc; simp [insertRef]
    · by_cases hr : a.rank < c.rank
      · simp [insertRef, hc, hr]
      · simp only [insertRef, hc, hr, if_false, List.mem_cons, ih]; tauto

theorem mem_eraseRef (a b : AttRef) (l : List AttRef) : b ∈ eraseRef a l ↔ b ∈ l ∧ b ≠ a := by
  simp [eraseRef, and_comm]

theorem mem_allRefs (a : AttRef) : a ∈ allRefs := by
  obtain ⟨p, h⟩ := a
  simp [allRefs]

end Sys2Proof.Machine
end

