-- ==== Sys2Proof/Laws/State.lean ====
section
/-! SUPPORT. What each update of the state leaves in each field, so that no proof unfolds a record update. -/

namespace Sys2Proof.Machine

variable (s : State)

/-! ## The fields that an update does not write -/

@[simp] theorem channels_modPort (p : Port) (f : PortState → PortState) : (s.modPort p f).channels = s.channels := rfl
@[simp] theorem records_modPort (p : Port) (f : PortState → PortState) : (s.modPort p f).records = s.records := rfl
@[simp] theorem cells_modPort (p : Port) (f : PortState → PortState) : (s.modPort p f).cells = s.cells := rfl
@[simp] theorem reclaim_modPort (p : Port) (f : PortState → PortState) : (s.modPort p f).reclaim = s.reclaim := rfl
@[simp] theorem tickPhase_modPort (p : Port) (f : PortState → PortState) : (s.modPort p f).tickPhase = s.tickPhase := rfl
@[simp] theorem engineGap_modPort (p : Port) (f : PortState → PortState) : (s.modPort p f).engineGap = s.engineGap := rfl
@[simp] theorem draws_modPort (p : Port) (f : PortState → PortState) : (s.modPort p f).draws = s.draws := rfl
@[simp] theorem pending_modPort (p : Port) (f : PortState → PortState) : (s.modPort p f).pending = s.pending := rfl

@[simp] theorem records_modChan (c : ChanId) (f : Channel → Channel) : (s.modChan c f).records = s.records := rfl
@[simp] theorem cells_modChan (c : ChanId) (f : Channel → Channel) : (s.modChan c f).cells = s.cells := rfl
@[simp] theorem reclaim_modChan (c : ChanId) (f : Channel → Channel) : (s.modChan c f).reclaim = s.reclaim := rfl
@[simp] theorem tickPhase_modChan (c : ChanId) (f : Channel → Channel) : (s.modChan c f).tickPhase = s.tickPhase := rfl
@[simp] theorem engineGap_modChan (c : ChanId) (f : Channel → Channel) : (s.modChan c f).engineGap = s.engineGap := rfl
@[simp] theorem draws_modChan (c : ChanId) (f : Channel → Channel) : (s.modChan c f).draws = s.draws := rfl
@[simp] theorem pending_modChan (c : ChanId) (f : Channel → Channel) : (s.modChan c f).pending = s.pending := rfl
@[simp] theorem ports_modChan (c : ChanId) (f : Channel → Channel) : (s.modChan c f).ports = s.ports := rfl

@[simp] theorem channels_modMsg (r : RecId) (f : MsgRecord → MsgRecord) : (s.modMsg r f).channels = s.channels := rfl
@[simp] theorem cells_modMsg (r : RecId) (f : MsgRecord → MsgRecord) : (s.modMsg r f).cells = s.cells := rfl
@[simp] theorem reclaim_modMsg (r : RecId) (f : MsgRecord → MsgRecord) : (s.modMsg r f).reclaim = s.reclaim := rfl
@[simp] theorem tickPhase_modMsg (r : RecId) (f : MsgRecord → MsgRecord) : (s.modMsg r f).tickPhase = s.tickPhase := rfl
@[simp] theorem engineGap_modMsg (r : RecId) (f : MsgRecord → MsgRecord) : (s.modMsg r f).engineGap = s.engineGap := rfl
@[simp] theorem draws_modMsg (r : RecId) (f : MsgRecord → MsgRecord) : (s.modMsg r f).draws = s.draws := rfl
@[simp] theorem pending_modMsg (r : RecId) (f : MsgRecord → MsgRecord) : (s.modMsg r f).pending = s.pending := rfl
@[simp] theorem ports_modMsg (r : RecId) (f : MsgRecord → MsgRecord) : (s.modMsg r f).ports = s.ports := rfl

@[simp] theorem channels_setAtt (a : AttRef) (x : Option Attachment) : (s.setAtt a x).channels = s.channels := rfl
@[simp] theorem records_setAtt (a : AttRef) (x : Option Attachment) : (s.setAtt a x).records = s.records := rfl
@[simp] theorem cells_setAtt (a : AttRef) (x : Option Attachment) : (s.setAtt a x).cells = s.cells := rfl
@[simp] theorem reclaim_setAtt (a : AttRef) (x : Option Attachment) : (s.setAtt a x).reclaim = s.reclaim := rfl
@[simp] theorem tickPhase_setAtt (a : AttRef) (x : Option Attachment) : (s.setAtt a x).tickPhase = s.tickPhase := rfl
@[simp] theorem engineGap_setAtt (a : AttRef) (x : Option Attachment) : (s.setAtt a x).engineGap = s.engineGap := rfl
@[simp] theorem draws_setAtt (a : AttRef) (x : Option Attachment) : (s.setAtt a x).draws = s.draws := rfl
@[simp] theorem pending_setAtt (a : AttRef) (x : Option Attachment) : (s.setAtt a x).pending = s.pending := rfl

@[simp] theorem channels_modAtt (a : AttRef) (f : Attachment → Attachment) : (s.modAtt a f).channels = s.channels := rfl
@[simp] theorem records_modAtt (a : AttRef) (f : Attachment → Attachment) : (s.modAtt a f).records = s.records := rfl
@[simp] theorem cells_modAtt (a : AttRef) (f : Attachment → Attachment) : (s.modAtt a f).cells = s.cells := rfl
@[simp] theorem reclaim_modAtt (a : AttRef) (f : Attachment → Attachment) : (s.modAtt a f).reclaim = s.reclaim := rfl
@[simp] theorem tickPhase_modAtt (a : AttRef) (f : Attachment → Attachment) : (s.modAtt a f).tickPhase = s.tickPhase := rfl
@[simp] theorem engineGap_modAtt (a : AttRef) (f : Attachment → Attachment) : (s.modAtt a f).engineGap = s.engineGap := rfl
@[simp] theorem draws_modAtt (a : AttRef) (f : Attachment → Attachment) : (s.modAtt a f).draws = s.draws := rfl
@[simp] theorem pending_modAtt (a : AttRef) (f : Attachment → Attachment) : (s.modAtt a f).pending = s.pending := rfl

@[simp] theorem channels_setSlot (p : Port) (i : Slot) (x : HandSlot) : (s.setSlot p i x).channels = s.channels := rfl
@[simp] theorem records_setSlot (p : Port) (i : Slot) (x : HandSlot) : (s.setSlot p i x).records = s.records := rfl
@[simp] theorem cells_setSlot (p : Port) (i : Slot) (x : HandSlot) : (s.setSlot p i x).cells = s.cells := rfl
@[simp] theorem reclaim_setSlot (p : Port) (i : Slot) (x : HandSlot) : (s.setSlot p i x).reclaim = s.reclaim := rfl
@[simp] theorem tickPhase_setSlot (p : Port) (i : Slot) (x : HandSlot) : (s.setSlot p i x).tickPhase = s.tickPhase := rfl
@[simp] theorem engineGap_setSlot (p : Port) (i : Slot) (x : HandSlot) : (s.setSlot p i x).engineGap = s.engineGap := rfl
@[simp] theorem draws_setSlot (p : Port) (i : Slot) (x : HandSlot) : (s.setSlot p i x).draws = s.draws := rfl
@[simp] theorem pending_setSlot (p : Port) (i : Slot) (x : HandSlot) : (s.setSlot p i x).pending = s.pending := rfl

/-! ## Ports -/

@[simp] theorem port_modPort_self (p : Port) (f : PortState → PortState) : (s.modPort p f).port p = f (s.port p) := by
  simp [State.port, State.modPort]

theorem port_modPort (p : Port) (f : PortState → PortState) (q : Port) :
    (s.modPort p f).port q = if q = p then f (s.port p) else s.port q := by
  by_cases h : q = p
  · subst h; simp
  · have h' : p.val ≠ q.val := fun e => h (Fin.ext e.symm)
    simp [State.port, State.modPort, h, Vector.getElem_set_ne, h']

@[simp] theorem port_modPort_of_ne {p q : Port} (h : q ≠ p) (f : PortState → PortState) :
    (s.modPort p f).port q = s.port q := by simp [port_modPort, h]

@[simp] theorem port_modChan (c : ChanId) (f : Channel → Channel) (q : Port) : (s.modChan c f).port q = s.port q := rfl
@[simp] theorem port_modMsg (r : RecId) (f : MsgRecord → MsgRecord) (q : Port) : (s.modMsg r f).port q = s.port q := rfl

/-! ## Channels -/

theorem chan_modChan (c : ChanId) (f : Channel → Channel) (d : ChanId) :
    (s.modChan c f).chan d = if d = c then f (s.chan c) else s.chan d := by
  simp [State.chan, State.modChan, Table.get_put, Fin.ext_iff]

@[simp] theorem chan_modChan_self (c : ChanId) (f : Channel → Channel) : (s.modChan c f).chan c = f (s.chan c) := by
  simp [chan_modChan]

@[simp] theorem chan_modChan_of_ne {c d : ChanId} (h : d ≠ c) (f : Channel → Channel) :
    (s.modChan c f).chan d = s.chan d := by simp [chan_modChan, h]

@[simp] theorem chan_modPort (p : Port) (f : PortState → PortState) (c : ChanId) : (s.modPort p f).chan c = s.chan c := rfl
@[simp] theorem chan_modMsg (r : RecId) (f : MsgRecord → MsgRecord) (c : ChanId) : (s.modMsg r f).chan c = s.chan c := rfl
@[simp] theorem chan_setAtt (a : AttRef) (x : Option Attachment) (c : ChanId) : (s.setAtt a x).chan c = s.chan c := rfl
@[simp] theorem chan_modAtt (a : AttRef) (f : Attachment → Attachment) (c : ChanId) : (s.modAtt a f).chan c = s.chan c := rfl
@[simp] theorem chan_setSlot (p : Port) (i : Slot) (x : HandSlot) (c : ChanId) : (s.setSlot p i x).chan c = s.chan c := rfl

/-! ## Message records -/

theorem msg_modMsg (r : RecId) (f : MsgRecord → MsgRecord) (q : RecId) :
    (s.modMsg r f).msg q = if q = r then f (s.msg r) else s.msg q := by
  simp [State.msg, State.modMsg, Table.get_put, Fin.ext_iff]

@[simp] theorem msg_modMsg_self (r : RecId) (f : MsgRecord → MsgRecord) : (s.modMsg r f).msg r = f (s.msg r) := by
  simp [msg_modMsg]

@[simp] theorem msg_modMsg_of_ne {r q : RecId} (h : q ≠ r) (f : MsgRecord → MsgRecord) :
    (s.modMsg r f).msg q = s.msg q := by simp [msg_modMsg, h]

@[simp] theorem msg_modPort (p : Port) (f : PortState → PortState) (r : RecId) : (s.modPort p f).msg r = s.msg r := rfl
@[simp] theorem msg_modChan (c : ChanId) (f : Channel → Channel) (r : RecId) : (s.modChan c f).msg r = s.msg r := rfl
@[simp] theorem msg_setAtt (a : AttRef) (x : Option Attachment) (r : RecId) : (s.setAtt a x).msg r = s.msg r := rfl
@[simp] theorem msg_modAtt (a : AttRef) (f : Attachment → Attachment) (r : RecId) : (s.modAtt a f).msg r = s.msg r := rfl
@[simp] theorem msg_setSlot (p : Port) (i : Slot) (x : HandSlot) (r : RecId) : (s.setSlot p i x).msg r = s.msg r := rfl
@[simp] theorem cell_modPort (p : Port) (f : PortState → PortState) (k : CellId) : (s.modPort p f).cell k = s.cell k := rfl
@[simp] theorem cell_modChan (c : ChanId) (f : Channel → Channel) (k : CellId) : (s.modChan c f).cell k = s.cell k := rfl
@[simp] theorem cell_modMsg (r : RecId) (f : MsgRecord → MsgRecord) (k : CellId) : (s.modMsg r f).cell k = s.cell k := rfl
@[simp] theorem cell_setAtt (a : AttRef) (x : Option Attachment) (k : CellId) : (s.setAtt a x).cell k = s.cell k := rfl
@[simp] theorem cell_modAtt (a : AttRef) (f : Attachment → Attachment) (k : CellId) : (s.modAtt a f).cell k = s.cell k := rfl
@[simp] theorem cell_setSlot (p : Port) (i : Slot) (x : HandSlot) (k : CellId) : (s.setSlot p i x).cell k = s.cell k := rfl

/-! ## Attachments and hand slots -/

@[simp] theorem att_modChan (c : ChanId) (f : Channel → Channel) (a : AttRef) : (s.modChan c f).att a = s.att a := rfl
@[simp] theorem slot_modChan (c : ChanId) (f : Channel → Channel) (p : Port) (i : Slot) : (s.modChan c f).slot p i = s.slot p i := rfl
@[simp] theorem att_modMsg (r : RecId) (f : MsgRecord → MsgRecord) (a : AttRef) : (s.modMsg r f).att a = s.att a := rfl
@[simp] theorem slot_modMsg (r : RecId) (f : MsgRecord → MsgRecord) (p : Port) (i : Slot) : (s.modMsg r f).slot p i = s.slot p i := rfl

theorem att_modPort (p : Port) (f : PortState → PortState) (a : AttRef) :
    (s.modPort p f).att a = if a.port = p then (f (s.port p)).attachments[a.handle] else s.att a := by
  by_cases h : a.port = p
  · simp [State.att, h]
  · simp [State.att, h]

theorem slot_modPort (p : Port) (f : PortState → PortState) (q : Port) (i : Slot) :
    (s.modPort p f).slot q i = if q = p then (f (s.port p)).slots[i] else s.slot q i := by
  by_cases h : q = p
  · simp [State.slot, h]
  · simp [State.slot, h]

/-- What a write of an attachment record leaves at every attachment. -/
theorem att_setAtt (a : AttRef) (x : Option Attachment) (b : AttRef) :
    (s.setAtt a x).att b = if b = a then x else s.att b := by
  obtain ⟨p, h⟩ := a
  obtain ⟨q, k⟩ := b
  rw [State.setAtt, att_modPort]
  by_cases hp : q = p
  · subst hp
    by_cases hk : k = h
    · subst hk; simp
    · have hk' : h.val ≠ k.val := fun e => hk (Fin.ext e.symm)
      simp [hk, hk', State.att, Vector.getElem_set_ne]
  · simp [hp]

@[simp] theorem att_setAtt_self (a : AttRef) (x : Option Attachment) : (s.setAtt a x).att a = x := by simp [att_setAtt]

theorem att_modAtt (a : AttRef) (f : Attachment → Attachment) (b : AttRef) :
    (s.modAtt a f).att b = if b = a then (s.att a).map f else s.att b := att_setAtt s a _ b

/-- What a write of a hand slot leaves in every slot. -/
theorem slot_setSlot (p : Port) (i : Slot) (x : HandSlot) (q : Port) (j : Slot) :
    (s.setSlot p i x).slot q j = if q = p ∧ j = i then x else s.slot q j := by
  rw [State.setSlot, slot_modPort]
  by_cases hq : q = p
  · subst hq
    by_cases hj : j = i
    · subst hj; simp
    · have hj' : i.val ≠ j.val := fun e => hj (Fin.ext e.symm)
      simp [hj, hj', State.slot, Vector.getElem_set_ne]
  · simp [hq]

@[simp] theorem slot_setSlot_self (p : Port) (i : Slot) (x : HandSlot) : (s.setSlot p i x).slot p i = x := by
  simp [slot_setSlot]

@[simp] theorem att_setSlot (p : Port) (i : Slot) (x : HandSlot) (a : AttRef) : (s.setSlot p i x).att a = s.att a := by
  rw [State.setSlot, att_modPort]
  by_cases h : a.port = p
  · subst h; simp [State.att]
  · simp [h]

@[simp] theorem slot_setAtt (a : AttRef) (x : Option Attachment) (p : Port) (i : Slot) :
    (s.setAtt a x).slot p i = s.slot p i := by
  rw [State.setAtt, slot_modPort]
  by_cases h : p = a.port
  · subst h; simp [State.slot]
  · simp [h]

@[simp] theorem slot_modAtt (a : AttRef) (f : Attachment → Attachment) (p : Port) (i : Slot) :
    (s.modAtt a f).slot p i = s.slot p i := slot_setAtt s a _ p i

/-- A port after a write of a hand slot: only its slots differ. -/
theorem port_setSlot (p : Port) (i : Slot) (x : HandSlot) (q : Port) :
    (s.setSlot p i x).port q = if q = p then { s.port p with slots := (s.port p).slots.set i x } else s.port q :=
  port_modPort s p _ q

/-- A port after a write of an attachment: only its attachments differ. -/
theorem port_setAtt (a : AttRef) (x : Option Attachment) (q : Port) :
    (s.setAtt a x).port q =
      if q = a.port then { s.port a.port with attachments := (s.port a.port).attachments.set a.handle x }
      else s.port q := port_modPort s a.port _ q

/-! ## The state after reset -/

@[simp] theorem port_reset (p : Port) : State.reset.port p = PortState.reset := by
  simp [State.port, State.reset]

@[simp] theorem chan_reset (c : ChanId) : State.reset.chan c = Channel.free := rfl
@[simp] theorem msg_reset (r : RecId) : State.reset.msg r = MsgRecord.free := rfl

@[simp] theorem att_reset (a : AttRef) : State.reset.att a = none := by
  simp [State.att, PortState.reset]

@[simp] theorem slot_reset (p : Port) (i : Slot) : State.reset.slot p i = .empty := by
  simp [State.slot, PortState.reset]

/-! ## The whole-state forms of field updates that the operations use -/

@[simp] theorem port_mk_cells (x : List (CellId × List Byte)) (p : Port) : ({ s with cells := x }).port p = s.port p := rfl
@[simp] theorem chan_mk_cells (x : List (CellId × List Byte)) (c : ChanId) : ({ s with cells := x }).chan c = s.chan c := rfl
@[simp] theorem msg_mk_cells (x : List (CellId × List Byte)) (r : RecId) : ({ s with cells := x }).msg r = s.msg r := rfl
@[simp] theorem port_mk_reclaim (x : List WorkEntry) (p : Port) : ({ s with reclaim := x }).port p = s.port p := rfl
@[simp] theorem chan_mk_reclaim (x : List WorkEntry) (c : ChanId) : ({ s with reclaim := x }).chan c = s.chan c := rfl
@[simp] theorem msg_mk_reclaim (x : List WorkEntry) (r : RecId) : ({ s with reclaim := x }).msg r = s.msg r := rfl
@[simp] theorem port_mk_engineGap (x : Nat) (p : Port) : ({ s with engineGap := x }).port p = s.port p := rfl
@[simp] theorem chan_mk_engineGap (x : Nat) (c : ChanId) : ({ s with engineGap := x }).chan c = s.chan c := rfl
@[simp] theorem msg_mk_engineGap (x : Nat) (r : RecId) : ({ s with engineGap := x }).msg r = s.msg r := rfl
@[simp] theorem port_mk_records (x : List (Nat × MsgRecord)) (p : Port) : ({ s with records := x }).port p = s.port p := rfl
@[simp] theorem chan_mk_records (x : List (Nat × MsgRecord)) (c : ChanId) : ({ s with records := x }).chan c = s.chan c := rfl
@[simp] theorem port_mk_draws (x : Nat) (p : Port) : ({ s with draws := x }).port p = s.port p := rfl
@[simp] theorem chan_mk_draws (x : Nat) (c : ChanId) : ({ s with draws := x }).chan c = s.chan c := rfl
@[simp] theorem msg_mk_draws (x : Nat) (r : RecId) : ({ s with draws := x }).msg r = s.msg r := rfl
@[simp] theorem port_mk_pending (x : List Instr) (p : Port) : ({ s with pending := x }).port p = s.port p := rfl
@[simp] theorem chan_mk_pending (x : List Instr) (c : ChanId) : ({ s with pending := x }).chan c = s.chan c := rfl
@[simp] theorem msg_mk_pending (x : List Instr) (r : RecId) : ({ s with pending := x }).msg r = s.msg r := rfl

end Sys2Proof.Machine
end

