-- ==== Sys2Proof/Laws/Cells.lean ====
section
/-! SUPPORT. The cell pool: every operation that writes or frees cells keeps the canonical form of their table (log 15), and
a written payload is read back byte for byte (R34). -/

namespace Sys2Proof.Machine

/-- The canonical form of the cell table. -/
abbrev State.cellsWf (s : State) : Prop := Table.wf ([] : List Byte) Config.cellCount s.cells = true

/-- A free cell is a cell of the pool that the table does not list (R33). -/
theorem mem_freeCells (s : State) (k : CellId) :
    k ∈ s.freeCells ↔ k < Config.cellCount ∧ ∀ e ∈ s.cells, e.1 ≠ k := by
  simp [State.freeCells]

/-- Writing a payload into cells of the pool keeps the canonical form. -/
theorem writeCells_wf (payload : List Byte) (chain : List CellId) (hc : ∀ k ∈ chain, k < Config.cellCount)
    (cells : List (CellId × List Byte)) (j : Nat) (h : Table.wf [] Config.cellCount cells = true) :
    Table.wf [] Config.cellCount (writeCells cells payload chain j) = true := by
  induction chain generalizing cells j with
  | nil => exact h
  | cons k rest ih =>
    exact ih (fun x hx => hc x (List.mem_cons_of_mem _ hx)) _ _ (Table.wf_put h (hc k List.mem_cons_self) _)

/-- Building a record keeps the canonical form. -/
theorem buildRecord_wf (s : State) (p : Port) (c : ChanId) (g : PostArgs) (r : RecId) (h : s.cellsWf) :
    (buildRecord s p c g r).cellsWf :=
  writeCells_wf _ _ (fun k hk => ((mem_freeCells s k).1 (List.mem_of_mem_take hk)).1) _ _ h

/-- Returning cells keeps the canonical form. -/
theorem returnCells_wf (s : State) (chain : List CellId) (p : Port) (h : s.cellsWf) : (returnCells s chain p).cellsWf :=
  Table.wf_filter h _

/-- Counting an event leaves the cells. -/
@[simp] theorem bump_cells (s : State) (c : ChanId) (k : Counter) : (bump s c k).cells = s.cells := by
  have key : ∀ (refs : List AttRef) (mk : AttRef → Event) (u : State), (notifyEach u refs mk).cells = u.cells := by
    intro refs mk
    induction refs with
    | nil => intro u; rfl
    | cons a rest ih => intro u; exact ih _
  unfold bump
  dsimp only
  split
  · rw [key]; rfl
  · rfl

/-- Issuing an outcome leaves the cells. -/
@[simp] theorem issue_cells (s : State) (c : ChanId) (r : RecId) (o : MsgOutcome) (n : Nat) :
    (issue s c r o n).cells = s.cells := by
  unfold issue
  split
  · rfl
  · unfold queueReceipt
    dsimp only
    split <;> simp

/-- Freeing a record keeps the canonical form. -/
theorem freeRecord_wf (s : State) (c : ChanId) (r : RecId) (o : MsgOutcome) (n : Nat) (h : s.cellsWf) :
    (freeRecord s c r o n).cellsWf := by
  have h' : (leaveList (issue s c r o n) c r).cellsWf := by
    show Table.wf _ _ (issue s c r o n).cells = true
    rw [issue_cells]
    exact h
  exact returnCells_wf _ ((leaveList (issue s c r o n) c r).msg r).chain
    ((leaveList (issue s c r o n) c r).msg r).ticket.source h'

/-- The cells that a write does not name are as before. -/
theorem get_writeCells_of_not_mem (payload : List Byte) (chain : List CellId) (cells : List (CellId × List Byte)) (j : Nat)
    {k : CellId} (hk : k ∉ chain) : Table.get [] (writeCells cells payload chain j) k = Table.get [] cells k := by
  induction chain generalizing cells j with
  | nil => rfl
  | cons a rest ih =>
    simp only [List.mem_cons, not_or] at hk
    rw [writeCells, ih _ _ hk.2, Table.get_put, if_neg hk.1]

/-- The cells of a chain, each named once, hold the parts of the payload in order. -/
theorem get_writeCells (payload : List Byte) (chain : List CellId) (hn : chain.Nodup) (cells : List (CellId × List Byte))
    (j i : Nat) (hi : i < chain.length) :
    Table.get [] (writeCells cells payload chain j) chain[i] = chunk payload (j + i) := by
  induction chain generalizing cells j i with
  | nil => exact absurd hi (by simp)
  | cons a rest ih =>
    have hn' := List.nodup_cons.1 hn
    cases i with
    | zero =>
      rw [writeCells, List.getElem_cons_zero, get_writeCells_of_not_mem _ _ _ _ hn'.1, Table.get_put, if_pos rfl]
      rfl
    | succ i =>
      rw [writeCells, List.getElem_cons_succ, ih hn'.2 _ _ _ (by simpa using hi)]
      congr 1
      omega

/-- The parts of a payload, from part `j` on, are the payload from byte 32 j on (R34). -/
theorem flatMap_chunk (payload : List Byte) (n j : Nat) :
    ((List.range n).map (fun i => chunk payload (j + i))).flatten =
      (payload.drop (Config.cellBytes * j)).take (Config.cellBytes * n) := by
  induction n generalizing j with
  | zero => simp
  | succ n ih =>
    rw [List.range_succ_eq_map, List.map_cons, List.map_map, List.flatten_cons]
    have e : ((fun i => chunk payload (j + i)) ∘ Nat.succ) = fun i => chunk payload (j + 1 + i) := by
      funext i
      simp only [Function.comp, Nat.succ_eq_add_one]
      congr 1
      omega
    rw [e, ih, chunk, Nat.add_zero, Nat.mul_succ, ← List.drop_drop, Nat.mul_succ,
      Nat.add_comm (Config.cellBytes * n), List.take_add]

end Sys2Proof.Machine
end

