-- ==== Sys2Proof/Laws/Commands.lean ====
section
/-! SUPPORT. How a frame reaches its command: what the receiver does, what a taken frame answers, which handle and slot
bytes name what, and when the end of an event checks no room. -/

namespace Sys2Proof.Machine

variable (s : State)

/-! ## The receiver -/

/-- An assertion of CSn writes the receiver's own state at its port, and may draw a choice; nothing else. -/
theorem asserted_eq (l : Link) :
    s.asserted l =
      { s with draws := (s.asserted l).draws }.modPort l.port
        (fun q => { q with deaf := ((s.asserted l).port l.port).deaf }) := by
  have self : ∀ b : Bool, b = (s.port l.port).deaf → s.modPort l.port (fun q => { q with deaf := b }) = s := by
    rintro b rfl
    show ({ s with ports := s.ports.set l.port (s.port l.port) } : State) = s
    simp [State.port]
  unfold State.asserted
  split
  · split
    · exact (self _ rfl).symm
    · simp only [port_modPort_self, draws_modPort]
  · simp only [port_modPort_self, draws_modPort]

@[simp] theorem channels_asserted (l : Link) : (s.asserted l).channels = s.channels := by rw [asserted_eq]; rfl
@[simp] theorem records_asserted (l : Link) : (s.asserted l).records = s.records := by rw [asserted_eq]; rfl
@[simp] theorem cells_asserted (l : Link) : (s.asserted l).cells = s.cells := by rw [asserted_eq]; rfl
@[simp] theorem reclaim_asserted (l : Link) : (s.asserted l).reclaim = s.reclaim := by rw [asserted_eq]; rfl
@[simp] theorem tickPhase_asserted (l : Link) : (s.asserted l).tickPhase = s.tickPhase := by rw [asserted_eq]; rfl
@[simp] theorem engineGap_asserted (l : Link) : (s.asserted l).engineGap = s.engineGap := by rw [asserted_eq]; rfl
@[simp] theorem pending_asserted (l : Link) : (s.asserted l).pending = s.pending := by rw [asserted_eq]; rfl

/-- At its own port an assertion of CSn changes the receiver's own state alone. -/
theorem port_asserted_self (l : Link) :
    (s.asserted l).port l.port = { s.port l.port with deaf := ((s.asserted l).port l.port).deaf } := by
  conv_lhs => rw [asserted_eq]
  simp

theorem port_asserted_of_ne {l : Link} {q : Port} (h : q ≠ l.port) : (s.asserted l).port q = s.port q := by
  rw [asserted_eq, port_modPort_of_ne _ h, port_mk_draws]

@[simp] theorem port_inFlight_self (p : Port) (x : Option Byte) :
    (inFlight s p x).port p = { s.port p with flight := x } := port_modPort_self s p _

theorem port_inFlight_of_ne {p q : Port} (h : q ≠ p) (x : Option Byte) : (inFlight s p x).port q = s.port q :=
  port_modPort_of_ne s h _

/-- What an event of a frame does, by its part. -/
theorem received_whole {l : Link} (h : l.part = .whole) : s.received l = inFlight (s.asserted l) l.port none := by
  simp [State.received, h]

theorem received_begins {l : Link} (h : l.part = .begins) :
    s.received l = inFlight (s.asserted l) l.port (if s.hears l then some (s.statusByte l.port) else none) := by
  simp [State.received, h]

theorem received_ends {l : Link} (h : l.part = .ends) : s.received l = inFlight s l.port none := by
  simp [State.received, h]

/-- The receiver changes no store of the part. -/
@[simp] theorem channels_received (l : Link) : (s.received l).channels = s.channels := by
  unfold State.received; split <;> simp [inFlight]

@[simp] theorem records_received (l : Link) : (s.received l).records = s.records := by
  unfold State.received; split <;> simp [inFlight]

@[simp] theorem cells_received (l : Link) : (s.received l).cells = s.cells := by
  unfold State.received; split <;> simp [inFlight]

@[simp] theorem reclaim_received (l : Link) : (s.received l).reclaim = s.reclaim := by
  unfold State.received; split <;> simp [inFlight]

@[simp] theorem tickPhase_received (l : Link) : (s.received l).tickPhase = s.tickPhase := by
  unfold State.received; split <;> simp [inFlight]

@[simp] theorem engineGap_received (l : Link) : (s.received l).engineGap = s.engineGap := by
  unfold State.received; split <;> simp [inFlight]

@[simp] theorem pending_received (l : Link) : (s.received l).pending = s.pending := by
  unfold State.received; split <;> simp [inFlight]

/-- At its own port the receiver changes its own state alone. -/
theorem port_received_self (l : Link) :
    (s.received l).port l.port = { s.port l.port with
      deaf := ((s.received l).port l.port).deaf, flight := ((s.received l).port l.port).flight } := by
  unfold State.received
  split
  · rw [port_inFlight_self, port_asserted_self]
  · rw [port_inFlight_self, port_asserted_self]
  · rw [port_inFlight_self]

/-- The receiver of one port changes no other port. -/
theorem port_received_of_ne {l : Link} {q : Port} (h : q ≠ l.port) : (s.received l).port q = s.port q := by
  unfold State.received
  split <;> simp [port_inFlight_of_ne _ h, port_asserted_of_ne _ h]

/-- No frame is in flight at a receiver whose frame has ended. -/
theorem flight_received {l : Link} (h : l.part ≠ .begins) : ((s.received l).port l.port).flight = none := by
  unfold State.received
  split
  · simp
  · contradiction
  · simp

/-! ## Frames that are taken, and frames that are ignored -/

theorem takes_whole {l : Link} (h : l.part = .whole) : s.takes l = s.hears l := by simp [State.takes, h]

theorem takes_begins {l : Link} (h : l.part = .begins) : s.takes l = false := by simp [State.takes, h]

theorem takes_ends {l : Link} (h : l.part = .ends) : s.takes l = (s.port l.port).flight.isSome := by
  simp [State.takes, h]

/-- A receiver whose CSn has been high for 1 µs takes the frame (R192). -/
theorem hears_of_not_early {l : Link} (h : l.early = false) : s.hears l = true := by simp [State.hears, h]

theorem overFrame_of_takes {l : Link} {out : List Byte} {body : State → State} (h : s.takes l = true) :
    overFrame l out body s = .next (body (shiftOut (s.received l) l.port out)) := if_pos h

theorem overFrame_of_not_takes {l : Link} {out : List Byte} {body : State → State} (h : s.takes l = false) :
    overFrame l out body s = .next (s.received l) := if_neg (by simp [h])

/-- What a command frame does where it is taken. -/
theorem runCommand_of_takes {i : Instr} {f : CommandFrame} {body : State → Reply} (hf : i.frame = some f)
    (h : s.takes f.link = true) :
    runCommand i body s = .next (takeCommand f body
      (shiftOut (s.received f.link) f.link.port (s.echo f.link (buildFrame f.code f.seq f.args)))) := by
  rw [runCommand, hf]
  exact overFrame_of_takes s h

/-- What an event of a command frame does where no frame is taken. -/
theorem runCommand_of_not_takes {i : Instr} {f : CommandFrame} {body : State → Reply} (hf : i.frame = some f)
    (h : s.takes f.link = false) : runCommand i body s = .next (s.received f.link) := by
  rw [runCommand, hf]
  exact overFrame_of_not_takes s h

/-- A command frame of an allowed length on an ACTIVE port reaches its command. -/
theorem takeCommand_of_active {f : CommandFrame} {body : State → Reply} (hl : checkLength f.code f.args.length = none)
    (ha : (s.port f.link.port).session = .active) :
    takeCommand f body s =
      respond (startEngine s (endOfEvent s (body s).state)) f.link.port f.seq f.code (body s).result (body s).data := by
  simp [takeCommand, hl, ha]

/-- A HELLO of the allowed length reaches its command in both session states. -/
theorem takeCommand_of_hello {f : CommandFrame} {body : State → Reply} (hl : checkLength f.code f.args.length = none)
    (hc : f.code = helloCode) :
    takeCommand f body s =
      respond (startEngine s (endOfEvent s (body s).state)) f.link.port f.seq f.code (body s).result (body s).data := by
  simp only [takeCommand, hl]
  exact if_pos (Or.inr hc)

/-- Any other command on an UNSYNCED port answers NOT_SYNCED. -/
theorem takeCommand_of_unsynced {f : CommandFrame} {body : State → Reply} (hl : checkLength f.code f.args.length = none)
    (hu : (s.port f.link.port).session = .unsynced) (hc : f.code ≠ helloCode) :
    takeCommand f body s = respond s f.link.port f.seq f.code .notSynced [] := by
  simp [takeCommand, hl, hu, hc]

/-! ## The end of an event -/

/-- An event that lowers the occupancy of no OPEN channel runs no ROOM check (R64). -/
theorem endOfEvent_eq_of_not_lower {before after : State}
    (h : ∀ c, (after.chan c).state = .opened → before.occupancy c ≤ after.occupancy c) :
    endOfEvent before after = after := by
  unfold endOfEvent
  have key : ∀ (l : List ChanId), l.foldl (fun s c =>
      if (after.chan c).state == .opened && decide (after.occupancy c < before.occupancy c) then roomCheck s c else s) after
        = after := by
    intro l
    induction l with
    | nil => rfl
    | cons c rest ih =>
      rw [List.foldl_cons, if_neg, ih]
      simp only [Bool.and_eq_true, beq_iff_eq, decide_eq_true_eq, not_and, not_lt]
      exact h c
  exact key _

/-- An event that changes nothing runs no ROOM check. -/
@[simp] theorem endOfEvent_self : endOfEvent s s = s := endOfEvent_eq_of_not_lower (fun _ _ => le_refl _)

/-! ## The engine's start -/

section
variable (before after : State)
@[simp] theorem port_startEngine (p : Port) : (startEngine before after).port p = after.port p := rfl
@[simp] theorem chan_startEngine (c : ChanId) : (startEngine before after).chan c = after.chan c := rfl
@[simp] theorem msg_startEngine (r : RecId) : (startEngine before after).msg r = after.msg r := rfl
@[simp] theorem ports_startEngine : (startEngine before after).ports = after.ports := rfl
@[simp] theorem channels_startEngine : (startEngine before after).channels = after.channels := rfl
@[simp] theorem records_startEngine : (startEngine before after).records = after.records := rfl
@[simp] theorem cells_startEngine : (startEngine before after).cells = after.cells := rfl
@[simp] theorem reclaim_startEngine : (startEngine before after).reclaim = after.reclaim := rfl
@[simp] theorem tickPhase_startEngine : (startEngine before after).tickPhase = after.tickPhase := rfl
@[simp] theorem draws_startEngine : (startEngine before after).draws = after.draws := rfl
@[simp] theorem pending_startEngine : (startEngine before after).pending = after.pending := rfl
theorem engineGap_startEngine : (startEngine before after).engineGap =
    if before.reclaim.isEmpty && !after.reclaim.isEmpty then 0 else after.engineGap := rfl
end

/-- The engine starts only where an event finds it idle and leaves it with work. -/
theorem startEngine_of_not_started {before after : State} (h : before.reclaim ≠ [] ∨ after.reclaim = []) :
    startEngine before after = after := by
  unfold startEngine
  rw [if_neg]
  rcases h with h | h <;> simp [h]

/-- An event that changes nothing starts no engine. -/
@[simp] theorem startEngine_self : startEngine s s = s := by
  apply startEngine_of_not_started
  by_cases h : s.reclaim = []
  · exact Or.inr h
  · exact Or.inl h

/-! ## Handle bytes and slot bytes -/

/-- The handle byte that names a live attachment (R12). -/
theorem handleAt_eq_some_iff (p : Port) (b : Byte) (h : Handle) (t : Attachment) :
    s.handleAt p b = some (h, t) ↔ b.toNat = h.val ∧ s.att ⟨p, h⟩ = some t := by
  unfold State.handleAt
  constructor
  · intro e
    split at e
    · obtain ⟨u, hu, he⟩ := Option.map_eq_some_iff.1 e
      cases he
      exact ⟨rfl, hu⟩
    · exact absurd e (by simp)
  · rintro ⟨hb, ht⟩
    have hb' : b.toNat < 8 := hb ▸ h.isLt
    have e : (⟨b.toNat, hb'⟩ : Handle) = h := Fin.ext hb
    rw [dif_pos hb', e, ht]
    rfl

/-- A handle byte that names no live attachment. -/
theorem handleAt_eq_none_iff (p : Port) (b : Byte) :
    s.handleAt p b = none ↔ ∀ h : Handle, b.toNat = h.val → s.att ⟨p, h⟩ = none := by
  constructor
  · intro e h hb
    by_contra hne
    obtain ⟨t, ht⟩ := Option.ne_none_iff_exists'.1 hne
    rw [(handleAt_eq_some_iff s p b h t).2 ⟨hb, ht⟩] at e
    exact absurd e (by simp)
  · intro hall
    by_contra hne
    obtain ⟨⟨h, t⟩, ht⟩ := Option.ne_none_iff_exists'.1 hne
    obtain ⟨hb, ha⟩ := (handleAt_eq_some_iff s p b h t).1 ht
    rw [hall h hb] at ha
    exact absurd ha (by simp)

/-- The work of a handle that names a live attachment. -/
theorem withHandle_of_names {p : Port} {b : Byte} {h : Handle} {t : Attachment} {k : Handle → Attachment → Reply}
    (hb : b.toNat = h.val) (ht : s.att ⟨p, h⟩ = some t) : withHandle s p b k = k h t := by
  rw [withHandle, (handleAt_eq_some_iff s p b h t).2 ⟨hb, ht⟩]

/-- A handle that names no live attachment answers BAD_HANDLE (R12). -/
theorem withHandle_of_none {p : Port} {b : Byte} {k : Handle → Attachment → Reply}
    (h : ∀ h : Handle, b.toNat = h.val → s.att ⟨p, h⟩ = none) : withHandle s p b k = refuse s .badHandle := by
  rw [withHandle, (handleAt_eq_none_iff s p b).2 h]

/-- The slot byte that names a HOLDING slot (R79). -/
theorem heldAt_eq_some_iff (p : Port) (b : Byte) (x : Held) :
    s.heldAt p b = some x ↔ b.toNat = x.slot.val ∧ ∃ lease, s.slot p x.slot = .holding x.record x.handle x.ticket lease := by
  unfold State.heldAt
  constructor
  · intro e
    split at e
    · split at e
      · next r h t lease hs =>
        cases e
        exact ⟨rfl, lease, hs⟩
      · exact absurd e (by simp)
    · exact absurd e (by simp)
  · rintro ⟨hb, lease, hs⟩
    have hb' : b.toNat < 4 := hb ▸ x.slot.isLt
    have e : (⟨b.toNat, hb'⟩ : Slot) = x.slot := Fin.ext hb
    rw [dif_pos hb', e, hs]

/-! ## Time -/

/-- Passing time changes no channel. -/
@[simp] theorem chan_advance (n : Nat) (c : ChanId) : (advance n s).chan c = s.chan c := rfl

/-- Passing time leaves the work queue. -/
@[simp] theorem reclaim_advance (n : Nat) : (advance n s).reclaim = s.reclaim := rfl

/-- How far the engine's last step lies before the next boundary after some have passed (log 26). -/
theorem engineGap_advance (n : Nat) :
    (advance n s).engineGap =
      if n = 0 then s.engineGap else if s.reclaim.isEmpty then 0 else s.engineGap + Config.stepsPerTick * n := rfl

/-- A port after `n` tick boundaries. -/
@[simp] theorem port_advance (n : Nat) (p : Port) :
    (advance n s).port p = advancePort n ((s.tickPhase + n) / Config.ticksPerLong) (s.port p) := by
  simp [State.port, advance]

/-- An attachment after `n` tick boundaries: only its coalescing timer falls. -/
theorem att_advance (n : Nat) (a : AttRef) :
    (advance n s).att a = (s.att a).map (fun t => { t with timer := lowerTimer n t.timer }) := by
  simp [State.att, advancePort]

/-- A hand slot after `n` tick boundaries: only its lease falls. -/
theorem slot_advance (n : Nat) (p : Port) (i : Slot) :
    (advance n s).slot p i = lowerLease ((s.tickPhase + n) / Config.ticksPerLong) (s.slot p i) := by
  simp [State.slot, advancePort]

/-- A message record after `n` tick boundaries. -/
theorem msg_advance (n : Nat) (r : RecId) :
    (advance n s).msg r =
      if (s.tickPhase + n) / Config.ticksPerLong = 0 then s.msg r
      else if s.lifetimeRunning (s.msg r) then lowerLifetime ((s.tickPhase + n) / Config.ticksPerLong) (s.msg r)
      else s.msg r := by
  unfold advance State.msg
  by_cases h : (s.tickPhase + n) / Config.ticksPerLong = 0
  · simp [h]
  · simp only [h, if_false]
    rw [Table.get_mapAll]
    simp [State.lifetimeRunning, MsgRecord.free]

/-! ## The part left to itself -/

/-- A step with no command waiting is an expiry that is due, or, where none is, the engine's or the clock's. -/
theorem idle_cases :
    (∃ x, s.ticksLeft x = some 0 ∧ idle s = .next (expire s x)) ∨ idle s = .next (idleOnward s) := by
  unfold idle
  split
  · next x h => exact Or.inl ⟨x, by simpa [State.isDue] using List.find?_some h, rfl⟩
  · exact Or.inr rfl

theorem idleOnward_of_idle_engine {s : State} (h : s.reclaim = []) : idleOnward s = advance 1 s := by
  simp [idleOnward, h]

theorem idleOnward_of_owing {s : State} (h : s.reclaim ≠ []) (ho : s.stepsOwed ≠ 0) : idleOnward s = engineStep s := by
  simp [idleOnward, h, ho]

theorem idleOnward_of_choice {s : State} (h : s.reclaim ≠ []) (ho : s.stepsOwed = 0) :
    idleOnward s = advance 1 { s with draws := s.draws + 1 } ∨
      idleOnward s = engineStep { s with draws := s.draws + 1 } := by
  cases hc : Config.clockBeforeStep s.draws <;> simp [idleOnward, h, ho, hc]

/-- What the engine's steps, the due expiries, the ticks and the count of free choices keep, a step with no command
waiting keeps. -/
theorem idle_keeps {P : State → Prop} (engine : ∀ s, P s → P (engineStep s))
    (due : ∀ s x, P s → s.ticksLeft x = some 0 → P (expire s x)) (tick : ∀ s, P s → P (advance 1 s))
    (draw : ∀ s, P s → P { s with draws := s.draws + 1 }) {s t : State} (h : P s) (ht : idle s = .next t) : P t := by
  have done : ∀ {u : State}, idle s = .next u → P u → P t := by
    intro u e hu
    rw [ht] at e
    injection e with e
    exact e ▸ hu
  have onward : P (idleOnward s) := by
    by_cases hr : s.reclaim = []
    · exact idleOnward_of_idle_engine hr ▸ tick s h
    · by_cases ho : s.stepsOwed = 0
      · rcases idleOnward_of_choice hr ho with e | e
        · exact e ▸ tick _ (draw s h)
        · exact e ▸ engine _ (draw s h)
      · exact idleOnward_of_owing hr ho ▸ engine s h
  rcases idle_cases s with ⟨x, hx, e⟩ | e
  · exact done e (due s x h hx)
  · exact done e onward

end Sys2Proof.Machine
end

