-- ==== Sys2Proof/Laws/Work.lean ====
section
/-! SUPPORT. What the shared operations can do, said once. `Work s t` holds of every shared operation from `s` to `t`: the
clock, the queue of commands and the choices made stay; a port's session, response record, penalty state and serial stay,
events only join as R165 places them (or all go, at a teardown), and its charge does not rise; a channel keeps its
parameters or becomes FREE; a message record keeps what R27 says it keeps or takes the FREE values; no cell is written. -/

namespace Sys2Proof.Machine

/-- How an event queue may change: ordinary events are placed, or the queue is emptied (R163, R165). -/
inductive EventsMay : List Event → List Event → Prop
  | refl (q : List Event) : EventsMay q q
  | place {q q' : List Event} (e : Event) : e.kind ≠ .overflow → EventsMay q q' → EventsMay q (placeEvent q' e)
  | clear (q : List Event) : EventsMay q []

theorem EventsMay.trans {a b c : List Event} (h : EventsMay a b) (g : EventsMay b c) : EventsMay a c := by
  induction g with
  | refl => exact h
  | place e he _ ih => exact .place e he ih
  | clear => exact .clear a

/-- What a shared operation can do to a port. -/
structure PortWork (q t : PortState) : Prop where
  session : t.session = q.session
  epoch : t.epoch = q.epoch
  lease : t.lease = q.lease
  receiptAttention : t.receiptAttention = q.receiptAttention
  response : t.response = q.response
  badCodes : t.badCodes = q.badCodes
  penalty : t.penalty = q.penalty
  serial : t.serial = q.serial
  deaf : t.deaf = q.deaf
  flight : t.flight = q.flight
  sdo : t.sdo = q.sdo
  events : EventsMay q.events t.events
  charge : t.charge ≤ q.charge

theorem PortWork.refl (q : PortState) : PortWork q q :=
  ⟨rfl, rfl, rfl, rfl, rfl, rfl, rfl, rfl, rfl, rfl, rfl, .refl _, le_refl _⟩

theorem PortWork.trans {a b c : PortState} (h : PortWork a b) (g : PortWork b c) : PortWork a c :=
  ⟨g.session.trans h.session, g.epoch.trans h.epoch, g.lease.trans h.lease,
   g.receiptAttention.trans h.receiptAttention, g.response.trans h.response, g.badCodes.trans h.badCodes,
   g.penalty.trans h.penalty, g.serial.trans h.serial, g.deaf.trans h.deaf,
   g.flight.trans h.flight, g.sdo.trans h.sdo, h.events.trans g.events, g.charge.trans h.charge⟩

/-- The parameters of a channel (R3, R7). -/
def Channel.params (ch : Channel) : Word × Kind × Nat × Nat × Policy × AccessCode :=
  (ch.name, ch.kind, ch.depthLimit, ch.roomMark, ch.policy, ch.code)

/-- What a shared operation can do to a channel's parameters. -/
def ChannelWork (a b : Channel) : Prop :=
  (b.params = a.params ∧ (b.state = .free ↔ a.state = .free)) ∨ (b.params = Channel.free.params ∧ b.state = .free)

theorem ChannelWork.refl (a : Channel) : ChannelWork a a := Or.inl ⟨rfl, Iff.rfl⟩

theorem ChannelWork.trans {a b c : Channel} (h : ChannelWork a b) (g : ChannelWork b c) : ChannelWork a c := by
  rcases g with ⟨gp, gs⟩ | g
  · rcases h with ⟨hp, hs⟩ | ⟨hp, hs⟩
    · exact Or.inl ⟨gp.trans hp, gs.trans hs⟩
    · exact Or.inr ⟨gp.trans hp, gs.mpr hs⟩
  · exact Or.inr g

/-- What a message record keeps until it is freed (R27), and its lifetime remaining. -/
def MsgRecord.kept (m : MsgRecord) : Ticket × Option ChanId × Word × Nat × List CellId × Bool × Option Nat :=
  (m.ticket, m.channel, m.tag, m.length, m.chain, m.urgent, m.lifetime)

/-- What a shared operation can do to a message record. -/
structure RecordWork (a b : MsgRecord) : Prop where
  kept : b.kept = a.kept ∨ b.kept = MsgRecord.free.kept
  redelivery : a.redelivery ≤ Config.poisonLimit → b.redelivery ≤ Config.poisonLimit
  taken : a.taken ≤ Config.takenMax → b.taken ≤ Config.takenMax

theorem RecordWork.refl (a : MsgRecord) : RecordWork a a := ⟨Or.inl rfl, id, id⟩

theorem RecordWork.trans {a b c : MsgRecord} (h : RecordWork a b) (g : RecordWork b c) : RecordWork a c := by
  refine ⟨?_, g.redelivery ∘ h.redelivery, g.taken ∘ h.taken⟩
  rcases g.kept with gk | gk
  · rcases h.kept with hk | hk
    · exact Or.inl (gk.trans hk)
    · exact Or.inr (gk.trans hk)
  · exact Or.inr gk

/-- A record whose counts stay and that keeps its fields. -/
theorem RecordWork.same {a b : MsgRecord} (hk : b.kept = a.kept) (hr : b.redelivery = a.redelivery)
    (ht : b.taken = a.taken) : RecordWork a b := ⟨Or.inl hk, by rw [hr]; exact id, by rw [ht]; exact id⟩

theorem RecordWork.freed (a : MsgRecord) : RecordWork a MsgRecord.free :=
  ⟨Or.inr rfl, fun _ => Nat.zero_le _, fun _ => Nat.zero_le _⟩

/-- What a shared operation can do. -/
structure Work (s t : State) : Prop where
  tickPhase : t.tickPhase = s.tickPhase
  draws : t.draws = s.draws
  pending : t.pending = s.pending
  ports : ∀ p, PortWork (s.port p) (t.port p)
  chans : ∀ c, ChannelWork (s.chan c) (t.chan c)
  msgs : ∀ r, RecordWork (s.msg r) (t.msg r)
  cells : ∀ e ∈ t.cells, e ∈ s.cells

theorem Work.refl (s : State) : Work s s :=
  ⟨rfl, rfl, rfl, fun _ => .refl _, fun _ => .refl _, fun _ => .refl _, fun _ h => h⟩

theorem Work.trans {s t u : State} (h : Work s t) (g : Work t u) : Work s u :=
  ⟨g.tickPhase.trans h.tickPhase, g.draws.trans h.draws, g.pending.trans h.pending,
   fun p => (h.ports p).trans (g.ports p), fun c => (h.chans c).trans (g.chans c),
   fun r => (h.msgs r).trans (g.msgs r), fun e he => h.cells e (g.cells e he)⟩

/-- A fold of operations that each are `Work` is `Work`. -/
theorem Work.foldl {α : Type} {f : State → α → State} (h : ∀ s a, Work s (f s a)) (l : List α) (s : State) :
    Work s (l.foldl f s) := by
  induction l generalizing s with
  | nil => exact .refl s
  | cons a rest ih => exact (h s a).trans (ih (f s a))

/-! ## The updates -/

theorem modPort_work (s : State) (p : Port) (f : PortState → PortState) (h : PortWork (s.port p) (f (s.port p))) :
    Work s (s.modPort p f) :=
  { Work.refl s with
    ports := fun q => by
      by_cases hq : q = p
      · subst hq; simpa using h
      · simpa [hq] using PortWork.refl (s.port q)
    chans := fun _ => .refl _
    msgs := fun _ => .refl _ }

theorem modChan_work (s : State) (c : ChanId) (f : Channel → Channel) (h : ChannelWork (s.chan c) (f (s.chan c))) :
    Work s (s.modChan c f) :=
  { Work.refl s with
    ports := fun _ => .refl _
    chans := fun d => by
      by_cases hd : d = c
      · subst hd; simpa using h
      · simpa [hd] using ChannelWork.refl (s.chan d)
    msgs := fun _ => .refl _ }

theorem modMsg_work (s : State) (r : RecId) (f : MsgRecord → MsgRecord) (h : RecordWork (s.msg r) (f (s.msg r))) :
    Work s (s.modMsg r f) :=
  { Work.refl s with
    ports := fun _ => .refl _
    chans := fun _ => .refl _
    msgs := fun q => by
      by_cases hq : q = r
      · subst hq; simpa using h
      · simpa [hq] using RecordWork.refl (s.msg q) }

theorem setAtt_work (s : State) (a : AttRef) (x : Option Attachment) : Work s (s.setAtt a x) :=
  modPort_work s _ _ { PortWork.refl _ with }

theorem modAtt_work (s : State) (a : AttRef) (f : Attachment → Attachment) : Work s (s.modAtt a f) := setAtt_work s a _

theorem setSlot_work (s : State) (p : Port) (i : Slot) (x : HandSlot) : Work s (s.setSlot p i x) :=
  modPort_work s _ _ { PortWork.refl _ with }

/-- An update of a channel that keeps its parameters and its state. -/
theorem modChan_work_same (s : State) (c : ChanId) (f : Channel → Channel)
    (h : (f (s.chan c)).params = (s.chan c).params) (hs : (f (s.chan c)).state = (s.chan c).state) :
    Work s (s.modChan c f) := modChan_work s c f (Or.inl ⟨h, by rw [hs]⟩)

/-- An update of a port that writes none of what `PortWork` names. -/
theorem modPort_work_same (s : State) (p : Port) (f : PortState → PortState)
    (h : PortWork (s.port p) (f (s.port p))) : Work s (s.modPort p f) := modPort_work s p f h

/-! ## Events and counters -/

theorem queueEvent_work (s : State) (p : Port) (e : Event) (h : e.kind ≠ .overflow) : Work s (queueEvent s p e) :=
  modPort_work s p _ { PortWork.refl _ with events := .place e h (.refl _) }

theorem notifyEach_work (s : State) (refs : List AttRef) (mk : AttRef → Event) (h : ∀ a, (mk a).kind ≠ .overflow) :
    Work s (notifyEach s refs mk) :=
  Work.foldl (fun s (a : AttRef) => queueEvent_work s a.port (mk a) (h a)) refs s

theorem bump_work (s : State) (c : ChanId) (k : Counter) : Work s (bump s c k) := by
  unfold bump
  dsimp only
  split
  · exact (modChan_work_same s c _ rfl rfl).trans (notifyEach_work _ _ _ (fun _ => by simp [handleEvent]))
  · exact modChan_work_same s c _ rfl rfl

/-! ## Outcomes -/

theorem queueReceipt_work (s : State) (c : ChanId) (r : RecId) (o : MsgOutcome) (n : Nat) :
    Work s (queueReceipt s c r o n) := by
  unfold queueReceipt
  dsimp only
  split
  · exact (modPort_work s _ _ { PortWork.refl _ with }).trans (modMsg_work _ r _ (.same rfl rfl rfl))
  · exact .refl s

theorem issue_work (s : State) (c : ChanId) (r : RecId) (o : MsgOutcome) (n : Nat) : Work s (issue s c r o n) := by
  unfold issue
  split
  · exact .refl s
  · exact ((modMsg_work s r _ (.same rfl rfl rfl)).trans (bump_work _ c _)).trans (queueReceipt_work _ c r o n)

theorem leaveList_work (s : State) (c : ChanId) (r : RecId) : Work s (leaveList s c r) := modChan_work_same s c _ rfl rfl

theorem returnCells_work (s : State) (chain : List CellId) (p : Port) : Work s (returnCells s chain p) := by
  have h := modPort_work s p (fun q => { q with charge := q.charge - chain.length })
    { PortWork.refl _ with charge := Nat.sub_le _ _ }
  exact ⟨rfl, rfl, rfl, h.ports, h.chans, h.msgs, fun e he => (List.mem_filter.mp he).1⟩

theorem freeRecord_work (s : State) (c : ChanId) (r : RecId) (o : MsgOutcome) (n : Nat) : Work s (freeRecord s c r o n) :=
  ((issue_work s c r o n).trans (leaveList_work _ c r)).trans
    ((returnCells_work (leaveList (issue s c r o n) c r) _ _).trans (modMsg_work _ r (fun _ => MsgRecord.free) (.freed _)))

theorem unlist_work (s : State) (c : ChanId) (r : RecId) : Work s (unlist s c r) :=
  (leaveList_work s c r).trans (modMsg_work _ r _ (.same rfl rfl rfl))

theorem settlePending_work (s : State) (c : ChanId) (r : RecId) : Work s (settlePending s c r) := by
  unfold settlePending
  split
  · split
    · exact freeRecord_work s c r _ _
    · exact unlist_work s c r
  · exact .refl s

/-! ## Hands and waits -/

theorem fillSlot_work (s : State) (p : Port) (i : Slot) (r : RecId) (h : Handle) : Work s (fillSlot s p i r h) :=
  setSlot_work s p i _

theorem takeIntoHand_work (s : State) (c : ChanId) (r : RecId) : Work s (takeIntoHand s c r) :=
  (leaveList_work s c r).trans (modMsg_work _ r _ (.same rfl rfl rfl))

theorem takeByHolder_work (s : State) (c : ChanId) (r : RecId) (a : AttRef) : Work s (takeByHolder s c r a) :=
  (modMsg_work s r _ ⟨Or.inl rfl, id, fun _ => Nat.min_le_right _ _⟩).trans (settlePending_work _ c r)

theorem clearLagReported_work (s : State) (a : AttRef) : Work s (clearLagReported s a) := modAtt_work s a _

theorem dropParked_work (s : State) (c : ChanId) (p : Port) (w : ParkedTake) : Work s (dropParked s c p w) :=
  ((modChan_work_same s c _ rfl rfl).trans (setSlot_work _ p w.slot .empty)).trans
    (modPort_work _ p _ { PortWork.refl _ with })

theorem bindSlot_work (s : State) (c : ChanId) (r : RecId) (p : Port) (w : ParkedTake) : Work s (bindSlot s c r p w) :=
  ((((fillSlot_work s p w.slot r w.handle).trans (modChan_work_same _ c _ rfl rfl)).trans
    (modPort_work _ p _ { PortWork.refl _ with })).trans (clearLagReported_work _ ⟨p, w.handle⟩)).trans
      (queueEvent_work _ p _ (by simp [slotEvent]))

theorem bindPoint_work (s : State) (c : ChanId) (r : RecId) (p : Port) : Work s (bindPoint s c r p) := by
  unfold bindPoint
  split
  · exact .refl s
  · exact (takeIntoHand_work s c r).trans (bindSlot_work _ c r p _)

theorem bindFanout_work (s : State) (c : ChanId) (r : RecId) (p : Port) : Work s (bindFanout s c r p) := by
  unfold bindFanout
  split
  · exact .refl s
  · split
    · exact (takeByHolder_work s c r _).trans (bindSlot_work _ c r p _)
    · exact .refl s

theorem arrive_work (s : State) (c : ChanId) (u : Bool) (a : AttRef) : Work s (arrive s c u a) := by
  unfold arrive
  split
  · exact .refl s
  · split
    · exact .refl s
    · split
      · exact (modAtt_work s a _).trans (queueEvent_work _ a.port _ (by simp [handleEvent]))
      · exact modAtt_work s a _

theorem arriveAll_work (s : State) (c : ChanId) (u : Bool) (refs : List AttRef) : Work s (arriveAll s c u refs) :=
  Work.foldl (fun s a => arrive_work s c u a) refs s

/-! ## Handing back -/

theorem requeue_work (s : State) (c : ChanId) (r : RecId) (h : (s.msg r).redelivery < Config.poisonLimit) :
    Work s (requeue s c r) := by
  unfold requeue
  dsimp only
  have hw : Work s
      ((s.modMsg r (fun m => { m with state := .queued, expiring := false, redelivery := m.redelivery + 1 })).modChan c
        (fun ch => { ch with list := r :: ch.list })) :=
    (modMsg_work s r (fun m => { m with state := .queued, expiring := false, redelivery := m.redelivery + 1 })
      ⟨Or.inl rfl, fun _ => h, id⟩).trans (modChan_work_same _ c _ rfl rfl)
  split
  · exact hw.trans (bindPoint_work _ c r _)
  · exact hw.trans (arriveAll_work _ c _ _)

/-- Counting changes no message record. -/
theorem bump_msg (s : State) (c : ChanId) (k : Counter) (r : RecId) : (bump s c k).msg r = s.msg r := by
  have key : ∀ (l : List AttRef) (mk : AttRef → Event) (s : State), (notifyEach s l mk).msg r = s.msg r := by
    intro l mk
    induction l with
    | nil => intro s; rfl
    | cons a rest ih => intro s; exact (ih (queueEvent s a.port (mk a))).trans rfl
  unfold bump
  dsimp only
  split
  · exact (key _ _ _).trans rfl
  · rfl

theorem handBackPoint_work (s : State) (c : ChanId) (r : RecId) : Work s (handBackPoint s c r).1 := by
  unfold handBackPoint
  dsimp only
  split
  · split
    · rename_i h
      exact (bump_work s c _).trans (requeue_work _ c r h)
    · exact (bump_work s c _).trans (freeRecord_work _ c r _ _)
  · exact (bump_work s c _).trans (freeRecord_work _ c r _ _)

theorem releaseFanout_work (s : State) (c : ChanId) (r : RecId) (a : AttRef) : Work s (releaseFanout s c r a) := by
  unfold releaseFanout
  dsimp only
  have h := modMsg_work s r (fun m => { m with holders := eraseRef a m.holders }) (.same rfl rfl rfl)
  split
  · exact h.trans (freeRecord_work _ c r _ _)
  · exact h

theorem handBackRecord_work (s : State) (r : RecId) (a : AttRef) : Work s (handBackRecord s r a) := by
  unfold handBackRecord
  split
  · exact .refl s
  · split
    · exact handBackPoint_work s _ r
    · exact releaseFanout_work s _ r a

theorem handBackSlot_work (s : State) (p : Port) (i : Slot) : Work s (handBackSlot s p i) := by
  unfold handBackSlot
  split
  · exact (setSlot_work s p i .empty).trans (handBackRecord_work _ _ _)
  · exact .refl s

theorem handBackThrough_work (s : State) (a : AttRef) : Work s (handBackThrough s a) :=
  Work.foldl (fun s i => by
    split
    · split
      · exact handBackSlot_work s _ i
      · exact .refl s
    · exact .refl s) _ s

theorem handBackAll_work (s : State) (p : Port) : Work s (handBackAll s p) :=
  Work.foldl (fun s i => handBackSlot_work s p i) _ s

/-! ## Holding, dooming, closing, detaching -/

theorem setHeld_work (s : State) (c : ChanId) : Work s (setHeld s c) :=
  (modChan_work_same s c (fun ch => { ch with held := true }) rfl rfl).trans
    (Work.foldl (fun s r => modMsg_work s r _ (.same rfl rfl rfl)) _ _)

theorem announce_work (s : State) (c : ChanId) (k : EventKind) (h : k ≠ .overflow) : Work s (announce s c k) :=
  notifyEach_work s _ _ (fun _ => h)

theorem doomList_work (s : State) (c : ChanId) : Work s (doomList s c) :=
  Work.foldl (fun s r => modMsg_work s r _ (by
    unfold MsgRecord.doom
    split
    · exact .same rfl rfl rfl
    · exact .refl _)) _ s

theorem freeChannel_work (s : State) (c : ChanId) : Work s (freeChannel s c) := by
  have h := modChan_work s c (fun _ => Channel.free) (Or.inr ⟨rfl, rfl⟩)
  exact ⟨rfl, rfl, rfl, h.ports, h.chans, h.msgs, h.cells⟩

theorem doomList_chan (s : State) (c d : ChanId) : (doomList s c).chan d = s.chan d := by
  have key : ∀ (l : List RecId) (s : State),
      (l.foldl (fun s r => s.modMsg r MsgRecord.doom) s).chan d = s.chan d := by
    intro l
    induction l with
    | nil => intro s; rfl
    | cons r rest ih => intro s; exact (ih _).trans rfl
  exact key _ s

@[simp] theorem reclaim_joinWork (s : State) (e : WorkEntry) : (joinWork s e).reclaim = s.reclaim ++ [e] := rfl
@[simp] theorem engineGap_joinWork (s : State) (e : WorkEntry) : (joinWork s e).engineGap = s.engineGap := rfl

/-- A channel that joins the work queue changes the queue alone. -/
theorem joinWork_work {s t : State} (h : Work s t) (e : WorkEntry) : Work s (joinWork t e) :=
  ⟨h.tickPhase, h.draws, h.pending, h.ports, h.chans, h.msgs, h.cells⟩

theorem closeChannel_work (s : State) (c : ChanId) (h : (s.chan c).state ≠ .free) : Work s (closeChannel s c) := by
  have hw : Work s ((doomList s c).modChan c
      (fun ch => { ch with state := .closing, held := false, watch := none, purger := none })) :=
    (doomList_work s c).trans (modChan_work _ c _ (Or.inl ⟨rfl, by simp [doomList_chan, h]⟩))
  unfold closeChannel
  dsimp only
  split
  · exact joinWork_work hw _
  · exact ⟨hw.tickPhase, hw.draws, hw.pending, hw.ports, hw.chans, hw.msgs, hw.cells⟩

theorem closeIfLast_work (s : State) (c : ChanId) : Work s (closeIfLast s c) := by
  unfold closeIfLast
  split
  · rename_i h
    split
    · exact freeChannel_work s c
    · refine closeChannel_work s c ?_
      rcases h.1 with h | h <;> simp [h]
  · exact .refl s

theorem leavePending_work (s : State) (c : ChanId) (a : AttRef) : Work s (leavePending s c a) :=
  Work.foldl (fun s r => by
    split
    · exact (modMsg_work s r _ (.same rfl rfl rfl)).trans (settlePending_work _ c r)
    · exact .refl s) _ s

theorem forgetOwner_work (s : State) (c : ChanId) (a : AttRef) : Work s (forgetOwner s c a) :=
  modChan_work_same s c _ rfl rfl

theorem detach_work (s : State) (a : AttRef) : Work s (detach s a) := by
  unfold detach
  split
  · exact .refl s
  · rename_i t _
    dsimp only
    refine Work.trans ?_ (closeIfLast_work _ _)
    refine Work.trans ?_ (forgetOwner_work _ _ _)
    have h1 := setAtt_work s a none
    have h2 : ∀ u : State, Work u (match (u.port a.port).parked with
        | some w => if w.handle = a.handle then dropParked u t.channel a.port w else u
        | none => u) := by
      intro u
      split
      · split
        · exact dropParked_work u _ _ _
        · exact .refl u
      · exact .refl u
    have h3 := (h1.trans (h2 _)).trans (handBackThrough_work _ a)
    split
    · exact h3.trans (leavePending_work _ _ _)
    · exact h3

/-- Work on every message record that keeps its fields and counts. -/
theorem mapRecords_work (s : State) (f : MsgRecord → MsgRecord) (hd : f MsgRecord.free = MsgRecord.free)
    (h : ∀ m, RecordWork m (f m)) : Work s { s with records := Table.mapAll f s.records } :=
  { Work.refl s with
    ports := fun _ => .refl _
    chans := fun _ => .refl _
    msgs := fun r => by
      have : ({ s with records := Table.mapAll f s.records } : State).msg r = f (s.msg r) :=
        Table.get_mapAll _ f hd _ _
      rw [this]
      exact h _ }

theorem dropOwnParked_work (s : State) (p : Port) : Work s (dropOwnParked s p) := by
  unfold dropOwnParked
  split
  · exact dropParked_work s _ p _
  · exact .refl s

theorem detachAll_work (s : State) (p : Port) : Work s (detachAll s p) :=
  Work.foldl (fun s h => detach_work s ⟨p, h⟩) _ s

theorem disown_free (p : Port) : MsgRecord.disown p MsgRecord.free = MsgRecord.free := by
  simp [MsgRecord.disown, MsgRecord.free]

theorem emptyQueues_work (s : State) (p : Port) : Work s (emptyQueues s p) :=
  (modPort_work s p (fun q => { q with events := [], receipts := [], reservations := 0 })
    { PortWork.refl _ with events := .clear _ }).trans
    (mapRecords_work _ (MsgRecord.disown p) (disown_free p) (fun m => by
      unfold MsgRecord.disown
      split
      · exact .same rfl rfl rfl
      · exact .refl m))

theorem teardown_work (s : State) (p : Port) : Work s (teardown s p) :=
  (((dropOwnParked_work s p).trans (handBackAll_work _ p)).trans (detachAll_work _ p)).trans (emptyQueues_work _ p)

/-! ## The end of an event -/

theorem roomCheck_work (s : State) (c : ChanId) : Work s (roomCheck s c) := by
  unfold roomCheck
  split
  · exact Work.foldl (fun s a => (modAtt_work s a _).trans (queueEvent_work _ a.port _ (by simp [handleEvent]))) _ s
  · exact .refl s

theorem endOfEvent_work (before after : State) : Work after (endOfEvent before after) :=
  Work.foldl (fun s c => by
    split
    · exact roomCheck_work s c
    · exact .refl s) _ after

/-- The start of the engine changes its gap alone. -/
theorem startEngine_work {before s t : State} (h : Work s t) : Work s (startEngine before t) :=
  ⟨h.tickPhase, h.draws, h.pending, h.ports, h.chans, h.msgs, h.cells⟩

end Sys2Proof.Machine
end

