-- ==== Sys2Proof/Laws/Meanings.lean ====
section
/-! SUPPORT. What the parts of the meanings can do, by the relation `Work` of Laws/Work.lean: taking, binding, shedding,
inspecting, expiring and the reclaim engine's steps. Posting builds a record and is not `Work`; what follows the build is. -/

namespace Sys2Proof.Machine

/-! ## Posting -/

theorem chargeLag_work (s : State) (c : ChanId) (a : AttRef) : Work s (chargeLag s c a) := by
  unfold chargeLag
  split
  · exact .refl s
  · dsimp only
    split
    · exact modAtt_work s a _
    · exact (modAtt_work s a _).trans (queueEvent_work _ _ _ (by simp [handleEvent]))

theorem shedFanout_work (s : State) (c : ChanId) (r : RecId) : Work s (shedFanout s c r) := by
  unfold shedFanout
  dsimp only
  have h : ∀ l : List AttRef, Work s ((l.foldl (fun s a => chargeLag s c a) s).modMsg r (fun m => { m with pending := [] })) :=
    fun l => (Work.foldl (fun s a => chargeLag_work s c a) l s).trans (modMsg_work _ r _ (.same rfl rfl rfl))
  split
  · exact (h _).trans (freeRecord_work _ c r _ _)
  · exact (h _).trans ((unlist_work _ c r).trans (issue_work _ c r _ _))

theorem shedRecord_work (s : State) (c : ChanId) (r : RecId) : Work s (shedRecord s c r) := by
  unfold shedRecord
  split
  · exact freeRecord_work s c r _ _
  · exact shedFanout_work s c r

theorem countFiltered_work (s : State) (c : ChanId) (tag : Word) : Work s (countFiltered s c tag) := by
  unfold countFiltered
  split
  · exact .refl s
  · exact Work.foldl (fun s _ => bump_work s c _) _ s

theorem watchCompare_work (s : State) (c : ChanId) (tag : Word) (t : Ticket) : Work s (watchCompare s c tag t) := by
  unfold watchCompare
  split
  · exact .refl s
  · split
    · dsimp only
      have hold : ∀ b : Bool, Work s (if b then s else setHeld s c) := by
        intro b; cases b
        · exact setHeld_work s c
        · exact .refl s
      have tell : ∀ (b : Bool) (u : State), Work u (if b then u else announce u c .channelHeld) := by
        intro b u; cases b
        · exact announce_work u c _ (by decide)
        · exact .refl u
      split
      · exact ((hold _).trans (queueEvent_work _ _ _ (by simp))).trans (tell _ _)
      · exact (((hold _).trans (queueEvent_work _ _ _ (by simp))).trans (tell _ _)).trans
          (modChan_work_same _ c _ rfl rfl)
    · exact .refl s

theorem bindAtPost_work (s : State) (c : ChanId) (r : RecId) : Work s (bindAtPost s c r) := by
  unfold bindAtPost
  split
  · exact .refl s
  · split
    · split
      · exact .refl s
      · exact bindPoint_work s c r _
    · exact Work.foldl (fun s p => bindFanout_work s c r p) _ s

theorem arrivalsAtPost_work (s : State) (c : ChanId) (r : RecId) : Work s (arrivalsAtPost s c r) := by
  unfold arrivalsAtPost
  split
  · split
    · exact arriveAll_work s c _ _
    · exact .refl s
  · exact arriveAll_work s c _ _

theorem dropIfNoTaker_work (s : State) (c : ChanId) (r : RecId) : Work s (dropIfNoTaker s c r) := by
  unfold dropIfNoTaker
  split
  · exact settlePending_work s c r
  · exact .refl s

/-- What an accepted post does after its record has been built. -/
theorem acceptPost_work (s : State) (p : Port) (c : ChanId) (g : PostArgs) (r : RecId) :
    Work (buildRecord s p c g r) (acceptPost s p c g r) :=
  (((((countFiltered_work _ c _).trans (bump_work _ c _)).trans (watchCompare_work _ c _ _)).trans
    (bindAtPost_work _ c r)).trans (arrivalsAtPost_work _ c r)).trans (dropIfNoTaker_work _ c r)

theorem refusePost_work (s : State) (a : AttRef) (c : ChanId) (x : Result) : Work s (refusePost s a c x).state := by
  unfold refusePost
  dsimp only
  split
  · exact (bump_work s c _).trans (modAtt_work _ a _)
  · exact bump_work s c _

/-! ## Taking -/

theorem takeRecord_work (s : State) (c : ChanId) (a : AttRef) (x : Role) (i : Slot) (r : RecId) :
    Work s (takeRecord s c a x i r) := by
  unfold takeRecord
  split
  · exact (takeByHolder_work s c r a).trans (fillSlot_work _ _ i r _)
  · exact (takeIntoHand_work s c r).trans (fillSlot_work _ _ i r _)

theorem parkTake_work (s : State) (c : ChanId) (a : AttRef) (i : Slot) (w : Word) : Work s (parkTake s c a i w) :=
  ((setSlot_work s a.port i .reserved).trans (modPort_work _ a.port _ { PortWork.refl _ with })).trans
    (modChan_work_same _ c _ rfl rfl)

theorem selectTake_work (s : State) (c : ChanId) (a : AttRef) (x : Role) (i : Slot) (w : Word) :
    Work s (selectTake s c a x i w).state := by
  unfold selectTake
  split
  · exact (takeRecord_work s c a x i _).trans (clearLagReported_work _ a)
  · split
    · exact clearLagReported_work s a
    · split
      · exact .refl s
      · exact (parkTake_work s c a i w).trans (clearLagReported_work _ a)

theorem releaseRecord_work (s : State) (r : RecId) (a : AttRef) : Work s (releaseRecord s r a) := by
  unfold releaseRecord
  split
  · exact .refl s
  · split
    · exact freeRecord_work s _ r _ _
    · exact releaseFanout_work s _ r a

theorem giveBackHeld_work (p : Port) (x : Held) (s : State) : Work s (giveBackHeld p x s).state := by
  unfold giveBackHeld
  split
  · exact setSlot_work s p x.slot .empty
  · split
    · exact .refl s
    · exact (setSlot_work s p x.slot .empty).trans (handBackPoint_work _ _ _)

/-! ## Inspection -/

theorem bindQueued_work (s : State) (c : ChanId) : Work s (bindQueued s c) :=
  Work.foldl (fun s (e : RecId × Port) => bindPoint_work s c e.1 e.2) _ s

theorem bindWaiting_work (s : State) (c : ChanId) (p : Port) : Work s (bindWaiting s c p) := by
  unfold bindWaiting
  split
  · exact .refl s
  · split
    · exact .refl s
    · exact bindFanout_work s c _ p

theorem bindAtResume_work (s : State) (c : ChanId) : Work s (bindAtResume s c) := by
  unfold bindAtResume
  split
  · exact bindQueued_work s c
  · exact Work.foldl (fun s p => bindWaiting_work s c p) _ s

theorem resumeChannel_work (s : State) (c : ChanId) : Work s (resumeChannel s c) := by
  unfold resumeChannel
  dsimp only
  have h : Work s (announce (s.modChan c (fun ch => { ch with held := false })) c .channelResumed) :=
    (modChan_work_same s c _ rfl rfl).trans (announce_work _ c _ (by decide))
  split
  · exact h.trans (bindAtResume_work _ c)
  · exact h

/-! ## Timers and the reclaim engine -/

theorem expireRecord_work (s : State) (c : ChanId) (r : RecId) : Work s (expireRecord s c r) := by
  unfold expireRecord
  split
  · exact freeRecord_work s c r _ _
  · split
    · exact freeRecord_work s c r _ _
    · exact (unlist_work s c r).trans (issue_work _ c r _ _)

theorem expireWait_work (s : State) (p : Port) (c : ChanId) (w : ParkedTake) : Work s (expireWait s p c w) :=
  (dropParked_work s c p w).trans (queueEvent_work _ p _ (by simp [handleEvent]))

theorem expireLease_work (s : State) (p : Port) (i : Slot) (r : RecId) (h : Handle) (t : Ticket) :
    Work s (expireLease s p i r h t) :=
  ((setSlot_work s p i .empty).trans (queueEvent_work _ p _ (by simp [slotEvent]))).trans (handBackRecord_work _ r _)

theorem expireCoalescing_work (s : State) (a : AttRef) (t : Attachment) : Work s (expireCoalescing s a t) :=
  (modAtt_work s a _).trans (queueEvent_work _ _ _ (by simp [handleEvent]))

theorem reclaimRecord_work (s : State) (c : ChanId) (r : RecId) : Work s (reclaimRecord s c r) := by
  unfold reclaimRecord
  split
  · exact freeRecord_work s c r _ _
  · split
    · exact freeRecord_work s c r _ _
    · exact (unlist_work s c r).trans (issue_work _ c r _ _)

/-- A step taken changes the engine's gap alone. -/
theorem stepTaken_work {s t : State} (h : Work s t) : Work s (stepTaken t) :=
  ⟨h.tickPhase, h.draws, h.pending, h.ports, h.chans, h.msgs, h.cells⟩

@[simp] theorem engineGap_stepTaken (s : State) : (stepTaken s).engineGap = s.engineGap - 1 := rfl
theorem stepsOwed_stepTaken (s : State) : (stepTaken s).stepsOwed = s.stepsOwed - 1 := rfl
@[simp] theorem reclaim_stepTaken (s : State) : (stepTaken s).reclaim = s.reclaim := rfl
@[simp] theorem port_stepTaken (s : State) (p : Port) : (stepTaken s).port p = s.port p := rfl
@[simp] theorem chan_stepTaken (s : State) (c : ChanId) : (stepTaken s).chan c = s.chan c := rfl
@[simp] theorem msg_stepTaken (s : State) (r : RecId) : (stepTaken s).msg r = s.msg r := rfl

theorem recordStep_work (s : State) : Work s (recordStep s) := by
  unfold recordStep
  split
  · exact .refl s
  · split
    · exact .refl s
    · exact stepTaken_work ((reclaimRecord_work s _ _).trans (endOfEvent_work _ _))

theorem completePurge_work (s : State) (c : ChanId) (n : Nat) (h : (s.chan c).state ≠ .free) :
    Work s (completePurge s c n) := by
  have h1 := modChan_work s c (fun ch => { ch with state := .opened, purger := none }) (Or.inl ⟨rfl, by simp [h]⟩)
  unfold completePurge
  dsimp only
  split
  · exact (h1.trans (queueEvent_work _ _ _ (by simp [handleEvent]))).trans (roomCheck_work _ c)
  · exact h1.trans (roomCheck_work _ c)

/-- A change of the work queue alone. -/
theorem reclaim_work {s t : State} (h : Work s t) (q : List WorkEntry) : Work s { t with reclaim := q } :=
  ⟨h.tickPhase, h.draws, h.pending, h.ports, h.chans, h.msgs, h.cells⟩

theorem completionStep_work (s : State) : Work s (completionStep s) := by
  unfold completionStep
  split
  · exact .refl s
  · split
    · refine stepTaken_work ?_
      split
      · next h => exact reclaim_work (completePurge_work s _ _ (by simp [h])) _
      · exact freeChannel_work s _
      · exact reclaim_work (.refl s) _
    · exact .refl s

theorem engineStep_work (s : State) : Work s (engineStep s) := by
  unfold engineStep
  split
  · exact .refl s
  · split
    · exact completionStep_work s
    · exact recordStep_work s

/-- Every expiry but that of the penalty timer is `Work`. -/
theorem expire_work (s : State) (x : Expiry) (hx : ∀ p, x ≠ .penalty p) : Work s (expire s x) := by
  cases x with
  | lifetime r =>
    simp only [expire]
    split
    · exact (expireRecord_work s _ r).trans (endOfEvent_work _ _)
    · exact .refl s
  | wait p =>
    simp only [expire]
    split
    · exact (expireWait_work s p _ _).trans (endOfEvent_work _ _)
    · exact .refl s
  | lease p i =>
    simp only [expire]
    split
    · exact (expireLease_work s p i _ _ _).trans (endOfEvent_work _ _)
    · exact .refl s
  | penalty p => exact absurd rfl (hx p)
  | coalescing p h =>
    simp only [expire]
    split
    · exact expireCoalescing_work s _ _
    · exact .refl s

/-! ## Time: what every engine step, every expiry and every tick keeps, all of it keeps -/

/-- An idle engine takes no step. -/
theorem runEngine_of_idle {s : State} (h : s.reclaim = []) (n : Nat) : runEngine n s = s := by
  cases n with
  | zero => rfl
  | succ n => simp [runEngine, h]

/-- Where nothing is due, nothing is taken. -/
theorem takeDue_of_none {s : State} (h : ∀ x, s.ticksLeft x ≠ some 0) : takeDue s = s := by
  have key : ∀ l : List Expiry, l.foldl takeIfDue s = s := by
    intro l
    induction l with
    | nil => rfl
    | cons x rest ih => simpa [takeIfDue, State.isDue, h x] using ih
  exact key _

@[simp] theorem reach_zero (s : State) : reach 0 s = s := rfl

/-- An expiry whose timer does not run does not occur (log 4). -/
theorem comeTo_of_stopped {s : State} {x : Expiry} (h : s.ticksLeft x = none) : comeTo s x = s := by
  simp [comeTo, h]

/-- An expiry that is due is taken at once. -/
theorem comeTo_of_due {s : State} {x : Expiry} (h : s.ticksLeft x = some 0) : comeTo s x = expire s x := by
  simp [comeTo, h, takeIfDue, State.isDue]

variable {P : State → Prop}

theorem runEngine_keeps (engine : ∀ s, P s → P (engineStep s)) (n : Nat) (s : State) (h : P s) : P (runEngine n s) := by
  induction n generalizing s with
  | zero => exact h
  | succ n ih =>
    unfold runEngine
    split
    · exact h
    · exact ih _ (engine s h)

theorem takeIfDue_keeps (due : ∀ s x, P s → s.ticksLeft x = some 0 → P (expire s x)) (s : State) (x : Expiry) (h : P s) :
    P (takeIfDue s x) := by
  unfold takeIfDue
  split
  · next hd => exact due s x h (by simpa [State.isDue] using hd)
  · exact h

theorem takeDue_keeps (due : ∀ s x, P s → s.ticksLeft x = some 0 → P (expire s x)) (s : State) (h : P s) :
    P (takeDue s) := by
  have key : ∀ (l : List Expiry) (s : State), P s → P (l.foldl takeIfDue s) := by
    intro l
    induction l with
    | nil => exact fun s h => h
    | cons x rest ih => exact fun s h => ih _ (takeIfDue_keeps due s x h)
  exact key _ _ h

theorem settle_keeps (engine : ∀ s, P s → P (engineStep s))
    (due : ∀ s x, P s → s.ticksLeft x = some 0 → P (expire s x)) (s : State) (h : P s) : P (settle s) :=
  takeDue_keeps due _ (runEngine_keeps engine _ _ (takeDue_keeps due s h))

/-- What the engine's steps, the due expiries and the ticks keep, the passing of time keeps. -/
theorem reach_keeps (engine : ∀ s, P s → P (engineStep s))
    (due : ∀ s x, P s → s.ticksLeft x = some 0 → P (expire s x)) (tick : ∀ k s, P s → P (advance k s))
    (n : Nat) (s : State) (h : P s) : P (reach n s) := by
  have key : ∀ fuel n s, P s → P (passTicks fuel n s) := by
    intro fuel
    induction fuel with
    | zero => exact fun _ _ h => h
    | succ fuel ih =>
      intro n s h
      unfold passTicks
      split
      · exact h
      · exact ih _ _ (tick _ _ (settle_keeps engine due s h))
  exact key _ _ _ h

/-- And so does an expiry that comes at its boundary. -/
theorem comeTo_keeps (engine : ∀ s, P s → P (engineStep s))
    (due : ∀ s x, P s → s.ticksLeft x = some 0 → P (expire s x)) (tick : ∀ k s, P s → P (advance k s))
    (s : State) (x : Expiry) (h : P s) : P (comeTo s x) := by
  unfold comeTo
  split
  · exact h
  · exact takeIfDue_keeps due _ _ (reach_keeps engine due tick _ _ h)

end Sys2Proof.Machine
end

