-- ==== Sys2Proof/Laws/PerInstr.lean ====
section
/-! SUPPORT. Facts about each command as syntax. FrameLength: the frame of a well-formed command has an argument length
that Table 11-3 allows, so the receiver never refuses it with BAD_LENGTH or UNKNOWN_COMMAND (R193). -/

namespace Sys2Proof.Laws

/-- The argument length of a well-formed command's frame passes the check of Table 11-2's rows 4 and 5. -/
def FrameLength.Statement (i : Instr) : Prop :=
  i.wf = true → ∀ f, i.frame = some f → checkLength f.code f.args.length = none

/-- What has no command frame meets the statement. -/
theorem frameLength_of_no_frame {i : Instr} (h : i.frame = none) : FrameLength.Statement i := by
  intro _ f hf
  rw [h] at hf
  exact absurd hf (by simp)

/-- A command whose frame is known meets the statement by the check of that frame. -/
theorem frameLength_of_frame {i : Instr} {f : CommandFrame} (h : i.frame = some f)
    (hc : i.wf = true → checkLength f.code f.args.length = none) : FrameLength.Statement i := by
  intro hw g hg
  rw [h] at hg
  cases hg
  exact hc hw

/-- Two-byte fields take two bytes each. -/
theorem wordsBytes_length (ws : List Word) : (wordsBytes ws).length = 2 * ws.length := by
  induction ws with
  | nil => rfl
  | cons w rest ih =>
    simp only [wordsBytes, List.flatMap_cons, List.length_append, List.length_cons] at ih ⊢
    rw [ih]
    simp only [Word.bytes, List.length_cons, List.length_nil]
    omega

theorem FrameLength.deviceReset (cause : ResetCause) : FrameLength.Statement (.deviceReset cause) :=
  frameLength_of_no_frame rfl

theorem FrameLength.frameError (l : Link) (bytes : List Byte) : FrameLength.Statement (.frameError l bytes) :=
  frameLength_of_no_frame rfl

theorem FrameLength.collect (l : Link) (after : List Byte) : FrameLength.Statement (.collect l after) :=
  frameLength_of_no_frame rfl

theorem FrameLength.hello (l : Link) (seq : Byte) (lease : Word) (options : Byte) :
    FrameLength.Statement (.hello l seq lease options) :=
  frameLength_of_frame rfl (fun _ => rfl)

theorem FrameLength.status (l : Link) (seq : Byte) : FrameLength.Statement (.status l seq) :=
  frameLength_of_frame rfl (fun _ => rfl)

theorem FrameLength.create (l : Link) (seq : Byte) (name : Word) (kind depth mark policy : Byte)
    (code : AccessCode) (role : Byte) : FrameLength.Statement (.create l seq name kind depth mark policy code role) :=
  frameLength_of_frame rfl (fun _ => rfl)

theorem FrameLength.attach (l : Link) (seq : Byte) (name : Word) (role : Byte) (code : AccessCode) (options : Byte) :
    FrameLength.Statement (.attach l seq name role code options) :=
  frameLength_of_frame rfl (fun _ => rfl)

theorem FrameLength.detach (l : Link) (seq : Byte) (handle : Byte) : FrameLength.Statement (.detach l seq handle) :=
  frameLength_of_frame rfl (fun _ => rfl)

theorem FrameLength.purge (l : Link) (seq : Byte) (handle : Byte) : FrameLength.Statement (.purge l seq handle) :=
  frameLength_of_frame rfl (fun _ => rfl)

theorem FrameLength.channelInfo (l : Link) (seq : Byte) (handle : Byte) :
    FrameLength.Statement (.channelInfo l seq handle) :=
  frameLength_of_frame rfl (fun _ => rfl)

theorem FrameLength.post (l : Link) (seq : Byte) (handle : Byte) (tag : Word) (flags : Byte) (lifetime : Word)
    (payload : List Byte) : FrameLength.Statement (.post l seq handle tag flags lifetime payload) :=
  frameLength_of_frame rfl (fun h => by
    have h : payload.length ≤ 256 := of_decide_eq_true h
    have e : ([handle] ++ Word.bytes tag ++ [flags] ++ Word.bytes lifetime ++ payload).length = payload.length + 6 := by
      simp only [Word.bytes, List.length_append, List.length_cons, List.length_nil]
      omega
    have : (decide (6 ≤ payload.length + 6) && decide (payload.length + 6 ≤ 262)) = true := by
      simp only [Bool.and_eq_true, decide_eq_true_eq]
      omega
    have a : lengthAllowed 0x20 (payload.length + 6) = some true := congrArg some this
    show checkLength 0x20 ([handle] ++ Word.bytes tag ++ [flags] ++ Word.bytes lifetime ++ payload).length = none
    rw [e, checkLength, a])

theorem FrameLength.take (l : Link) (seq : Byte) (handle : Byte) (wait : Word) :
    FrameLength.Statement (.take l seq handle wait) :=
  frameLength_of_frame rfl (fun _ => rfl)

theorem FrameLength.readHand (l : Link) (seq : Byte) (slot : Byte) : FrameLength.Statement (.readHand l seq slot) :=
  frameLength_of_frame rfl (fun _ => rfl)

theorem FrameLength.release (l : Link) (seq : Byte) (slot : Byte) (source : Byte) (serial : Word) :
    FrameLength.Statement (.release l seq slot source serial) :=
  frameLength_of_frame rfl (fun _ => rfl)

theorem FrameLength.giveBack (l : Link) (seq : Byte) (slot : Byte) (source : Byte) (serial : Word) :
    FrameLength.Statement (.giveBack l seq slot source serial) :=
  frameLength_of_frame rfl (fun _ => rfl)

theorem FrameLength.cancelWait (l : Link) (seq : Byte) : FrameLength.Statement (.cancelWait l seq) :=
  frameLength_of_frame rfl (fun _ => rfl)

theorem FrameLength.setNotify (l : Link) (seq : Byte) (handle threshold : Byte) (wait : Word) (stats : Byte) :
    FrameLength.Statement (.setNotify l seq handle threshold wait stats) :=
  frameLength_of_frame rfl (fun _ => rfl)

theorem FrameLength.setFilter (l : Link) (seq : Byte) (handle mode : Byte) (content : List Word) :
    FrameLength.Statement (.setFilter l seq handle mode content) :=
  frameLength_of_frame rfl (fun h => by
    have h : content.length ≤ 4 := of_decide_eq_true h
    have e : ([handle, mode] ++ wordsBytes content).length = 2 * content.length + 2 := by
      rw [List.length_append, wordsBytes_length]
      simp only [List.length_cons, List.length_nil]
      omega
    have c : content.length = 0 ∨ content.length = 1 ∨ content.length = 2 ∨ content.length = 3 ∨
        content.length = 4 := by omega
    show checkLength 0x31 ([handle, mode] ++ wordsBytes content).length = none
    rw [e]
    rcases c with c | c | c | c | c <;> rw [c] <;> rfl)

theorem FrameLength.watch (l : Link) (seq : Byte) (handle : Byte) (tag mask : Word) (rearm : Byte) :
    FrameLength.Statement (.watch l seq handle tag mask rearm) :=
  frameLength_of_frame rfl (fun _ => rfl)

theorem FrameLength.unwatch (l : Link) (seq : Byte) (handle : Byte) : FrameLength.Statement (.unwatch l seq handle) :=
  frameLength_of_frame rfl (fun _ => rfl)

theorem FrameLength.hold (l : Link) (seq : Byte) (handle : Byte) : FrameLength.Statement (.hold l seq handle) :=
  frameLength_of_frame rfl (fun _ => rfl)

theorem FrameLength.resume (l : Link) (seq : Byte) (handle : Byte) : FrameLength.Statement (.resume l seq handle) :=
  frameLength_of_frame rfl (fun _ => rfl)

theorem FrameLength.peek (l : Link) (seq : Byte) (handle index : Byte) :
    FrameLength.Statement (.peek l seq handle index) :=
  frameLength_of_frame rfl (fun _ => rfl)

theorem FrameLength.readStats (l : Link) (seq : Byte) (handle clear : Byte) :
    FrameLength.Statement (.readStats l seq handle clear) :=
  frameLength_of_frame rfl (fun _ => rfl)

theorem FrameLength.readEvents (l : Link) (seq : Byte) (most : Byte) :
    FrameLength.Statement (.readEvents l seq most) :=
  frameLength_of_frame rfl (fun _ => rfl)

theorem FrameLength.dropEvents (l : Link) (seq : Byte) (number : Byte) :
    FrameLength.Statement (.dropEvents l seq number) :=
  frameLength_of_frame rfl (fun _ => rfl)

theorem FrameLength.readReceipts (l : Link) (seq : Byte) (most : Byte) :
    FrameLength.Statement (.readReceipts l seq most) :=
  frameLength_of_frame rfl (fun _ => rfl)

theorem FrameLength.dropReceipts (l : Link) (seq : Byte) (number : Byte) :
    FrameLength.Statement (.dropReceipts l seq number) :=
  frameLength_of_frame rfl (fun _ => rfl)

theorem FrameLength.lifetimeExpiry (r : RecId) : FrameLength.Statement (.lifetimeExpiry r) :=
  frameLength_of_no_frame rfl

theorem FrameLength.waitExpiry (p : Port) : FrameLength.Statement (.waitExpiry p) :=
  frameLength_of_no_frame rfl

theorem FrameLength.leaseExpiry (p : Port) (i : Slot) : FrameLength.Statement (.leaseExpiry p i) :=
  frameLength_of_no_frame rfl

theorem FrameLength.penaltyExpiry (p : Port) : FrameLength.Statement (.penaltyExpiry p) :=
  frameLength_of_no_frame rfl

theorem FrameLength.coalescingExpiry (p : Port) (h : Handle) : FrameLength.Statement (.coalescingExpiry p h) :=
  frameLength_of_no_frame rfl

theorem FrameLength.recordStep : FrameLength.Statement .recordStep :=
  frameLength_of_no_frame rfl

theorem FrameLength.completionStep : FrameLength.Statement .completionStep :=
  frameLength_of_no_frame rfl

theorem FrameLength.longTickBoundary : FrameLength.Statement .longTickBoundary :=
  frameLength_of_no_frame rfl

end Sys2Proof.Laws
end

