-- ==== Sys2Proof/Tests/Slice0.lean ====
section
/-! SUPPORT. Tests: ill-formed terms that the check refuses, the CRC and frames written out by hand, one or two steps of each
command on small states, and for every statement with hypotheses a state and operands that meet them all. -/

set_option Elab.async false

namespace Sys2Proof.Machine

/-! ## Small states -/

/-- A frame to a port, after CSn has been high long enough, with nothing between its beginning and its end. -/
def lk (p : Port) : Link := ⟨p, false, .whole⟩

/-- A message record of a channel, with an empty payload. -/
def mrec (st : RecState) (src : Port) (serial : Word) (c : ChanId) : MsgRecord :=
  { MsgRecord.free with state := st, ticket := ⟨src, serial⟩, channel := some c }

/-- An OPEN channel with no code and policy REFUSE. -/
def och (name : Word) (k : Kind) (depth : Nat) (list : List RecId) : Channel :=
  { Channel.free with state := .opened, name := name, kind := k, depthLimit := depth, list := list }

/-- An ACTIVE port with one attachment, H0. -/
def aport (x : Option Attachment) : PortState :=
  { PortState.reset with session := .active, epoch := 1, attachments := (Vector.replicate 8 none).set 0 x }

/-- An ACTIVE port with one attachment and hand slot H0. -/
def hport (x : Attachment) (i : HandSlot) : PortState :=
  { aport (some x) with slots := (Vector.replicate 4 HandSlot.empty).set 0 i }

/-- Four ports, and the tables. -/
def st (p0 p1 p2 p3 : PortState) (chs : List (Nat × Channel)) (rs : List (Nat × MsgRecord)) (q : List WorkEntry) : State :=
  { State.reset with ports := #v[p0, p1, p2, p3], channels := chs, records := rs, reclaim := q }

/-- Four ACTIVE ports and nothing else. -/
def sIdle : State := st (aport none) (aport none) (aport none) (aport none) [] [] []

/-- A producer, a consumer and a subscriber of channel record C0. -/
def prod0 : Attachment := Attachment.fresh 0 .producer
def cons0 : Attachment := Attachment.fresh 0 .consumer
def subs0 : Attachment := Attachment.fresh 0 .subscriber

/-- POINT channel with depth limit 3, code 5, M0 queued and due to expire, and M1 in hand at P1 with its lease run out. -/
def sPoint : State :=
  st (aport (some prod0)) (hport cons0 (.holding 1 0 ⟨0, 1⟩ (some 0))) (aport none) (aport none)
    [(0, { och 0x0341 .point 3 [0] with code := 5 })]
    [(0, { mrec .queued 0 0 0 with lifetime := some 1, expiring := true }), (1, mrec .inHand 0 1 0)] []

/-- POINT channel with an empty list; P1 waits on it with slot H0 reserved and its wait run out; P2 consumes too. -/
def sWait : State :=
  st (aport (some prod0)) { hport cons0 .reserved with parked := some ⟨0, 0, 0⟩ } (aport (some cons0)) (aport none)
    [(0, { och 0x0341 .point 3 [] with waiters := [1] })] [] []

/-- As `sWait`, held, with M0 queued. -/
def sHeld : State :=
  { sWait with
    channels := [(0, { och 0x0341 .point 3 [0] with waiters := [1], held := true })], records := [(0, mrec .queued 0 0 0)] }

/-- FANOUT channel: M0 is held by P1 and pending for P2, M1 is pending for both, M2 is UNLISTED and held by P1. -/
def sFan : State :=
  st (aport (some prod0))
    { aport (some subs0) with
      slots := #v[.holding 0 0 ⟨0, 0⟩ (some 0), .holding 2 0 ⟨0, 2⟩ none, .empty, .empty] }
    (aport (some { subs0 with filter := .exact [7] })) (aport none)
    [(0, och 0x0510 .fanout 3 [0, 1])]
    [(0, { mrec .listed 0 0 0 with pending := [⟨2, 0⟩], holders := [⟨1, 0⟩], taken := 1, lifetime := some 1,
                                   expiring := true }),
     (1, { mrec .listed 0 1 0 with pending := [⟨1, 0⟩, ⟨2, 0⟩], lifetime := some 1, expiring := true }),
     (2, { mrec .unlisted 0 2 0 with holders := [⟨1, 0⟩], taken := 1 })] []

/-- Full POINT channel with depth limit 1 and an overflow policy. -/
def sFull (v : Policy) : State :=
  st (aport (some prod0)) (aport none) (aport none) (aport none)
    [(0, { och 0x0341 .point 1 [0] with policy := v })] [(0, mrec .queued 0 0 0)] []

/-- PURGING POINT channel with some DOOMED records, purged by P0. -/
def sPurging (list : List RecId) (rs : List (Nat × MsgRecord)) : State :=
  st (aport (some prod0)) (aport none) (aport none) (aport none)
    [(0, { och 0x0341 .point 3 list with state := .purging, purger := some ⟨0, 0⟩ })] rs [⟨0, some 1⟩]

/-- CLOSING POINT channel with some DOOMED records. -/
def sClosing (list : List RecId) (rs : List (Nat × MsgRecord)) : State :=
  st (aport none) (aport none) (aport none) (aport none)
    [(0, { och 0x0341 .point 3 list with state := .closing })] rs [⟨0, none⟩]

/-- POINT channel with one attachment, and some queued records. -/
def sLast (list : List RecId) (rs : List (Nat × MsgRecord)) : State :=
  st (aport (some prod0)) (aport none) (aport none) (aport none) [(0, och 0x0341 .point 3 list)] rs []

/-- POINT channel with an empty list; P1 waits on it, and P2 holds M1 with its lease run out. -/
def sBack : State :=
  st (aport (some prod0)) { hport cons0 .reserved with parked := some ⟨0, 0, 9⟩, lease := 7 }
    (hport cons0 (.holding 1 0 ⟨0, 1⟩ (some 0))) (aport none)
    [(0, { och 0x0341 .point 3 [] with waiters := [1] })] [(1, mrec .inHand 0 1 0)] []

/-- FANOUT channel with an empty list; P1 and P2 wait on it, P2 for tag 7 alone, and P3 subscribes. -/
def sFanWait : State :=
  st (aport (some prod0)) { hport subs0 .reserved with parked := some ⟨0, 0, 9⟩ }
    { hport { subs0 with filter := .exact [7] } .reserved with parked := some ⟨0, 0, 9⟩ } (aport (some subs0))
    [(0, { och 0x0510 .fanout 3 [] with waiters := [1, 2] })] [] []

/-- As `sFanWait`, held; M0 is pending for P1, M1 for P1 and P3. -/
def sFanHeld : State :=
  { sFanWait with
    channels := [(0, { och 0x0510 .fanout 3 [0, 1] with waiters := [1, 2], held := true })]
    records := [(0, { mrec .listed 0 0 0 with pending := [⟨1, 0⟩] }),
                (1, { mrec .listed 0 1 0 with pending := [⟨1, 0⟩, ⟨3, 0⟩] })] }

/-- As `sFan`, full, with policy SHED and some holders of M0. -/
def sFanFull (held : Bool) : State :=
  let s := (sFan.modChan 0 (fun ch => { ch with depthLimit := 2, policy := .shed, roomMark := 1 })).modAtt ⟨0, 0⟩
    (fun u => { u with roomWanted := true })
  if held then s
  else (s.modMsg 0 (fun m => { m with holders := [] })).setSlot 1 0 .empty

/-- PURGING FANOUT channel; P1 holds M0, which is DOOMED. -/
def sFanPurging : State :=
  st (aport (some prod0)) (hport subs0 (.holding 0 0 ⟨0, 0⟩ none)) (aport none) (aport none)
    [(0, { och 0x0510 .fanout 3 [0] with state := .purging })]
    [(0, { mrec .doomed 0 0 0 with holders := [⟨1, 0⟩], taken := 1 })] [⟨0, some 1⟩]

/-- A channel is watched for tags that end in 07. -/
def watched (s : State) : State := s.modChan 0 (fun ch => { ch with watch := some ⟨7, 0xFF, false, ⟨0, 0⟩⟩ })

/-- The state after a command, reset if it stopped. -/
def after (i : Instr) (s : State) : State :=
  match exec i s with
  | .next t => t
  | _ => State.reset

/-- The state after a step, reset if it stopped. -/
def stepped (s : State) : State :=
  match step s with
  | .next t => t
  | _ => State.reset

/-- The result of a port's response record. -/
def answer (s : State) (p : Port) : Result := (s.port p).response.result

/-! ## What is well-formed -/

theorem test_wf_frame_error_of_collect : (Instr.frameError (lk 0) [0xC0, 0]).wf = false := by decide
theorem test_wf_frame_error_that_passes : (Instr.frameError (lk 0) (buildFrame 0x02 7 [])).wf = false := by decide +kernel
theorem test_wf_post_too_long : (Instr.post (lk 0) 0 0 0 0 0 (List.replicate 257 0)).wf = false := by decide +kernel
theorem test_wf_post_longest : (Instr.post (lk 0) 0 0 0 0 0 (List.replicate 256 0)).wf = true := by decide +kernel
theorem test_wf_set_filter_too_long : (Instr.setFilter (lk 0) 0 0 2 [1, 2, 3, 4, 5]).wf = false := by decide
theorem test_wf_set_filter_longest : (Instr.setFilter (lk 0) 0 0 2 [1, 2, 3, 4]).wf = true := by decide

/-! ## The small states meet the laws

Deciding a law as it stands runs through every record for every membership; these forms run through the members alone. -/

/-- `listsSound`, member by member. -/
def listsCheck (s : State) : Bool :=
  (List.finRange 32).all (fun c => decide (s.chan c).list.Nodup && (s.chan c).list.all (fun r =>
    decide ((s.msg r).channel = some c) && decide ((s.msg r).state = listState (s.chan c))))

/-- `slotsSound`, member by member. -/
def slotsCheck (s : State) : Bool :=
  (List.finRange 4).all (fun p => (List.finRange 4).all (fun i => s.slotSound p i)) &&
    s.holdings.all (fun x => s.holdings.all (fun y =>
      decide (x.2.2 = y.2.2 → (s.msg x.2.2).state = .inHand ∨ x.1 = y.1 → x = y)))

/-- `holdersSound`, member by member. -/
def holdersCheck (s : State) : Bool :=
  (List.finRange 256).all (fun r => decide (s.msg r).holders.Nodup &&
    decide ((s.msg r).state = .unlisted → (s.msg r).holders ≠ []) && (s.msg r).holders.all (fun a =>
      decide ((s.msg r).state = .listed ∨ (s.msg r).state = .unlisted ∨ (s.msg r).state = .doomed) &&
      ((List.finRange 4).any (fun i => match s.slot a.port i with
        | .holding q h _ _ => q == r && h == a.handle
        | _ => false) && !(s.msg r).pending.contains a)))

/-- `pendingSound`, member by member. -/
def pendingCheck (s : State) : Bool :=
  (List.finRange 256).all (fun r => decide (s.msg r).pending.Nodup &&
    decide ((s.msg r).pending ≠ [] ↔ (s.msg r).state = .listed) && (s.msg r).pending.all (fun a =>
      (s.att a).any (fun u => u.role == .subscriber && (s.msg r).channel == some u.channel)))

/-- `waitersParked`, member by member. -/
def waitersCheck (s : State) : Bool :=
  (List.finRange 32).all (fun c => decide (s.chan c).waiters.Nodup &&
    (s.chan c).waiters.all (fun p => decide ((s.parkedOn p).map Prod.fst = some c))) &&
  (List.finRange 4).all (fun p => decide (∀ w ∈ (s.port p).parked,
    (s.att ⟨p, w.handle⟩).any (fun u => (s.chan u.channel).waiters.contains p) = true))

/-- `lawful` from its member-by-member forms. -/
theorem lawful_of_checks {s : State} (h1 : s.attachedOpen) (h2 : s.rolesFit) (h3 : waitersCheck s = true)
    (h4 : s.nobodyWaits) (h5 : s.nobodyPends) (h6 : s.handsAgree) (h7 : s.reclaimAgrees) (h8 : listsCheck s = true)
    (h9 : slotsCheck s = true) (h10 : holdersCheck s = true) (h11 : pendingCheck s = true) (h12 : s.statesSound)
    (h13 : s.depthKept) (h14 : s.freeIsFree) : s.lawful := by
  simp only [waitersCheck, listsCheck, slotsCheck, holdersCheck, pendingCheck, List.all_eq_true, List.mem_finRange,
    true_implies, Bool.and_eq_true, decide_eq_true_eq, Bool.not_eq_true'] at h3 h8 h9 h10 h11
  exact ⟨⟨h1, h2, h3, h4⟩, h5, h6, h7,
    ⟨h8, ⟨fun p i => h9.1 p i, h9.2⟩, fun r => ⟨(h10 r).1.1, (h10 r).1.2, (h10 r).2⟩,
      fun r => ⟨(h11 r).1.1, (h11 r).1.2, (h11 r).2⟩, h12⟩, h13, h14⟩

set_option maxRecDepth 10000
set_option synthInstance.maxHeartbeats 400000
set_option synthInstance.maxSize 1000

theorem lawful_sPoint : sPoint.lawful := by apply lawful_of_checks <;> decide +kernel
theorem lawful_sWait : sWait.lawful := by apply lawful_of_checks <;> decide +kernel
theorem lawful_sHeld : sHeld.lawful := by apply lawful_of_checks <;> decide +kernel
theorem lawful_sFan : sFan.lawful := by apply lawful_of_checks <;> decide +kernel
theorem lawful_sBack : sBack.lawful := by apply lawful_of_checks <;> decide +kernel
theorem lawful_sFanWait : sFanWait.lawful := by apply lawful_of_checks <;> decide +kernel
theorem lawful_sFanHeld : sFanHeld.lawful := by apply lawful_of_checks <;> decide +kernel
theorem lawful_sFanFull : ∀ held, (sFanFull held).lawful
  | true => by apply lawful_of_checks <;> decide +kernel
  | false => by apply lawful_of_checks <;> decide +kernel
theorem lawful_sFanPurging : sFanPurging.lawful := by apply lawful_of_checks <;> decide +kernel
theorem lawful_sFull : (sFull .shed).lawful := by apply lawful_of_checks <;> decide +kernel
theorem lawful_sPurging : (sPurging [0] [(0, mrec .doomed 0 0 0)]).lawful := by
  apply lawful_of_checks <;> decide +kernel
theorem lawful_sPurging_empty : (sPurging [] []).lawful := by apply lawful_of_checks <;> decide +kernel
theorem lawful_sClosing_empty : (sClosing [] []).lawful := by apply lawful_of_checks <;> decide +kernel
theorem lawful_sLast : (sLast [0] [(0, mrec .queued 0 0 0)]).lawful := by apply lawful_of_checks <;> decide +kernel
theorem lawful_sLast_empty : (sLast [] []).lawful := by apply lawful_of_checks <;> decide +kernel

/-- `cellsAgree` of a state with no cell in use. -/
theorem cellsAgree_of_no_cells {s : State} (hc : s.cells = []) (hp : ∀ p, (s.port p).charge = s.cellsOwned p)
    (hr : ∀ r : RecId, (s.msg r).chain = [] ∧ (s.msg r).length = 0) : s.cellsAgree := by
  refine ⟨by rw [hc]; rfl, hp, ?_, ?_, ?_, ?_, ?_, ?_⟩
  · intro r; simp [(hr r).1]
  · intro r q _ k hk; simp [(hr r).1] at hk
  · intro k; simp [hc, fun r => (hr r).1]
  · intro r _; exact (hr r).1
  · intro r; rw [(hr r).1, (hr r).2]; rfl
  · intro r; simp [(hr r).1, (hr r).2]

theorem cellsAgree_sPoint : sPoint.cellsAgree := by apply cellsAgree_of_no_cells <;> decide +kernel
theorem cellsAgree_sWait : sWait.cellsAgree := by apply cellsAgree_of_no_cells <;> decide +kernel
theorem cellsAgree_sFan : sFan.cellsAgree := by apply cellsAgree_of_no_cells <;> decide +kernel
theorem cellsAgree_sFull : (sFull .shed).cellsAgree := by apply cellsAgree_of_no_cells <;> decide +kernel

/-! ## Frames -/

theorem test_frame_hello : decodeFrame (lk 2)
    [0x01, 0x11, 0x00, 0x03, 0x00, 0x1E, 0x01, 0xBD, 0x0A] =
      some (.hello (lk 2) 0x11 0x001E 0x01) := by decide +kernel
theorem test_frame_status : decodeFrame (lk 2)
    [0x02, 0x07, 0x00, 0x00, 0xEC, 0x38] =
      some (.status (lk 2) 0x07) := by decide +kernel
theorem test_frame_create : decodeFrame (lk 2)
    [0x10, 0x01, 0x00, 0x0F, 0x0A, 0x01, 0x00, 0x08, 0x04, 0x00, 0x11, 0x22, 0x33, 0x44, 0x55, 0x66, 0x77, 0x88, 0x01, 0x67, 0x0E] =
      some (.create (lk 2) 0x01 0x0A01 0 8 4 0 0x1122334455667788 1) := by decide +kernel
theorem test_frame_attach : decodeFrame (lk 2)
    [0x11, 0x01, 0x00, 0x0C, 0x0A, 0x01, 0x02, 0x11, 0x22, 0x33, 0x44, 0x55, 0x66, 0x77, 0x88, 0x01, 0x6C, 0xA5] =
      some (.attach (lk 2) 0x01 0x0A01 2 0x1122334455667788 1) := by decide +kernel
theorem test_frame_post : decodeFrame (lk 2)
    [0x20, 0x09, 0x00, 0x08, 0x03, 0x12, 0x34, 0x02, 0x01, 0x00, 0xAA, 0xBB, 0xD9, 0x93] =
      some (.post (lk 2) 0x09 3 0x1234 2 0x0100 [0xAA, 0xBB]) := by decide +kernel
theorem test_frame_take : decodeFrame (lk 2)
    [0x21, 0x09, 0x00, 0x03, 0x03, 0x01, 0xF4, 0x31, 0x9D] =
      some (.take (lk 2) 0x09 3 0x01F4) := by decide +kernel
theorem test_frame_release : decodeFrame (lk 2)
    [0x22, 0x09, 0x00, 0x04, 0x01, 0x02, 0x00, 0x50, 0x25, 0x1B] =
      some (.release (lk 2) 0x09 1 2 0x0050) := by decide +kernel
theorem test_frame_giveBack : decodeFrame (lk 2)
    [0x23, 0x09, 0x00, 0x04, 0x01, 0x02, 0x00, 0x50, 0x62, 0xC8] =
      some (.giveBack (lk 2) 0x09 1 2 0x0050) := by decide +kernel
theorem test_frame_cancelWait : decodeFrame (lk 2)
    [0x25, 0x09, 0x00, 0x00, 0x91, 0x5A] =
      some (.cancelWait (lk 2) 0x09) := by decide +kernel
theorem test_frame_setNotify : decodeFrame (lk 2)
    [0x30, 0x09, 0x00, 0x05, 0x04, 0x20, 0x00, 0x14, 0x01, 0x97, 0xA6] =
      some (.setNotify (lk 2) 0x09 4 0x20 0x0014 1) := by decide +kernel
theorem test_frame_setFilter : decodeFrame (lk 2)
    [0x31, 0x09, 0x00, 0x06, 0x04, 0x02, 0x12, 0x34, 0x56, 0x78, 0xB6, 0x10] =
      some (.setFilter (lk 2) 0x09 4 2 [0x1234, 0x5678]) := by decide +kernel
theorem test_frame_watch : decodeFrame (lk 2)
    [0x40, 0x09, 0x00, 0x06, 0x04, 0xF0, 0x00, 0xFF, 0x00, 0x01, 0x16, 0x6F] =
      some (.watch (lk 2) 0x09 4 0xF000 0xFF00 1) := by decide +kernel
theorem test_frame_peek : decodeFrame (lk 2)
    [0x44, 0x09, 0x00, 0x02, 0x04, 0x3F, 0xAF, 0xC5] =
      some (.peek (lk 2) 0x09 4 0x3F) := by decide +kernel
theorem test_frame_dropEvents : decodeFrame (lk 2)
    [0x51, 0x09, 0x00, 0x01, 0x20, 0x4A, 0x4B] =
      some (.dropEvents (lk 2) 0x09 0x20) := by decide +kernel
theorem test_frame_bad_crc : frameCheck [0x02, 0x07, 0x00, 0x00, 0xEC, 0x39] = some .crcError := by decide +kernel
theorem test_frame_long : frameCheck [0x02, 0x07, 0x00, 0x00, 0xEC, 0x38, 0x00] = some .frameLength := by decide +kernel
theorem test_frame_short : frameCheck [0x02, 0x07, 0x00, 0x00, 0xEC] = some .frameAborted := by decide +kernel
theorem test_frame_unknown : frameCheck [0x03, 0x07, 0x00, 0x00, 0x9A, 0x8C] = some .unknownCommand := by decide +kernel
theorem test_frame_bad_length : frameCheck [0x02, 0x07, 0x00, 0x01, 0x01, 0x27, 0xB2] = some .badLength := by decide +kernel
theorem test_frame_collect : decodeFrame (lk 2) [0xC0, 0xFF, 0xFF] = some (.collect (lk 2) [0xFF, 0xFF]) := by decide +kernel
theorem test_frame_empty : decodeFrame (lk 2) [] = some (.frameError (lk 2) []) := by decide
theorem test_frame_bits : receiveBits (lk 2) [true, true, false, false, false, false, false, false, true, true] =
    some (.collect (lk 2) []) := by decide +kernel
theorem test_crc_check_value : crc16 [0x31, 0x32, 0x33, 0x34, 0x35, 0x36, 0x37, 0x38, 0x39] = 0x29B1 := by decide +kernel

/-! ## Resets and sessions -/

theorem test_reset_after_use : after (.deviceReset .lowPulse) sFan = State.reset := by decide +kernel
theorem test_hello_refuses_undefined_option : answer (after (.hello (lk 2) 9 0 2) State.reset) 2 = .badArgument := by
  decide +kernel
theorem test_hello_opens : ((after (.hello (lk 2) 9 0x1E 1) State.reset).port 2).response =
    ⟨9, 1, .ok, [2, 1, 0x4B, 0x32, 1, 0, 0x1E, 1, 32, 8, 1, 0, 4, 0, 32, 64, 4, 16, 32, 3, 0xE8, 100], true⟩ := by
  decide +kernel
theorem test_hello_tears_down : (after (.hello (lk 1) 9 0 0) sPoint).att ⟨1, 0⟩ = none ∧
    ((after (.hello (lk 1) 9 0 0) sPoint).chan 0).list = [1, 0] := by decide +kernel
theorem test_status : ((after (.status (lk 1) 9) sPoint).port 1).response.data =
    [1, 1, 4, 0, 0, 0, 0, 0, 0, 254, 0, 0, 0, 1, 0, 0] := by decide +kernel
theorem test_status_unsynced : answer (after (.status (lk 1) 9) State.reset) 1 = .notSynced := by decide +kernel
theorem test_collect : ((after (.collect (lk 1) (List.replicate 9 0xFF)) sPoint).port 1).sdo.length = 10 ∧
    ((after (.collect (lk 1) (List.replicate 9 0xFF)) sPoint).port 1).sdo.take 5 = [0x85, 0xC0, 0, 0, 0] := by
  decide +kernel
theorem test_frame_error : ((after (.frameError (lk 1) [0x02, 0x07, 0]) sPoint).port 1).response =
    ⟨7, 2, .frameAborted, [], true⟩ ∧ ((after (.frameError (lk 1) [0x02, 0x07, 0]) sPoint).port 1).sdo = [0x85, 2, 7] := by
  decide +kernel

/-- Byte 0 of a frame in flight is the status byte at its beginning, though an event joins before its end (R198). -/
theorem test_frame_in_flight :
    let s := after (.hold (lk 0) 9 0) (after (.status ⟨1, false, .begins⟩ 9) sPoint)
    s.statusByte 1 = 0xC5 ∧ ((after (.status ⟨1, false, .ends⟩ 9) s).port 1).sdo.take 5 = [0x85, 2, 9, 0, 0] ∧
      ((after (.status ⟨1, false, .ends⟩ 9) s).port 1).flight = none := by decide +kernel

/-- A frame of zero bytes reaches no outcome, but CSn has been high for 1 µs before it (R192). -/
theorem test_frame_of_zero_bytes :
    let s := sPoint.modPort 1 (fun q => { q with deaf := true })
    after (.frameError (lk 1) []) s = sPoint ∧ (Instr.frameError (lk 1) []).wf = true := by decide +kernel

/-! ## Channels -/

theorem test_create : ((after (.create (lk 3) 9 0x0A01 1 64 63 1 5 2) sPoint).port 3).response =
    ⟨9, 0x10, .ok, [0], true⟩ ∧
    (after (.create (lk 3) 9 0x0A01 1 64 63 1 5 2) sPoint).chan 1 =
      ⟨.opened, 0x0A01, .fanout, 64, 63, .shed, 5, [], [], false, none, Vector.replicate 8 0, none⟩ := by decide +kernel
theorem test_create_name_in_use : answer (after (.create (lk 3) 9 0x0341 0 65 0 0 0 0) sPoint) 3 = .badArgument ∧
    answer (after (.create (lk 3) 9 0x0341 0 64 0 0 0 0) sPoint) 3 = .nameInUse := by decide +kernel
theorem test_attach : ((after (.attach (lk 3) 9 0x0341 1 5 0) sPoint).port 3).response = ⟨9, 0x11, .ok, [0, 0], true⟩ ∧
    answer (after (.attach (lk 3) 9 0x0341 2 5 0) sPoint) 3 = .wrongKind := by decide +kernel
theorem test_attach_replay : ((after (.attach (lk 3) 9 0x0510 2 0 1) sFan).msg 0).pending = [⟨2, 0⟩, ⟨3, 0⟩] := by
  decide +kernel
theorem test_attach_third_bad_code :
    (((after (.attach (lk 3) 9 0x0341 1 6 0) (sPoint.modPort 3 (fun q => { q with badCodes := 2 }))).port 3).penalty,
      ((after (.attach (lk 3) 9 0x0341 1 6 0) (sPoint.modPort 3 (fun q => { q with badCodes := 2 }))).port 3).badCodes) =
      (some 100, 0) := by decide +kernel
theorem test_penalty_expiry : after (.penaltyExpiry 3) (sPoint.modPort 3 (fun q => { q with penalty := some 0 })) = sPoint := by
  decide +kernel
theorem test_detach_last : (after (.detach (lk 0) 9 0) (sLast [] [])).chan 0 = Channel.free := by decide +kernel
theorem test_detach_last_with_records :
    ((after (.detach (lk 0) 9 0) (sLast [0] [(0, mrec .queued 0 0 0)])).chan 0).state = .closing ∧
    (after (.detach (lk 0) 9 0) (sLast [0] [(0, mrec .queued 0 0 0)])).reclaim = [⟨0, none⟩] := by decide +kernel
theorem test_purge : ((after (.purge (lk 0) 9 0) sPoint).port 0).response = ⟨9, 0x13, .purgeStarted, [1], true⟩ ∧
    ((after (.purge (lk 0) 9 0) sPoint).msg 0).state = .doomed := by decide +kernel
theorem test_channel_info : ((after (.channelInfo (lk 1) 9 0) sPoint).port 1).response.data =
    [0, 3, 0x41, 0, 1, 3, 0, 0, 1, 2, 1, 0, 1, 1, 0, 0, 0, 0] := by decide +kernel

/-! ## Posting and taking -/

theorem test_post_queues : ((after (.post (lk 0) 9 0 7 2 4 [1, 2, 3]) sPoint).chan 0).list = [0, 2] ∧
    (after (.post (lk 0) 9 0 7 2 4 [1, 2, 3]) sPoint).payload 2 = [1, 2, 3] := by decide +kernel
theorem test_post_filters : ((after (.post (lk 0) 9 0 7 0 0 []) sFan).msg 3).pending = [⟨1, 0⟩, ⟨2, 0⟩] ∧
    ((after (.post (lk 0) 9 0 8 0 0 []) sFan).msg 3).pending = [⟨1, 0⟩] := by decide +kernel
theorem test_take_consumer : (after (.take (lk 1) 9 0 0) sPoint).slot 1 1 = .holding 0 0 ⟨0, 0⟩ none ∧
    ((after (.take (lk 1) 9 0 0) sPoint).port 1).response.data = [1, 0, 0, 0, 0, 3, 0x41, 0, 0, 0, 0, 0, 0, 0, 1] := by
  decide +kernel
theorem test_take_parks : ((after (.take (lk 2) 9 0 500) sWait).port 2).parked = some ⟨0, 0, 500⟩ ∧
    ((after (.take (lk 2) 9 0 500) sWait).chan 0).waiters = [1, 2] := by decide +kernel
theorem test_read_hand : answer (after (.readHand (lk 1) 9 0) sPoint) 1 = .ok ∧
    answer (after (.readHand (lk 1) 9 4) sPoint) 1 = .badSlot := by decide +kernel
theorem test_release : (after (.release (lk 1) 9 0 0 1) sPoint).msg 1 = MsgRecord.free ∧
    answer (after (.release (lk 1) 9 0 0 2) sPoint) 1 = .ticketMismatch := by decide +kernel
/-- The cells of a freed record return and its source port's charge falls; those of another record stay (R36). -/
theorem test_release_returns_cells :
    let s := after (.post (lk 0) 9 0 7 0 0 [1, 2, 3]) sWait
    let t := after (.release (lk 1) 9 0 0 0) (after (.post (lk 0) 9 0 7 0 0 [4]) s)
    s.cells.map Prod.fst = [0] ∧ (s.port 0).charge = 1 ∧ t.cells = [(1, [4])] ∧ (t.port 0).charge = 1 := by decide +kernel
theorem test_release_holder : (after (.release (lk 1) 9 0 0 0) sFan).msg 0 =
    { sFan.msg 0 with holders := [] } ∧ (after (.release (lk 1) 9 1 0 2) sFan).msg 2 = MsgRecord.free := by decide +kernel
theorem test_return_requeues : ((after (.giveBack (lk 1) 9 0 0 1) sPoint).chan 0).list = [1, 0] ∧
    ((after (.giveBack (lk 1) 9 0 0 1) sPoint).msg 1).redelivery = 1 := by decide +kernel
theorem test_return_poisons :
    ((after (.giveBack (lk 1) 9 0 0 1) (sPoint.modMsg 1 (fun m => { m with redelivery := 7 }))).port 1).response =
      ⟨9, 0x23, .ok, [1], true⟩ := by decide +kernel
theorem test_cancel_wait : ((after (.cancelWait (lk 1) 9) sWait).port 1).response =
    ⟨9, 0x25, .ok, [3, 0x41, 0, 0], true⟩ ∧ answer (after (.cancelWait (lk 2) 9) sWait) 2 = .noWait := by decide +kernel

/-- A message that comes back is bound to the first waiter, with a fresh lease (R101). -/
theorem test_return_binds : (after (.giveBack (lk 2) 9 0 0 1) sBack).slot 1 0 = .holding 1 0 ⟨0, 1⟩ (some 7) ∧
    ((after (.giveBack (lk 2) 9 0 0 1) sBack).chan 0).waiters = [] := by decide +kernel

/-- A post binds the parked subscribers whose filters pass; the others await it (R102). -/
theorem test_fanout_binds : (after (.post (lk 0) 9 0 8 0 0 []) sFanWait).msg 0 =
    { mrec .listed 0 0 0 with tag := 8, pending := [⟨3, 0⟩], holders := [⟨1, 0⟩], taken := 1 } ∧
    ((after (.post (lk 0) 9 0 8 0 0 []) sFanWait).chan 0).waiters = [2] := by decide +kernel

/-- A full FANOUT channel with policy SHED unlists a head that is held, and its subscriber lags (R124, R125). -/
theorem test_fanout_shed : ((after (.post (lk 0) 9 0 7 0 0 []) (sFanFull true)).msg 0).state = .unlisted ∧
    (after (.post (lk 0) 9 0 7 0 0 []) (sFanFull false)).msg 0 ≠ (sFanFull false).msg 0 ∧
    ((after (.post (lk 0) 9 0 7 0 0 []) (sFanFull true)).att ⟨2, 0⟩).map (fun u => (u.lag, u.lagReported)) = some (1, true) := by
  decide +kernel

/-! ## Notification, filters, inspection -/

theorem test_set_notify : answer (after (.setNotify (lk 1) 9 0 32 0 1) sPoint) 1 = .ok ∧
    answer (after (.setNotify (lk 1) 9 0 33 0 1) sPoint) 1 = .badArgument := by decide +kernel
theorem test_set_notify_producer : answer (after (.setNotify (lk 0) 9 0 1 0 0) sPoint) 0 = .wrongRole := by decide +kernel
theorem test_set_filter : (after (.setFilter (lk 1) 9 0 1 [0x0402]) sFan).att ⟨1, 0⟩ =
    some { subs0 with filter := .hash 0x0402 } ∧
    answer (after (.setFilter (lk 1) 9 0 1 []) sFan) 1 = .badArgument := by decide +kernel
theorem test_set_filter_role : answer (after (.setFilter (lk 0) 9 0 0 []) sFan) 0 = .wrongRole := by decide +kernel
theorem test_hash_index : [0x0000, 0x0001, 0x1234, 0x4321, 0x00F1, 0xFFFF].map hashIndex = [0, 1, 10, 10, 1, 15] := by
  decide +kernel
theorem test_watch : ((after (.watch (lk 0) 9 0 7 0xFF 1) sPoint).chan 0).watch = some ⟨7, 0xFF, true, ⟨0, 0⟩⟩ ∧
    answer (after (.watch (lk 1) 9 0 7 0xFF 1) (after (.watch (lk 0) 9 0 7 0xFF 1) sPoint)) 1 = .watchBusy := by
  decide +kernel
theorem test_unwatch : answer (after (.unwatch (lk 0) 9 0) sPoint) 0 = .notWatcher ∧
    answer (after (.unwatch (lk 0) 9 0) (after (.watch (lk 0) 9 0 7 0xFF 1) sPoint)) 0 = .ok := by decide +kernel
theorem test_watch_hit : ((after (.post (lk 0) 9 0 0x107 0 0 []) (after (.watch (lk 0) 9 0 7 0xFF 0) sPoint)).chan 0).held =
    true := by decide +kernel
theorem test_hold : ((after (.hold (lk 0) 9 0) sPoint).msg 0).expiring = false ∧
    ((after (.hold (lk 0) 9 0) sHeld).port 0).response = ⟨9, 0x42, .ok, [1], true⟩ := by decide +kernel
theorem test_resume : (after (.resume (lk 0) 9 0) sHeld).slot 1 0 = .holding 0 0 ⟨0, 0⟩ none ∧
    ((after (.resume (lk 0) 9 0) sHeld).port 1).events =
      [⟨.channelResumed, 0x0341, some 0, none, none, none⟩, ⟨.waitDone, 0x0341, some 0, some 0, some ⟨0, 0⟩, none⟩] := by
  decide +kernel
theorem test_peek : ((after (.peek (lk 0) 9 0 0) sPoint).port 0).response.data =
    [0, 0, 0, 0, 3, 0x41, 0, 0, 0, 0, 0, 0, 0, 1] ∧ answer (after (.peek (lk 0) 9 0 1) sPoint) 0 = .empty := by
  decide +kernel
theorem test_read_stats : answer (after (.readStats (lk 0) 9 0 2) sPoint) 0 = .badArgument ∧
    ((after (.readStats (lk 0) 9 0 1) sPoint).port 0).response.data = List.replicate 16 0 := by decide +kernel

/-! ## Queues -/

/-- Three events and two receipts wait at P1. -/
def sQueues : State :=
  sPoint.modPort 1 (fun q =>
    { q with events := [⟨.arrival, 0x0341, some 0, none, none, some 2⟩, ⟨.room, 0x0342, some 1, none, none, none⟩,
                        ⟨.leaseExpired, 0x0341, some 0, some 3, some ⟨2, 0x0102⟩, none⟩]
             receipts := [⟨⟨1, 5⟩, 0x0341, 7, .taken, 3⟩, ⟨⟨1, 6⟩, 0x0341, 8, .expired, 0⟩] })

theorem test_read_events : ((after (.readEvents (lk 1) 9 8) sQueues).port 1).response.data =
    [3, 3, 1, 3, 0x41, 0, 0, 0, 0, 0, 0, 2, 5, 3, 0x42, 1, 0, 0, 0, 0, 0, 0, 4, 3, 0x41, 0, 3, 2, 1, 2, 0, 0] ∧
    answer (after (.readEvents (lk 1) 9 9) sQueues) 1 = .badArgument := by decide +kernel
theorem test_drop_events : ((after (.dropEvents (lk 1) 9 3) sQueues).port 1).response = ⟨9, 0x51, .ok, [0], true⟩ ∧
    answer (after (.dropEvents (lk 1) 9 32) sQueues) 1 = .queueShort ∧
    answer (after (.dropEvents (lk 1) 9 33) sQueues) 1 = .badArgument := by decide +kernel
theorem test_read_receipts : ((after (.readReceipts (lk 1) 9 1) sQueues).port 1).response.data =
    [2, 1, 1, 0, 5, 3, 0x41, 0, 7, 1, 3] ∧ answer (after (.readReceipts (lk 1) 9 0) sQueues) 1 = .badArgument := by
  decide +kernel
theorem test_drop_receipts : ((after (.dropReceipts (lk 1) 9 1) sQueues).port 1).response = ⟨9, 0x53, .ok, [1], true⟩ ∧
    answer (after (.dropReceipts (lk 1) 9 16) sQueues) 1 = .queueShort ∧
    answer (after (.dropReceipts (lk 1) 9 17) sQueues) 1 = .badArgument := by decide +kernel
theorem test_overflow : placeEvent (placeEvent (List.replicate 31 ⟨.room, 1, none, none, none, none⟩)
    ⟨.room, 2, none, none, none, none⟩) ⟨.room, 3, none, none, none, none⟩ =
      List.replicate 31 ⟨.room, 1, none, none, none, none⟩ ++ [⟨.overflow, 0, none, none, none, some 2⟩] := by decide +kernel

/-! ## Timers and the reclaim engine -/

theorem test_lifetime_expiry : (after (.lifetimeExpiry 0) sPoint).msg 0 = MsgRecord.free ∧
    ((after (.lifetimeExpiry 0) sFan).msg 0).state = .unlisted := by decide +kernel
theorem test_wait_expiry : ((after (.waitExpiry 1) sWait).port 1).events =
    [⟨.waitExpired, 0x0341, some 0, none, none, none⟩] ∧ ((after (.waitExpiry 1) sWait).chan 0).waiters = [] := by
  decide +kernel
theorem test_lease_expiry : ((after (.leaseExpiry 1 0) sPoint).chan 0).list = [1, 0] ∧
    (((after (.leaseExpiry 1 0) sPoint).port 1).events.map Event.kind).head? = some .leaseExpired := by decide +kernel

/-- P1's consumer has two unnotified arrivals and its coalescing timer has run out. -/
def sCoalescing : State :=
  sPoint.modAtt ⟨1, 0⟩ (fun u => { u with threshold := 4, wait := 20, arrivals := 2, timer := some 0 })

theorem test_coalescing_expiry : ((after (.coalescingExpiry 1 0) sCoalescing).port 1).events =
    [⟨.arrival, 0x0341, some 0, none, none, some 2⟩] := by decide +kernel
theorem test_record_step : ((after .recordStep (sPurging [0] [(0, mrec .doomed 0 0 0)])).chan 0).list = [] ∧
    (after .recordStep (sPurging [0] [(0, mrec .doomed 0 0 0)])).records = [] := by decide +kernel
theorem test_completion_step_purging : ((after .completionStep (sPurging [] [])).chan 0).state = .opened ∧
    ((after .completionStep (sPurging [] [])).port 0).events = [⟨.purgeDone, 0x0341, some 0, none, none, some 1⟩] := by
  decide +kernel
theorem test_completion_step_closing : after .completionStep (sClosing [] []) = sIdle := by decide +kernel
theorem test_long_tick : (after .longTickBoundary { sPoint with tickPhase := 40 }).tickPhase = 0 ∧
    ((after .longTickBoundary (sPoint.modMsg 0 (fun m => { m with lifetime := some 3, expiring := false }))).msg 0).lifetime =
      some 2 := by decide +kernel
/-- A wait that runs out on the way is over when the long-tick boundary comes (R1, R104). -/
theorem test_long_tick_takes_what_falls_due :
    let s := after .longTickBoundary { sBack with records := [], ports := (sBack.setSlot 2 0 .empty).ports }
    (s.port 1).parked = none ∧ (s.port 1).events = [⟨.waitExpired, 0x0341, some 0, none, none, none⟩] ∧
      (s.chan 0).waiters = [] := by decide +kernel
/-- PURGING POINT channel with M0 DOOMED, and M1 in hand at P1, whose lease ends at the next tick boundary. -/
def sAmid : State :=
  { st (aport (some prod0)) (hport cons0 (.holding 1 0 ⟨0, 1⟩ (some 1))) (aport none) (aport none)
      [(0, { och 0x0341 .point 3 [0] with state := .purging, purger := some ⟨0, 0⟩ })]
      [(0, mrec .doomed 0 0 0), (1, mrec .inHand 0 1 0)] [⟨0, some 1⟩] with tickPhase := 99 }

/-- A boundary falls before the engine's first step: the lease ends while the channel is PURGING (R44, R48, R91). -/
theorem test_boundary_amid_engine_steps :
    let t := after (.leaseExpiry 1 0) sAmid
    (t.chan 0).list = [0] ∧ (t.msg 0).state = .doomed ∧ t.msg 1 = MsgRecord.free ∧ t.tickPhase = 0 ∧ t.stepsOwed = 49 := by
  decide +kernel
/-- What a boundary makes due comes before the steps that the engine owes, left to itself and where time passes (R44). -/
theorem test_due_before_engine_steps :
    let s := (sAmid.setSlot 1 0 (.holding 1 0 ⟨0, 1⟩ (some 0)))
    stepped { s with engineGap := 50 } = after (.leaseExpiry 1 0) { s with engineGap := 50 } ∧
    ((stepped { s with engineGap := 50 }).chan 0).list = [0] ∧
    ((settle { s with engineGap := 50 }).port 0).receipts = [] ∧ (settle { s with engineGap := 50 }).records = [] := by
  decide +kernel
/-- A whole tick is more than the two steps take: at its end the channel is OPEN, and the record comes back (R91). -/
theorem test_engine_steps_before_the_next_boundary :
    let t := after (.leaseExpiry 1 0) { sAmid with tickPhase := 98 }
    (t.chan 0).state = .opened ∧ (t.chan 0).list = [1] ∧ t.msg 0 = MsgRecord.free ∧ t.reclaim = [] := by decide +kernel
/-- The engine starts: a CLOSING channel with `n` DOOMED records, and behind it a PURGING one with an empty list, whose
record M255 is in hand at P1 with a lease that ends at the third boundary from now. -/
def sLong (n : Nat) : State :=
  { st (aport (some prod0)) (hport cons0 (.holding 255 0 ⟨0, 255⟩ (some 1))) (aport none) (aport none)
      [(0, { och 0x0341 .point 64 [] with state := .purging, purger := some ⟨0, 0⟩ }),
       (1, { och 0x0342 .point 64 (List.ofFn (fun k : Fin n => Fin.ofNat 256 k.val)) with state := .closing })]
      ((List.range n).map (fun k => (k, mrec .doomed 0 0 1)) ++ [(255, mrec .inHand 0 255 0)])
      [⟨1, none⟩, ⟨0, some 0⟩] with tickPhase := 97 }

/-- Up to the third boundary at least 99 steps are taken, 49 of them up to the second (R1, R44): `n` record steps and two
completion steps are done for `n` = 97, and the record comes back; for `n` = 98 they need not be. -/
theorem test_99_engine_steps_in_two_ticks :
    ((reach 2 (sLong 97)).chan 0).state = .purging ∧ ((reach 2 (sLong 97)).chan 1).list.length = 48 ∧
    (reach 2 (sLong 97)).engineGap = 51 ∧
    ((after (.leaseExpiry 1 0) (sLong 97)).chan 0).state = .opened ∧
    ((after (.leaseExpiry 1 0) (sLong 97)).chan 0).list = [255] := by decide +kernel
theorem test_100_engine_steps_need_longer :
    ((after (.leaseExpiry 1 0) (sLong 98)).chan 0).state = .purging ∧
    (after (.leaseExpiry 1 0) (sLong 98)).msg 255 = MsgRecord.free := by decide +kernel
/-- The engine works on a PURGING channel with an empty list; P1 holds the last attachments of that channel and of an OPEN
one with a record, the first of them through handle `h`. -/
def sLeave (h k : Handle) : State :=
  let p1 := { aport none with
    attachments := ((Vector.replicate 8 none).set h (some prod0)).set k (some { prod0 with channel := 1 }) }
  { st (aport none) p1 (aport none) (aport none)
      [(0, { och 0x0341 .point 3 [] with state := .purging, purger := some ⟨1, h⟩ }), (1, och 0x0342 .point 3 [0])]
      [(0, mrec .queued 0 0 1)] [⟨0, some 0⟩] with engineGap := 48 }

/-- An engine that has work before and after an event goes on without a gap, in whichever order channels leave and join its
work queue within the event (R1, R44). -/
theorem test_engine_goes_on_within_an_event :
    (after (.hello (lk 1) 9 0 0) (sLeave 0 1)).reclaim = [⟨1, none⟩] ∧
    (after (.hello (lk 1) 9 0 0) (sLeave 0 1)).engineGap = 48 ∧
    (after (.hello (lk 1) 9 0 0) (sLeave 1 0)).reclaim = [⟨1, none⟩] ∧
    (after (.hello (lk 1) 9 0 0) (sLeave 1 0)).engineGap = 48 ∧
    (after (.hello (lk 1) 9 0 0) { sLeave 0 1 with reclaim := [] }).engineGap = 0 := by decide +kernel
theorem test_idle_expires : stepped sWait = after (.waitExpiry 1) sWait := by decide +kernel
theorem test_idle_ticks : stepped { sIdle with tickPhase := 99 } = sIdle := by decide +kernel

/-! ## The hypotheses of the statements are met -/

theorem step_eq_stepped (s : State) (h : ∃ t, step s = .next t) : step s = .next (stepped s) := by
  obtain ⟨t, ht⟩ := h
  rw [stepped, ht]

theorem witness_ResetEmptiesThePart : ResetCause.powerOn ≠ .shortPulse ∧ ResetCause.lowPulse ≠ .shortPulse := by decide

theorem witness_FramesDecodeToTheirCommands : (Instr.setFilter (lk 2) 9 4 2 [1, 2, 3, 4]).wf = true ∧
    encodeFrame (.setFilter (lk 2) 9 4 2 [1, 2, 3, 4]) =
      some (lk 2, buildFrame 0x31 9 [4, 2, 0, 1, 0, 2, 0, 3, 0, 4]) := by decide +kernel

theorem witness_FailedFrameChecksOnlyAnswer : ([0, 0, 0] : List Byte) ≠ [] ∧ ([0, 0, 0] : List Byte).length < 4 ∧
    (Instr.frameError (lk 1) [2]).wf = true ∧ frameCheck [2] = some .frameAborted ∧ State.reset.takes (lk 1) = true := by
  decide +kernel

/-- P1 ignores what is clocked until CSn has been high for 1 µs. -/
def sDeaf : State := sPoint.modPort 1 (fun q => { q with deaf := true })

/-- A frame is in flight at P1; its status byte was 85. -/
def sFlight : State := sPoint.modPort 1 (fun q => { q with flight := some 0x85 })

/-- A frame that comes too early at a receiver that ignores, the beginning of a frame, and an end with nothing in flight. -/
theorem witness_IgnoredFramesReachNoOutcome : sDeaf.takes ⟨1, true, .whole⟩ = false ∧
    linkOf (.status ⟨1, true, .whole⟩ 9) = some ⟨1, true, .whole⟩ ∧ (Instr.status ⟨1, true, .whole⟩ 9).wf = true ∧
    sPoint.takes ⟨1, false, .begins⟩ = false ∧ linkOf (.collect ⟨1, false, .begins⟩ []) = some ⟨1, false, .begins⟩ ∧
    sPoint.takes ⟨1, false, .ends⟩ = false ∧ linkOf (.frameError ⟨1, false, .ends⟩ []) = some ⟨1, false, .ends⟩ ∧
    (sDeaf.port (Link.port ⟨1, true, .whole⟩)).deaf = true := by decide +kernel

theorem witness_CommandFramesEchoAndAnswer_flight : (Instr.status ⟨1, false, .ends⟩ 9).frame =
    some ⟨⟨1, false, .ends⟩, 2, 9, []⟩ ∧ sFlight.takes ⟨1, false, .ends⟩ = true ∧
    (sFlight.port (Link.port ⟨1, false, .ends⟩)).flight = some 0x85 := by decide

theorem witness_CommandFramesEchoAndAnswer : (Instr.status (lk 1) 9).frame = some ⟨lk 1, 2, 9, []⟩ ∧
    State.reset.takes (lk 1) = true := by decide

theorem witness_RefusedCommandsOnlyAnswer : (Instr.status (lk 1) 9).frame = some ⟨lk 1, 2, 9, []⟩ ∧
    (Instr.status (lk 1) 9).wf = true ∧ State.reset.takes (lk 1) = true ∧ (State.reset.port 1).session = .unsynced ∧
    (⟨lk 1, 2, 9, []⟩ : CommandFrame).code ≠ 0x01 ∧ succeeds .notSynced = false ∧ leavesMark .notSynced = false ∧
    answer (after (.status (lk 1) 9) State.reset) 1 = .notSynced := by decide +kernel

theorem witness_OtherPortsKeepTheirSessions : (∀ cause, Instr.status (lk 1) 9 ≠ .deviceReset cause) ∧
    senderOf (.status (lk 1) 9) ≠ some 2 :=
  ⟨fun _ => nofun, by decide⟩

/-- With a record in hand to requeue, with one to bind to a waiter, and with records held and awaited. -/
theorem witness_HelloOpensASession : sPoint.takes (lk 1) = true ∧ sPoint.lawful ∧ sPoint.unsyncedEmpty ∧
    (sPoint.port 1).session = .active ∧ sBack.takes (lk 2) = true ∧ sBack.lawful ∧ sBack.unsyncedEmpty ∧
    (sBack.port 2).session = .active ∧ sFan.takes (lk 1) = true ∧ sFan.lawful ∧ sFan.unsyncedEmpty ∧
    (sFan.port 1).session = .active :=
  ⟨rfl, lawful_sPoint, by decide +kernel, rfl, rfl, lawful_sBack, by decide +kernel, rfl, rfl, lawful_sFan,
    by decide +kernel, rfl⟩

theorem witness_HelloOpensASession_unsynced : State.reset.takes (lk 1) = true ∧ State.reset.lawful ∧
    State.reset.unsyncedEmpty ∧ (State.reset.port 1).session = .unsynced :=
  ⟨rfl, by apply lawful_of_checks <;> decide +kernel, by decide +kernel, by decide⟩

/-- An option bit that is not defined, on an UNSYNCED and on an ACTIVE port: only the response record changes. -/
theorem witness_HelloOpensASession_refused : State.reset.takes (lk 1) = true ∧ sPoint.takes (lk 1) = true ∧
    (2 : Byte) ≠ 0 ∧ (2 : Byte) ≠ 1 ∧ (0x81 : Byte) ≠ 0 ∧ (0x81 : Byte) ≠ 1 ∧
    answer (after (.hello (lk 1) 9 0 2) State.reset) 1 = .badArgument ∧
    answer (after (.hello (lk 1) 9 0 0x81) sPoint) 1 = .badArgument ∧
    (after (.hello (lk 1) 9 0 0x81) sPoint).att ⟨1, 0⟩ = some cons0 := by decide +kernel

theorem witness_MessagesKeepTheirIdentity : (∀ cause, Instr.recordStep ≠ .deviceReset cause) ∧
    (∀ l seq h tag flags life payload, Instr.recordStep ≠ .post l seq h tag flags life payload) ∧ sPoint.cellsAgree :=
  ⟨fun _ => nofun, fun _ _ _ _ _ _ _ => nofun, cellsAgree_sPoint⟩

theorem witness_ready : sPoint.ready (lk 0) ∧ sPoint.ready (lk 1) ∧ sPoint.ready (lk 3) ∧ sWait.ready (lk 1) ∧
    sWait.ready (lk 2) ∧ sHeld.ready (lk 0) ∧ sFan.ready (lk 1) ∧ (sFull .shed).ready (lk 0) ∧ sIdle.ready (lk 3) := by
  decide

theorem witness_CollectShiftsOutTheResponse : State.reset.takes (lk 1) = true := rfl

/-- The depth limit and the room mark at the ends of their ranges. -/
theorem witness_CreateMakesAChannel : sPoint.ready (lk 3) ∧ (sPoint.port 3).penalty = none ∧ (0x0A01 : Word) ≠ 0 ∧
    kindOf 0 = some .point ∧ 1 ≤ (64 : Byte).toNat ∧ (64 : Byte).toNat ≤ 64 ∧ (63 : Byte).toNat < (64 : Byte).toNat ∧
    policyOf 1 = some .shed ∧ roleOf 1 = some .consumer ∧ roleSuits .consumer .point = true ∧
    (∀ d : ChanId, (sPoint.chan d).state ≠ .free → (sPoint.chan d).name ≠ 0x0A01) ∧
    sPoint.att ⟨(lk 3).port, 0⟩ = none ∧ (∀ j : Handle, j < 0 → sPoint.att ⟨(lk 3).port, j⟩ ≠ none) ∧
    (sPoint.chan 1).state = .free ∧ (∀ d : ChanId, d < 1 → (sPoint.chan d).state ≠ .free) := by decide +kernel

theorem witness_AttachJoinsAChannel : sPoint.ready (lk 3) ∧ sPoint.namesDiffer ∧ (sPoint.port 3).penalty = none ∧
    (0x0341 : Word) ≠ 0 ∧ roleOf 1 = some .consumer ∧ (sPoint.chan 0).name = 0x0341 ∧ (sPoint.chan 0).state = .opened ∧
    roleSuits .consumer (sPoint.chan 0).kind = true ∧
    (∀ j : Handle, ∀ u ∈ sPoint.att ⟨(lk 3).port, j⟩, u.channel = 0 → u.role ≠ .consumer) ∧
    (sPoint.chan 0).code = 5 ∧ sPoint.att ⟨(lk 3).port, 0⟩ = none ∧
    (∀ j : Handle, j < 0 → sPoint.att ⟨(lk 3).port, j⟩ ≠ none) := by decide +kernel

theorem witness_AttachJoinsAChannel_replay : sFan.ready (lk 3) ∧ sFan.namesDiffer ∧ (sFan.port 3).penalty = none ∧
    (0x0510 : Word) ≠ 0 ∧ roleOf 2 = some .subscriber ∧ (sFan.chan 0).name = 0x0510 ∧ (sFan.chan 0).state = .opened ∧
    roleSuits .subscriber (sFan.chan 0).kind = true ∧
    (∀ j : Handle, ∀ u ∈ sFan.att ⟨(lk 3).port, j⟩, u.channel = 0 → u.role ≠ .subscriber) ∧ (sFan.chan 0).code = 0 ∧
    sFan.att ⟨(lk 3).port, 0⟩ = none ∧ (0 : RecId) ∈ (sFan.chan 0).list ∧ (sFan.msg 0).state = .listed := by
  decide +kernel

/-- The checks of CREATE, each failing first. -/
theorem witness_CreateMakesAChannel_refusals : sPoint.ready (lk 3) ∧ sPoint.namesDiffer ∧
    (let s := sPoint.modPort 3 (fun q => { q with penalty := some 1 })
     answer (after (.create (lk 3) 9 0 2 0 0 2 0 3) s) 3 = .penalty) ∧
    [(0, 0, 64, 63, 1, 0), (1, 2, 64, 63, 1, 0), (1, 0, 0, 0, 1, 0), (1, 0, 65, 0, 1, 0), (1, 0, 64, 64, 1, 0), (1, 0, 64, 63, 2, 0),
      (1, 0, 64, 63, 1, 3), (1, 1, 64, 63, 1, 1), (1, 0, 64, 63, 1, 2)].all (fun (n, k, d, m, v, x) =>
        answer (after (.create (lk 3) 9 n k d m v 0 x) sPoint) 3 == .badArgument) = true ∧
    answer (after (.create (lk 3) 9 0x0341 1 64 63 1 0 2) (sClosing [] [])) 3 = .channelBusy ∧
    answer (after (.create (lk 3) 9 0x0341 1 64 63 1 0 2) sPoint) 3 = .nameInUse ∧
    answer (after (.create (lk 3) 9 1 1 64 63 1 0 2)
      (sPoint.modPort 3 (fun q => { q with attachments := Vector.replicate 8 (some prod0) }))) 3 = .noAttachSlot ∧
    answer (after (.create (lk 3) 9 1 1 64 63 1 0 2)
      { sIdle with channels := (List.range 32).map (fun n => (n, och (BitVec.ofNat 16 (n + 2)) .point 1 [])) }) 3 =
        .noChannelSlot := by decide +kernel

/-- The checks of ATTACH, each failing first. -/
theorem witness_AttachJoinsAChannel_refusals : sPoint.ready (lk 3) ∧ sPoint.namesDiffer ∧
    (let s := sPoint.modPort 3 (fun q => { q with penalty := some 1 })
     answer (after (.attach (lk 3) 9 0 3 0 2) s) 3 = .penalty) ∧
    [(0, 1, 0), (0x0341, 3, 0), (0x0341, 1, 2), (0x0341, 1, 1)].all (fun (n, x, o) =>
      answer (after (.attach (lk 3) 9 n x 5 o) sPoint) 3 == .badArgument) = true ∧
    answer (after (.attach (lk 3) 9 0x0342 1 5 0) sPoint) 3 = .noSuchName ∧
    answer (after (.attach (lk 3) 9 0x0341 1 5 0) (sClosing [] [])) 3 = .channelBusy ∧
    answer (after (.attach (lk 3) 9 0x0341 2 5 1) sPoint) 3 = .wrongKind ∧
    answer (after (.attach (lk 3) 9 0x0510 1 0 0) sFan) 3 = .wrongKind ∧
    answer (after (.attach (lk 1) 9 0x0341 1 6 0) sPoint) 1 = .alreadyAttached ∧
    answer (after (.attach (lk 3) 9 0x0341 1 6 0) sPoint) 3 = .badCode ∧
    answer (after (.attach (lk 3) 9 0x0341 1 5 0)
      (sPoint.modPort 3 (fun q => { q with attachments := Vector.replicate 8 (some prod0) }))) 3 = .noAttachSlot := by
  decide +kernel

theorem witness_ThirdBadCodeStartsThePenalty :
    let s := sPoint.modPort 3 (fun q => { q with badCodes := 2 })
    s.ready (lk 3) ∧ s.namesDiffer ∧ (s.port 3).penalty = none ∧ (0x0341 : Word) ≠ 0 ∧ roleOf 1 = some .consumer ∧
    (s.chan 0).name = 0x0341 ∧ (s.chan 0).state = .opened ∧ roleSuits .consumer (s.chan 0).kind = true ∧
    (∀ j : Handle, ∀ u ∈ s.att ⟨(lk 3).port, j⟩, u.channel = 0 → u.role ≠ .consumer) ∧
    (s.chan 0).code ≠ 0 ∧ (s.chan 0).code ≠ 6 ∧ (s.port 3).badCodes = 2 := by decide +kernel

/-- An ATTACH with REPLAY counts its wrong code too. -/
theorem witness_ThirdBadCodeStartsThePenalty_replay :
    let s := (sFan.modChan 0 (fun ch => { ch with code := 5 })).modPort 3 (fun q => { q with badCodes := 2 })
    s.ready (lk 3) ∧ s.namesDiffer ∧ (s.port 3).penalty = none ∧ (0x0510 : Word) ≠ 0 ∧ roleOf 2 = some .subscriber ∧
    (s.chan 0).name = 0x0510 ∧ (s.chan 0).state = .opened ∧ roleSuits .subscriber (s.chan 0).kind = true ∧
    (∀ j : Handle, ∀ u ∈ s.att ⟨(lk 3).port, j⟩, u.channel = 0 → u.role ≠ .subscriber) ∧
    (s.chan 0).code ≠ 0 ∧ (s.chan 0).code ≠ 6 ∧
    answer (after (.attach (lk 3) 9 0x0510 2 6 1) s) 3 = .badCode ∧
    ((after (.attach (lk 3) 9 0x0510 2 6 1) s).port 3).penalty = some 100 := by decide +kernel

theorem witness_ThirdBadCodeStartsThePenalty_runs :
    let s := sPoint.modPort 3 (fun q => { q with penalty := some 1 })
    let f : CommandFrame := ⟨lk 3, 0x11, 9, Word.bytes 0x0341 ++ [1] ++ codeBytes 5 ++ [0]⟩
    (Instr.attach (lk 3) 9 0x0341 1 5 0).frame = some f ∧ f.code = 0x11 ∧ s.ready f.link ∧
      (s.port f.link.port).penalty ≠ none ∧
    ((s.modPort 3 (fun q => { q with penalty := some 0 })).port 3).penalty = some 0 := by decide +kernel

/-- A last attachment with and without messages, of an OPEN and of a PURGING channel; one with a record to bind to a waiter;
and one with records held and awaited. -/
theorem witness_DetachFreesOrClosesTheChannel :
    ((sLast [] []).ready (lk 0) ∧ (sLast [] []).names (lk 0).port 0 0 prod0 ∧ (sLast [] []).lawful) ∧
    (let s := sLast [0] [(0, mrec .queued 0 0 0)]
     s.ready (lk 0) ∧ s.names (lk 0).port 0 0 prod0 ∧ s.lawful) ∧
    (let s := sPurging [0] [(0, mrec .doomed 0 0 0)]
     s.ready (lk 0) ∧ s.names (lk 0).port 0 0 prod0 ∧ s.lawful) ∧
    (sBack.ready (lk 2) ∧ sBack.names (lk 2).port 0 0 cons0 ∧ sBack.lawful) ∧
    (sFan.ready (lk 1) ∧ sFan.names (lk 1).port 0 0 subs0 ∧ sFan.lawful) :=
  ⟨⟨by decide, by decide, lawful_sLast_empty⟩, ⟨by decide, by decide, lawful_sLast⟩,
    ⟨by decide, by decide, lawful_sPurging⟩, ⟨by decide, by decide, lawful_sBack⟩, by decide, by decide, lawful_sFan⟩

/-- What the going of P2's consumer brings to P1, which waits (R101), and what its own queue gains. -/
theorem witness_DetachFreesOrClosesTheChannel_events :
    let t := after (.detach (lk 2) 9 0) sBack
    sBack.goneEvents t 2 (fun k => k == 0) 1 = [⟨.waitDone, 0x0341, some 0, some 0, some ⟨0, 1⟩, none⟩] ∧
    (t.port 1).events = [⟨.waitDone, 0x0341, some 0, some 0, some ⟨0, 1⟩, none⟩] ∧
    sBack.goneEvents t 2 (fun k => k == 0) 2 = [] ∧ t.engineGap = sBack.engineGap := by decide +kernel

theorem witness_PurgeDoomsTheList : sPoint.ready (lk 0) ∧ sPoint.names (lk 0).port 0 0 prod0 ∧ sPoint.lawful ∧
    (sPoint.chan 0).state = .opened ∧ (sPoint.chan 0).list ≠ [] :=
  ⟨by decide, by decide, lawful_sPoint, by decide, by decide⟩

theorem witness_PurgeDoomsTheList_empty : sWait.ready (lk 0) ∧ sWait.names (lk 0).port 0 0 prod0 ∧ sWait.lawful ∧
    (sWait.chan 0).state = .opened ∧ (sWait.chan 0).list = [] :=
  ⟨by decide, by decide, lawful_sWait, by decide, by decide⟩

theorem witness_PurgeDoomsTheList_busy :
    let s := sPurging [0] [(0, mrec .doomed 0 0 0)]
    s.ready (lk 0) ∧ s.names (lk 0).port 0 0 prod0 ∧ s.lawful ∧ (s.chan 0).state ≠ .opened :=
  ⟨by decide, by decide, lawful_sPurging, by decide⟩

theorem lawful_watched : (watched sPoint).lawful := by apply lawful_of_checks <;> decide +kernel
theorem cellsAgree_watched : (watched sPoint).cellsAgree := by apply cellsAgree_of_no_cells <;> decide +kernel

/-- The longest payload, with no waiter; a tag that hits the watch, with a waiter; a held channel, with a waiter. -/
theorem witness_PostQueuesAPointMessage : sPoint.ready (lk 0) ∧ sPoint.names (lk 0).port 0 0 prod0 ∧ sPoint.lawful ∧
    sPoint.cellsAgree ∧ (List.replicate 256 (0 : Byte)).length ≤ 256 ∧ (3 : Byte) &&& 0xFC = 0 ∧ prod0.role = .producer ∧
    (sPoint.chan 0).state = .opened ∧ (sPoint.chan 0).kind = .point ∧ (sPoint.chan 0).waiters = [] ∧
    sPoint.resources (lk 0).port 3 (List.replicate 256 0) ∧ sPoint.occupancy 0 < (sPoint.chan 0).depthLimit :=
  ⟨by decide, by decide, lawful_sPoint, cellsAgree_sPoint, by decide +kernel⟩

theorem witness_PostQueuesAPointMessage_hit : (watched sPoint).ready (lk 0) ∧
    (watched sPoint).names (lk 0).port 0 0 prod0 ∧ (watched sPoint).lawful ∧ (watched sPoint).cellsAgree ∧
    ((watched sPoint).chan 0).state = .opened ∧ ((watched sPoint).chan 0).kind = .point ∧
    ((watched sPoint).chan 0).hit 0x107 = true ∧ ((watched sPoint).chan 0).hit 0x108 = false ∧
    (watched sPoint).resources (lk 0).port 3 [1] ∧ (watched sPoint).occupancy 0 < ((watched sPoint).chan 0).depthLimit ∧
    sHeld.ready (lk 0) ∧ sHeld.names (lk 0).port 0 0 prod0 ∧ sHeld.lawful ∧ (sHeld.chan 0).held = true ∧
    sHeld.resources (lk 0).port 3 [1] ∧ sHeld.occupancy 0 < (sHeld.chan 0).depthLimit :=
  ⟨by decide, by decide, lawful_watched, cellsAgree_watched, by decide, by decide, by decide +kernel,
    by decide +kernel, by decide +kernel, by decide +kernel, by decide, by decide, lawful_sHeld,
    by decide +kernel⟩

theorem witness_PostBindsToTheFirstWaiter : sWait.ready (lk 0) ∧ sWait.names (lk 0).port 0 0 prod0 ∧ sWait.lawful ∧
    sWait.cellsAgree ∧ ([] : List Byte).length ≤ 256 ∧ (0 : Byte) &&& 0xFC = 0 ∧ prod0.role = .producer ∧
    (sWait.chan 0).state = .opened ∧ (sWait.chan 0).kind = .point ∧ (sWait.chan 0).hit 8 = false ∧
    (sWait.chan 0).held = false ∧ (sWait.chan 0).waiters = 1 :: [] ∧
    sWait.resources (lk 0).port 0 [] ∧ sWait.occupancy 0 < (sWait.chan 0).depthLimit :=
  ⟨by decide, by decide, lawful_sWait, cellsAgree_sWait, by decide +kernel⟩

theorem witness_FanoutPostFormsThePendingSet : sFan.ready (lk 0) ∧ sFan.names (lk 0).port 0 0 prod0 ∧ sFan.lawful ∧
    sFan.cellsAgree ∧ (3 : Byte) &&& 0xFC = 0 ∧ prod0.role = .producer ∧ (sFan.chan 0).state = .opened ∧
    (sFan.chan 0).kind = .fanout ∧ sFan.resources (lk 0).port 3 [1, 2] ∧
    sFan.occupancy 0 < (sFan.chan 0).depthLimit :=
  ⟨by decide, by decide, lawful_sFan, cellsAgree_sFan, by decide +kernel⟩

theorem cellsAgree_sFanWait : sFanWait.cellsAgree := by apply cellsAgree_of_no_cells <;> decide +kernel

/-- Two takers and one pending; one taker; a hit of the watch, which lets nobody take. -/
theorem witness_FanoutPostFormsThePendingSet_takers : sFanWait.ready (lk 0) ∧ sFanWait.names (lk 0).port 0 0 prod0 ∧
    sFanWait.lawful ∧ sFanWait.cellsAgree ∧ (sFanWait.chan 0).state = .opened ∧ (sFanWait.chan 0).kind = .fanout ∧
    sFanWait.resources (lk 0).port 3 [1, 2] ∧ sFanWait.occupancy 0 < (sFanWait.chan 0).depthLimit ∧
    sFanWait.takers 0 7 = [⟨1, 0⟩, ⟨2, 0⟩] ∧ sFanWait.awaiting 0 7 = [⟨3, 0⟩] ∧ sFanWait.takers 0 8 = [⟨1, 0⟩] ∧
    sFanWait.awaiting 0 8 = [⟨3, 0⟩] ∧ (watched sFanWait).takers 0 7 = [] ∧
    (watched sFanWait).awaiting 0 7 = [⟨1, 0⟩, ⟨2, 0⟩, ⟨3, 0⟩] :=
  ⟨by decide, by decide, lawful_sFanWait, cellsAgree_sFanWait, by decide +kernel⟩

/-- A full channel refuses; so does a receipt queue without room, at its last entry. -/
theorem witness_RefusedPostsUseNothing : (sFull .refuse).ready (lk 0) ∧ (sFull .refuse).names (lk 0).port 0 0 prod0 ∧
    (0 : Byte) &&& 0xFC = 0 ∧ prod0.role = .producer ∧ ((sFull .refuse).chan 0).state = .opened ∧
    ((sFull .refuse).chan 0).depthLimit ≤ (sFull .refuse).occupancy 0 ∧ ((sFull .refuse).chan 0).policy = .refuse ∧
    ¬ (sPoint.modPort 0 (fun q => { q with reservations := 16 })).resources 0 2 [] := by decide +kernel

/-- Steps 1 to 4: a handle that names nothing, a reserved flag, a role that does not post, a channel that is not OPEN. -/
theorem witness_RefusedPostsUseNothing_checks : sPoint.ready (lk 0) ∧ sPoint.namesNone (lk 0).port 1 ∧
    sPoint.namesNone (lk 0).port 8 ∧ sPoint.ready (lk 1) ∧ sPoint.names (lk 1).port 0 0 cons0 ∧ (4 : Byte) &&& 0xFC ≠ 0 ∧
    cons0.role ≠ .producer ∧ (sPurging [] []).ready (lk 0) ∧ (sPurging [] []).names (lk 0).port 0 0 prod0 ∧
    ((sPurging [] []).chan 0).state ≠ .opened ∧
    answer (after (.post (lk 1) 9 1 0 4 0 []) sPoint) 1 = .badHandle ∧
    answer (after (.post (lk 1) 9 0 0 4 0 []) sPoint) 1 = .badArgument ∧
    answer (after (.post (lk 1) 9 0 0 3 0 []) sPoint) 1 = .wrongRole ∧
    answer (after (.post (lk 0) 9 0 0 3 0 []) (sPurging [] [])) 0 = .channelBusy := by decide +kernel

theorem witness_FullShedChannelDropsItsHead : (sFull .shed).ready (lk 0) ∧ (sFull .shed).names (lk 0).port 0 0 prod0 ∧
    (sFull .shed).lawful ∧ (sFull .shed).cellsAgree ∧ (sFull .shed).receiptsBounded ∧ (2 : Byte) &&& 0xFC = 0 ∧
    prod0.role = .producer ∧ ((sFull .shed).chan 0).state = .opened ∧ ((sFull .shed).chan 0).kind = .point ∧
    ((sFull .shed).chan 0).policy = .shed ∧ ((sFull .shed).chan 0).held = false ∧ ((sFull .shed).chan 0).list = 0 :: [] ∧
    (sFull .shed).resources (lk 0).port 2 [1] ∧ ((sFull .shed).chan 0).depthLimit ≤ (sFull .shed).occupancy 0 :=
  ⟨by decide, by decide, lawful_sFull, cellsAgree_sFull, by decide +kernel, by decide +kernel⟩

theorem cellsAgree_sFanFull : ∀ held, (sFanFull held).cellsAgree
  | true => by apply cellsAgree_of_no_cells <;> decide +kernel
  | false => by apply cellsAgree_of_no_cells <;> decide +kernel

/-- A FANOUT head that somebody holds, and one that nobody holds. -/
theorem witness_FullShedChannelDropsItsHead_fanout : ∀ held, (sFanFull held).lawful ∧ (sFanFull held).cellsAgree ∧
    (sFanFull held).ready (lk 0) ∧ (sFanFull held).names (lk 0).port 0 0 { prod0 with roomWanted := true } ∧
    (sFanFull held).receiptsBounded ∧ ((sFanFull held).chan 0).state = .opened ∧ ((sFanFull held).chan 0).kind = .fanout ∧
    ((sFanFull held).chan 0).policy = .shed ∧ ((sFanFull held).chan 0).held = false ∧
    ((sFanFull held).chan 0).list = 0 :: [1] ∧ (sFanFull held).resources (lk 0).port 2 [1] ∧
    ((sFanFull held).chan 0).depthLimit ≤ (sFanFull held).occupancy 0 ∧ ((sFanFull held).msg 0).pending = [⟨2, 0⟩] ∧
    (((sFanFull held).msg 0).holders = [] ↔ held = false) := by
  intro held
  refine ⟨lawful_sFanFull held, cellsAgree_sFanFull held, ?_⟩
  cases held <;> decide +kernel

theorem witness_WatchHitHoldsTheChannel :
    ((after (.watch (lk 0) 9 0 7 0xFF 0) sPoint).chan 0).watch = some ⟨7, 0xFF, false, ⟨0, 0⟩⟩ ∧
    (0x107 : Word) &&& 0xFF = 7 &&& 0xFF ∧ (0x108 : Word) &&& 0xFF ≠ 7 &&& 0xFF := by decide +kernel

theorem witness_TakeGivesTheHeadToAConsumer : sPoint.ready (lk 1) ∧ sPoint.names (lk 1).port 0 0 cons0 ∧ sPoint.lawful ∧
    cons0.role = .consumer ∧ (sPoint.chan 0).state = .opened ∧ (sPoint.chan 0).held = false ∧
    (sPoint.chan 0).list = 0 :: [] ∧ sPoint.slot (lk 1).port 1 = .empty ∧
    (∀ j : Slot, j < 1 → sPoint.slot (lk 1).port j ≠ .empty) :=
  ⟨by decide, by decide, lawful_sPoint, by decide +kernel⟩

theorem witness_TakeGivesASubscriberItsOldest : sFan.ready (lk 1) ∧ sFan.names (lk 1).port 0 0 subs0 ∧ sFan.lawful ∧
    subs0.role = .subscriber ∧ (sFan.chan 0).state = .opened ∧ (sFan.chan 0).held = false ∧
    (sFan.chan 0).list = [0] ++ 1 :: [] ∧ (⟨1, 0⟩ : AttRef) ∈ (sFan.msg 1).pending ∧
    (⟨1, 0⟩ : AttRef) ∉ (sFan.msg 0).pending ∧ sFan.slot (lk 1).port 2 = .empty ∧
    (∀ j : Slot, j < 2 → sFan.slot (lk 1).port j ≠ .empty) :=
  ⟨by decide, by decide, lawful_sFan, by decide +kernel⟩

/-- A handle that names nothing, a producer, a channel that is not OPEN, and a port with no EMPTY slot. -/
theorem witness_TakeThatFindsNothingParks_checks : sPoint.ready (lk 1) ∧ sPoint.namesNone (lk 1).port 1 ∧
    sPoint.ready (lk 0) ∧ sPoint.names (lk 0).port 0 0 prod0 ∧ prod0.role = .producer ∧
    (let s := sPoint.modChan 0 (fun ch => { ch with state := .purging })
     s.names (lk 1).port 0 0 cons0 ∧ (s.chan cons0.channel).state ≠ .opened ∧
     answer (after (.take (lk 1) 9 0 0) s) 1 = .channelBusy) ∧
    (let s := sPoint.modPort 1 (fun q => { q with slots := Vector.replicate 4 .reserved })
     s.names (lk 1).port 0 0 cons0 ∧ (∀ i : Slot, s.slot (lk 1).port i ≠ .empty) ∧
     answer (after (.take (lk 1) 9 0 0) s) 1 = .handFull) ∧
    answer (after (.take (lk 0) 9 0 0) sPoint) 0 = .wrongRole ∧ answer (after (.take (lk 1) 9 8 0) sPoint) 1 = .badHandle := by
  decide +kernel

theorem witness_TakeThatFindsNothingParks : sWait.ready (lk 2) ∧ sWait.names (lk 2).port 0 0 cons0 ∧ sWait.lawful ∧
    cons0.role ≠ .producer ∧ (sWait.chan 0).state = .opened ∧ (sWait.chan 0).list = [] ∧
    sWait.slot (lk 2).port 0 = .empty ∧ (∀ j : Slot, j < 0 → sWait.slot (lk 2).port j ≠ .empty) ∧
    (sWait.port 2).parked = none :=
  ⟨by decide, by decide, lawful_sWait, by decide +kernel⟩

theorem witness_TakeThatFindsNothingParks_active : sHeld.ready (lk 1) ∧ sHeld.names (lk 1).port 0 0 cons0 ∧ sHeld.lawful ∧
    cons0.role ≠ .producer ∧ (sHeld.chan 0).state = .opened ∧ (sHeld.chan 0).held = true ∧
    sHeld.slot (lk 1).port 1 = .empty ∧ (∀ j : Slot, j < 1 → sHeld.slot (lk 1).port j ≠ .empty) ∧
    (sHeld.port 1).parked ≠ none :=
  ⟨by decide, by decide, lawful_sHeld, by decide +kernel⟩

theorem witness_holdsAt : sPoint.holdsAt (lk 1).port 0 0 1 0 ⟨0, 1⟩ ∧ sFan.holdsAt (lk 1).port 0 0 0 0 ⟨0, 0⟩ ∧
    sFan.holdsAt (lk 1).port 1 1 2 0 ⟨0, 2⟩ :=
  ⟨⟨rfl, some 0, rfl⟩, ⟨rfl, some 0, rfl⟩, ⟨rfl, none, rfl⟩⟩

/-- Slot bytes of an EMPTY slot, of a RESERVED one and above 3 name nothing. -/
theorem witness_ReadHandReadsTheSlot : sPoint.holdsAt (lk 1).port 0 0 1 0 ⟨0, 1⟩ ∧ sPoint.ready (lk 1) ∧
    (sPoint.msg 1).channel = some 0 ∧ sPoint.holdsNone (lk 1).port 4 ∧ sPoint.holdsNone (lk 1).port 3 ∧
    sWait.holdsNone (lk 1).port 0 ∧ sWait.ready (lk 1) :=
  ⟨⟨rfl, some 0, rfl⟩, by decide⟩

theorem witness_ReleaseEndsTheHold : sPoint.ready (lk 1) ∧ sPoint.holdsAt (lk 1).port 0 0 1 0 ⟨0, 1⟩ ∧
    (0 : Byte).toNat = (⟨0, 1⟩ : Ticket).source.val ∧ sPoint.lawful ∧ (sPoint.msg 1).channel = some 0 ∧
    (sPoint.chan 0).kind = .point ∧ (2 : Word) ≠ (⟨0, 1⟩ : Ticket).serial :=
  ⟨by decide, ⟨rfl, some 0, rfl⟩, rfl, lawful_sPoint, by decide⟩

/-- An event that frees a message of a channel with a producer that wants room tells it so, and one that frees none does not. -/
theorem witness_ReleaseEndsTheHold_room :
    let s := sPoint.modAtt ⟨0, 0⟩ (fun u => { u with roomWanted := true })
    let t := { s with records := [(0, s.msg 0)] }.modChan 0 (fun ch => { ch with roomMark := 1 })
    s.makesRoom t 0 = true ∧ (endOfEvent s t).att ⟨0, 0⟩ = some prod0 ∧
      ((endOfEvent s t).port 0).events = [⟨.room, 0x0341, some 0, none, none, none⟩] ∧ endOfEvent s s = s := by
  decide +kernel

theorem witness_ReleaseEndsTheHold_fanout : sFan.ready (lk 1) ∧ sFan.holdsAt (lk 1).port 1 1 2 0 ⟨0, 2⟩ ∧
    sFan.holdsAt (lk 1).port 0 0 0 0 ⟨0, 0⟩ ∧ sFan.lawful ∧ (sFan.msg 0).channel = some 0 ∧ (sFan.msg 2).channel = some 0 ∧
    (sFan.chan 0).kind = .fanout ∧ (sFan.msg 2).state = .unlisted ∧ (sFan.msg 0).state = .listed :=
  ⟨by decide, ⟨rfl, none, rfl⟩, ⟨rfl, some 0, rfl⟩, lawful_sFan, by decide⟩

theorem witness_ReturnRequeuesPoisonsOrDiscards : sPoint.ready (lk 1) ∧ sPoint.holdsAt (lk 1).port 0 0 1 0 ⟨0, 1⟩ ∧
    (0 : Byte).toNat = (⟨0, 1⟩ : Ticket).source.val ∧ sPoint.lawful ∧ (sPoint.msg 1).channel = some 0 ∧
    (sPoint.chan 0).waiters = [] ∧ (sPoint.msg 1).redelivery < 7 :=
  ⟨by decide, ⟨rfl, some 0, rfl⟩, rfl, lawful_sPoint, by decide⟩

theorem witness_ReturnRequeuesPoisonsOrDiscards_bind : sBack.ready (lk 2) ∧ sBack.holdsAt (lk 2).port 0 0 1 0 ⟨0, 1⟩ ∧
    (0 : Byte).toNat = (⟨0, 1⟩ : Ticket).source.val ∧ sBack.lawful ∧ (sBack.msg 1).channel = some 0 ∧
    (sBack.chan 0).kind = .point ∧ (sBack.chan 0).state = .opened ∧ (sBack.chan 0).held = false ∧
    (sBack.msg 1).redelivery < 7 ∧ (sBack.chan 0).waiters = 1 :: [] :=
  ⟨by decide, ⟨rfl, some 0, rfl⟩, rfl, lawful_sBack, by decide⟩

/-- M1 at redelivery count 7. -/
def sPoison : State := sPoint.modMsg 1 (fun m => { m with redelivery := 7 })

theorem witness_ReturnRequeuesPoisonsOrDiscards_poison : sPoison.ready (lk 1) ∧
    sPoison.holdsAt (lk 1).port 0 0 1 0 ⟨0, 1⟩ ∧ sPoison.lawful ∧ (sPoison.msg 1).channel = some 0 ∧
    (sPoison.chan 0).waiters = [] ∧ (sPoison.msg 1).redelivery = 7 :=
  ⟨by decide, ⟨rfl, some 0, rfl⟩, by apply lawful_of_checks <;> decide +kernel, by decide +kernel⟩

/-- The clauses about payloads have their own premise: the cells agree in the states above. -/
theorem witness_cellsAgree : sBack.cellsAgree ∧ sPoison.cellsAgree ∧
    (sPurging [0] [(0, mrec .doomed 0 0 0)]).cellsAgree ∧ sFanPurging.cellsAgree := by
  refine ⟨?_, ?_, ?_, ?_⟩ <;> apply cellsAgree_of_no_cells <;> decide +kernel

theorem witness_CancelWaitEndsTheParkedTake : sWait.ready (lk 1) ∧ sWait.handsAgree ∧
    (sWait.port 1).parked = some ⟨0, 0, 0⟩ ∧ sWait.att ⟨(lk 1).port, 0⟩ = some cons0 ∧ sWait.ready (lk 2) ∧
    (sWait.port 2).parked = none :=
  ⟨by decide, lawful_sWait.2.2.1, by decide +kernel⟩

theorem witness_handle : sPoint.ready (lk 1) ∧ sPoint.names (lk 1).port 0 0 cons0 ∧
    (∀ h : Handle, (7 : Byte).toNat = h.val → sPoint.att ⟨(lk 1).port, h⟩ = none) ∧
    (∀ h : Handle, (8 : Byte).toNat = h.val → sPoint.att ⟨(lk 1).port, h⟩ = none) := by decide +kernel

theorem witness_SetFilterReplacesTheFilter : sFan.ready (lk 1) ∧ sFan.names (lk 1).port 0 0 subs0 ∧
    ([1, 2, 3, 4] : List Word).length ≤ 4 ∧ 4 < ([1, 2, 3, 4, 5] : List Word).length := by decide +kernel

theorem witness_HoldSetsTheHeldFlag : sPoint.ready (lk 0) ∧ sPoint.names (lk 0).port 0 0 prod0 ∧
    (sPoint.chan 0).held = false ∧ (sHeld.chan 0).held = true ∧ sHeld.ready (lk 0) ∧
    sHeld.names (lk 0).port 0 0 prod0 := by decide +kernel

theorem witness_ResumePairsRecordsWithWaiters : sHeld.ready (lk 0) ∧ sHeld.names (lk 0).port 0 0 prod0 ∧ sHeld.lawful ∧
    (sHeld.chan 0).held = true ∧ (sHeld.chan 0).kind = .point ∧
    ((0, 1) : RecId × Port) ∈ ((sHeld.chan 0).list.zip (sHeld.chan 0).waiters).take 1 :=
  ⟨by decide, by decide, lawful_sHeld, by decide +kernel⟩

/-- P1 takes M0, which is then UNLISTED; nothing is pending for P2. -/
theorem witness_ResumePairsRecordsWithWaiters_fanout : sFanHeld.ready (lk 0) ∧ sFanHeld.names (lk 0).port 0 0 prod0 ∧
    sFanHeld.lawful ∧ (sFanHeld.chan 0).held = true ∧ (sFanHeld.chan 0).kind = .fanout ∧
    (sFanHeld.chan 0).state = .opened ∧ sFanHeld.firstFor 0 1 = some 0 ∧ sFanHeld.firstFor 0 2 = none ∧
    sFanHeld.resumedBy 0 0 = [⟨1, 0⟩] ∧ sFanHeld.resumedBy 0 1 = [] :=
  ⟨by decide, by decide, lawful_sFanHeld, by decide +kernel⟩

theorem witness_InspectionReadsTheChannel : sPoint.ready (lk 0) ∧ sPoint.names (lk 0).port 0 0 prod0 ∧
    (sPoint.chan 0).state = .opened ∧ (sPoint.chan 0).list[(0 : Byte).toNat]? = some 0 ∧
    (sPoint.msg 0).channel = some 0 ∧ (sPoint.chan 0).list[(63 : Byte).toNat]? = none := by decide +kernel

theorem witness_EventsArePlacedOrCounted :
    let q : List Event := List.replicate 31 ⟨.room, 1, none, none, none, none⟩
    (∀ x ∈ q, x.kind ≠ .overflow) ∧ q.length = 31 ∧ (q.take 30).length < 31 := by decide +kernel

theorem witness_ArrivalsAreGathered : sCoalescing.att ⟨1, 0⟩ =
    some { cons0 with threshold := 4, wait := 20, arrivals := 2, timer := some 0 } := by decide +kernel

theorem witness_WaitAndCoalescingTimersExpire : sWait.handsAgree ∧ (sWait.port 1).parked = some ⟨0, 0, 0⟩ ∧
    sWait.att ⟨1, 0⟩ = some cons0 ∧ (sCoalescing.att ⟨1, 0⟩).bind Attachment.timer = some 0 :=
  ⟨lawful_sWait.2.2.1, by decide +kernel⟩

theorem witness_LifetimesExpire : sPoint.lawful ∧ (sPoint.msg 0).expiring = true ∧ (sPoint.msg 0).lifetime ≠ none ∧
    (sPoint.msg 0).channel = some 0 ∧ 0 ∈ (sPoint.chan 0).list ∧ (sPoint.chan 0).state = .opened ∧
    (sPoint.chan 0).held = false ∧ (sPoint.msg 0).holders = [] ∧
    sPoint.lifetimeRunning (sPoint.msg 1) = false :=
  ⟨lawful_sPoint, by decide +kernel⟩

theorem witness_LifetimesExpire_held : sFan.lawful ∧ (sFan.msg 0).expiring = true ∧ (sFan.msg 0).lifetime ≠ none ∧
    (sFan.msg 0).channel = some 0 ∧ 0 ∈ (sFan.chan 0).list ∧ (sFan.chan 0).state = .opened ∧
    (sFan.chan 0).held = false ∧ (sFan.msg 0).holders ≠ [] :=
  ⟨lawful_sFan, by decide +kernel⟩

theorem witness_LeaseExpiryHandsBack : sPoint.lawful ∧ sPoint.slot 1 0 = .holding 1 0 ⟨0, 1⟩ (some 0) ∧
    (sPoint.msg 1).channel = some 0 ∧ (sPoint.chan 0).kind = .point ∧ (sPoint.chan 0).state = .opened ∧
    (sPoint.msg 1).redelivery < 7 ∧ (sPoint.chan 0).waiters = [] :=
  ⟨lawful_sPoint, by decide +kernel⟩

theorem witness_LeaseExpiryHandsBack_bind : sBack.lawful ∧ sBack.slot 2 0 = .holding 1 0 ⟨0, 1⟩ (some 0) ∧
    (sBack.msg 1).channel = some 0 ∧ (sBack.chan 0).kind = .point ∧ (sBack.chan 0).state = .opened ∧
    (sBack.msg 1).redelivery < 7 ∧ (sBack.chan 0).held = false ∧ (sBack.chan 0).waiters = 1 :: [] :=
  ⟨lawful_sBack, by decide +kernel⟩

/-- As `sPoint`, PURGING. -/
def sPurgingHand : State :=
  { sPoint with
    channels := [(0, { och 0x0341 .point 3 [0] with state := .purging })]
    records := [(0, mrec .doomed 0 0 0), (1, mrec .inHand 0 1 0)], reclaim := [⟨0, some 1⟩] }

/-- At redelivery count 7, and in a PURGING channel. -/
theorem witness_LeaseExpiryHandsBack_freed : sPoison.lawful ∧ sPoison.slot 1 0 = .holding 1 0 ⟨0, 1⟩ (some 0) ∧
    (sPoison.msg 1).channel = some 0 ∧ (sPoison.chan 0).kind = .point ∧ 7 ≤ (sPoison.msg 1).redelivery ∧
    (sPoison.chan 0).state = .opened ∧ (after (.leaseExpiry 1 0) sPoison).msg 1 = MsgRecord.free ∧
    sPurgingHand.lawful ∧ sPurgingHand.slot 1 0 = .holding 1 0 ⟨0, 1⟩ (some 0) ∧
    (sPurgingHand.msg 1).channel = some 0 ∧ (sPurgingHand.chan 0).kind = .point ∧
    (sPurgingHand.chan 0).state ≠ .opened ∧ (after (.leaseExpiry 1 0) sPurgingHand).msg 1 = MsgRecord.free ∧
    (after (.leaseExpiry 1 0) sPurgingHand).counter 0 .discarded = 1 :=
  ⟨by apply lawful_of_checks <;> decide +kernel, by decide +kernel, by decide +kernel, by decide +kernel, by decide +kernel,
    by decide +kernel, by decide +kernel, by apply lawful_of_checks <;> decide +kernel, by decide +kernel⟩

/-- FANOUT records: LISTED, UNLISTED with one holder, DOOMED. -/
theorem witness_LeaseExpiryHandsBack_fanout :
    let s := sFan.setSlot 1 1 (.holding 2 0 ⟨0, 2⟩ (some 0))
    let d := sFanPurging.setSlot 1 0 (.holding 0 0 ⟨0, 0⟩ (some 0))
    s.lawful ∧ s.slot 1 0 = .holding 0 0 ⟨0, 0⟩ (some 0) ∧ (s.msg 0).channel = some 0 ∧ (s.chan 0).kind = .fanout ∧
    s.slot 1 1 = .holding 2 0 ⟨0, 2⟩ (some 0) ∧ (s.msg 2).channel = some 0 ∧
    (after (.leaseExpiry 1 0) s).msg 0 = { s.msg 0 with holders := [] } ∧
    (after (.leaseExpiry 1 1) s).msg 2 = MsgRecord.free ∧
    d.lawful ∧ d.slot 1 0 = .holding 0 0 ⟨0, 0⟩ (some 0) ∧ (d.msg 0).channel = some 0 ∧ (d.chan 0).kind = .fanout ∧
    (after (.leaseExpiry 1 0) d).msg 0 = { d.msg 0 with holders := [] } :=
  ⟨by apply lawful_of_checks <;> decide +kernel, by decide +kernel, by decide +kernel, by decide +kernel, by decide +kernel,
    by decide +kernel, by decide +kernel, by decide +kernel, by apply lawful_of_checks <;> decide +kernel, by decide +kernel⟩

/-- Every timer still has boundaries to come. -/
def sTimers : State :=
  { (((sHeld.modPort 1 (fun q => { q with parked := some ⟨0, 0, 65535⟩, penalty := some 100 })).setSlot 1 1
      (.holding 5 0 ⟨0, 5⟩ (some 2))).modAtt ⟨2, 0⟩
        (fun u => { u with threshold := 4, arrivals := 1, wait := 9, timer := some 9 })).modChan 0
          (fun ch => { ch with held := false }) with
    records := [(0, { mrec .queued 0 0 0 with lifetime := some 3 })], tickPhase := 99 }

theorem witness_ExpiriesComeAtTheirBoundary : sTimers.ranged ∧ (sTimers.port 1).parked = some ⟨0, 0, 65535⟩ ∧
    sTimers.att ⟨1, 0⟩ ≠ none ∧ (sTimers.att ⟨2, 0⟩).bind Attachment.timer = some 9 ∧
    sTimers.slot 1 1 = .holding 5 0 ⟨0, 5⟩ (some 2) ∧ (sTimers.port 1).penalty = some 100 ∧
    sTimers.lifetimeRunning (sTimers.msg 0) = true ∧ (sTimers.msg 0).lifetime = some 3 ∧
    (sTimers.msg 0).expiring = false ∧ sTimers.pending = [] ∧ sTimers.reclaim = [] ∧
    sTimers.ticksLeft (.wait 1) = some 65535 ∧ sTimers.ticksLeft (.wait 2) = none := by decide +kernel

/-- Nothing falls due before a boundary; something is due at once; nothing is due now. -/
theorem witness_ExpiriesComeAtTheirBoundary_due : allExpiries.all (fun x => (sTimers.ticksLeft x).all (fun k => 9 ≤ k)) = true ∧
    sPoint.pending = [] ∧ sPoint.reclaim = [] ∧ sPoint.ticksLeft (.lifetime 0) = some 0 ∧
    allExpiries.all (fun x => sTimers.ticksLeft x != some 0) = true := by decide +kernel

/-- A timer with a boundary to come at which it is due, and one that is due while the state is in its ranges. -/
theorem witness_ExpiriesComeAtTheirBoundary_nearer : sTimers.ranged ∧ sTimers.ticksLeft (.coalescing 2 0) = some 9 ∧
    sTimers.ticksLeft (.lifetime 0) = some 201 ∧ (advance 9 sTimers).ticksLeft (.coalescing 2 0) = some 0 ∧
    (advance 201 sTimers).ticksLeft (.lifetime 0) = some 0 ∧ sPoint.ranged ∧
    sPoint.ticksLeft (.lifetime 0) = some 0 := by decide +kernel

/-- An idle engine with steps owed, a busy one that owes none, and a busy one that owes some, with nothing due. -/
theorem witness_ExpiriesComeAtTheirBoundary_busy : sTimers.reclaim = [] ∧ sAmid.stepsOwed = 0 ∧ sAmid.reclaim ≠ [] ∧
    sAmid.pending = [] ∧ allExpiries.all (fun x => sAmid.ticksLeft x != some 0) = true ∧
    { sAmid with engineGap := 50 }.reclaim ≠ [] ∧ { sAmid with engineGap := 50 }.stepsOwed ≠ 0 ∧
    { sAmid with engineGap := 50 }.pending = [] ∧
    allExpiries.all (fun x => { sAmid with engineGap := 50 }.ticksLeft x != some 0) = true ∧
    allExpiries.all (fun x => (stepped { sAmid with engineGap := 50 }).ticksLeft x != some 0) = true ∧
    stepped { sAmid with engineGap := 50 } = after .recordStep { sAmid with engineGap := 50 } := by decide +kernel

theorem witness_LongTickLowersTheLifetimes : sTimers.tickPhase < 100 ∧ sTimers.reclaim = [] ∧
    allExpiries.all (fun x => (sTimers.ticksLeft x).all (fun k => 100 - sTimers.tickPhase ≤ k)) = true := by decide +kernel

theorem witness_ReclaimStepsDoTheirWork :
    let s := sPurging [0] [(0, mrec .doomed 0 0 0)]
    s.lawful ∧ s.reclaim = ⟨0, some 1⟩ :: [] ∧ (s.chan 0).list = 0 :: [] :=
  ⟨lawful_sPurging, by decide +kernel⟩

theorem witness_ReclaimStepsDoTheirWork_held : sFanPurging.lawful ∧ sFanPurging.reclaim = ⟨0, some 1⟩ :: [] ∧
    (sFanPurging.chan 0).list = 0 :: [] ∧ (sFanPurging.msg 0).holders ≠ [] ∧
    (after .recordStep sFanPurging).msg 0 =
      { sFanPurging.msg 0 with state := .unlisted, receipted := true } :=
  ⟨lawful_sFanPurging, by decide +kernel⟩

theorem witness_ReclaimStepsDoTheirWork_completion : (sPurging [] []).lawful ∧
    (sPurging [] []).reclaim = ⟨0, some 1⟩ :: [] ∧ ((sPurging [] []).chan 0).list = [] ∧
    ((sPurging [] []).chan 0).state = .purging ∧ (sClosing [] []).lawful ∧
    (sClosing [] []).reclaim = ⟨0, none⟩ :: [] ∧ ((sClosing [] []).chan 0).list = [] ∧
    ((sClosing [] []).chan 0).state = .closing :=
  ⟨lawful_sPurging_empty, rfl, rfl, rfl, lawful_sClosing_empty, rfl, rfl, rfl⟩

/-- A state with messages, holders and a command at the front of the queue. -/
def sBusy : State := { sFan with pending := [.release (lk 1) 9 1 0 2] }

theorem witness_invariants : sBusy.canonical ∧ sBusy.ranged ∧ sBusy.namesDiffer ∧ sBusy.countsBounded ∧ sBusy.sharedBounded ∧
    sBusy.receiptsBounded ∧ sBusy.unsyncedEmpty ∧ sBusy.handsAgree ∧ sBusy.reclaimAgrees := by decide +kernel

theorem witness_invariants_lawful : sBusy.lawful ∧ sBusy.channelsAgree ∧ sBusy.eventsFormed ∧
    step sBusy = .next (stepped sBusy) ∧ (stepped sBusy).records.length = 2 := by
  have h : sBusy.lawful := by apply lawful_of_checks <;> decide +kernel
  have e : ∀ p, (sBusy.port p).events = [] := by decide +kernel
  exact ⟨h, h.1, fun p => ⟨[], by simp, by decide, Or.inl (e p)⟩, step_eq_stepped _ ⟨_, rfl⟩, by decide +kernel⟩

theorem witness_ReclaimEngineDrains :
    let s := sPurging [0] [(0, mrec .doomed 0 0 0)]
    s.reclaimWork = 2 ∧ (stepped (stepped { s with pending := [.recordStep, .completionStep] })).reclaim = [] := by
  decide +kernel

end Sys2Proof.Machine
end

section
/-! SUPPORT. The family of 00_scope.md: what causes device reset (O4), and how time passes and expiries come at their
boundaries (O48). -/

namespace Sys2Proof.Machine

/-! ## Device reset (R2) -/

/-- A short pulse resets the part or only draws its choice, as the free value says (log 8). -/
theorem exec_deviceReset_shortPulse (s : State) :
    exec (.deviceReset .shortPulse) s =
      .next (if Config.shortPulseResets s.draws then resetPart { s with draws := s.draws + 1 }
        else { s with draws := s.draws + 1 }) := by
  show (if _ then _ else _ : Answer) = _
  split <;> rfl

/-- Settles O4: the two long causes reset in any case, the short pulse by the part's free choice. -/
theorem resetCausesAndTheShortPulse : Obligations.ResetCausesAndTheShortPulse := by
  intro s
  refine ⟨rfl, rfl, _, exec_deviceReset_shortPulse s, ?_⟩
  by_cases h : Config.shortPulseResets s.draws = true
  · exact Or.inl (if_pos h)
  · exact Or.inr (if_neg h)

/-! ## The clock: what passing boundaries does to a state

Read after `advance`, in addition to the lemmas of Laws/Commands.lean. -/

@[simp] theorem tickPhase_advance (n : Nat) (s : State) : (advance n s).tickPhase = (s.tickPhase + n) % 100 := rfl
theorem tickPhase_advance_lt (n : Nat) (s : State) : (advance n s).tickPhase < 100 := Nat.mod_lt _ (by decide)
@[simp] theorem pending_advance (n : Nat) (s : State) : (advance n s).pending = s.pending := rfl

/-- Whether a record's lifetime runs is a matter of the channels alone, and of the record's state and channel. -/
@[simp] theorem lifetimeRunning_advance (n : Nat) (s : State) (m : MsgRecord) :
    (advance n s).lifetimeRunning m = s.lifetimeRunning m := rfl

theorem lowerTimer_lowerTimer (m n : Nat) (t : Option Nat) : lowerTimer n (lowerTimer m t) = lowerTimer (m + n) t := by
  cases t <;> simp [lowerTimer, Nat.sub_sub]

theorem lowerTimer_zero (t : Option Nat) : lowerTimer 0 t = t := by
  cases t <;> simp [lowerTimer]

theorem lowerLease_lowerLease (m n : Nat) (x : HandSlot) : lowerLease n (lowerLease m x) = lowerLease (m + n) x := by
  cases x <;> simp [lowerLease, lowerTimer_lowerTimer]

theorem lowerLease_zero (x : HandSlot) : lowerLease 0 x = x := by
  cases x <;> simp [lowerLease, lowerTimer_zero]

theorem advancePort_advancePort (m n j k : Nat) (q : PortState) :
    advancePort n k (advancePort m j q) = advancePort (m + n) (j + k) q := by
  have hl : lowerLease k ∘ lowerLease j = lowerLease (j + k) := funext (lowerLease_lowerLease j k)
  simp only [advancePort, lowerTimer_lowerTimer, Vector.map_map, hl, Option.map_map]
  congr 2
  · funext w; simp [Nat.sub_sub]
  · funext a; cases a <;> simp [lowerTimer_lowerTimer]

theorem advancePort_zero (q : PortState) : advancePort 0 0 q = q := by
  have hl : lowerLease 0 = id := funext lowerLease_zero
  have ha : (fun a : Option Attachment => a.map (fun t => { t with timer := lowerTimer 0 t.timer })) = id := by
    funext a; cases a <;> simp [lowerTimer_zero]
  have hp : q.parked.map (fun w => { w with timer := w.timer - 0 }) = q.parked := by simp
  rw [advancePort, hl, ha, hp, lowerTimer_zero, Vector.map_id, Vector.map_id]

/-- The count-down of a lifetime changes neither the record's state nor its channel. -/
@[simp] theorem state_lowerLifetime (k : Nat) (m : MsgRecord) : (lowerLifetime k m).state = m.state := by
  unfold lowerLifetime; split <;> [rfl; split <;> rfl]

@[simp] theorem channel_lowerLifetime (k : Nat) (m : MsgRecord) : (lowerLifetime k m).channel = m.channel := by
  unfold lowerLifetime; split <;> [rfl; split <;> rfl]

/-- Running count-downs add up, long-tick boundary by long-tick boundary. -/
theorem lowerLifetime_lowerLifetime (j k : Nat) (hk : 1 ≤ k) (m : MsgRecord) :
    lowerLifetime k (lowerLifetime j m) = lowerLifetime (j + k) m := by
  cases hv : m.lifetime with
  | none => simp [lowerLifetime, hv]
  | some v =>
    by_cases hj : j < v
    · by_cases h : j + k < v
      · simp [lowerLifetime, hv, hj, h, show k < v - j by omega, Nat.sub_sub]
      · simp [lowerLifetime, hv, hj, h, show ¬ k < v - j by omega]
    · simp [lowerLifetime, hv, hj, show ¬ j + k < v by omega, show ¬ k < 1 by omega]

/-- The records after `k` long-tick boundaries. -/
def State.lowerRecords (s : State) (k : Nat) : List (Nat × MsgRecord) :=
  if k = 0 then s.records else Table.mapAll (fun m => if s.lifetimeRunning m then lowerLifetime k m else m) s.records

theorem records_advance (n : Nat) (s : State) :
    (advance n s).records = s.lowerRecords ((s.tickPhase + n) / 100) := rfl

theorem lowerRecords_advance (m k : Nat) (s : State) :
    (advance m s).lowerRecords k = s.lowerRecords ((s.tickPhase + m) / 100 + k) := by
  show (if k = 0 then s.lowerRecords ((s.tickPhase + m) / 100)
    else Table.mapAll (fun x => if s.lifetimeRunning x then lowerLifetime k x else x)
      (s.lowerRecords ((s.tickPhase + m) / 100))) = _
  generalize (s.tickPhase + m) / 100 = j
  by_cases hk : k = 0
  · simp [hk]
  · by_cases hj : j = 0
    · simp [State.lowerRecords, hj, hk]
    · simp only [State.lowerRecords, hk, hj, if_false, Nat.add_eq_zero_iff, and_false, Table.mapAll, List.map_map]
      refine List.map_congr_left (fun e _ => Prod.ext rfl ?_)
      by_cases hr : s.lifetimeRunning e.2 = true
      · have hr' : s.lifetimeRunning (lowerLifetime j e.2) = true := by
          simpa [State.lifetimeRunning] using hr
        simp [hr, hr', lowerLifetime_lowerLifetime j k (by omega)]
      · simp [hr]

/-- Boundaries add up (R1). -/
theorem advance_advance (m n : Nat) (s : State) : advance n (advance m s) = advance (m + n) s := by
  have hk : (s.tickPhase + m) / 100 + ((s.tickPhase + m) % 100 + n) / 100 = (s.tickPhase + (m + n)) / 100 := by omega
  have hports : (advance n (advance m s)).ports = (advance (m + n) s).ports := by
    simp only [advance, Config.ticksPerLong, Vector.map_map, ← hk]
    exact Vector.map_congr_left (fun q _ => advancePort_advancePort m n _ _ q)
  have hrecords : (advance n (advance m s)).records = (advance (m + n) s).records := by
    rw [records_advance, records_advance, lowerRecords_advance, tickPhase_advance, hk]
  have hphase : (advance n (advance m s)).tickPhase = (advance (m + n) s).tickPhase := by
    simp only [tickPhase_advance]; omega
  have hgap : (advance n (advance m s)).engineGap = (advance (m + n) s).engineGap := by
    simp only [engineGap_advance, reclaim_advance, Config.stepsPerTick]
    split_ifs <;> omega
  calc advance n (advance m s)
      = { s with ports := (advance n (advance m s)).ports, records := (advance n (advance m s)).records,
                 tickPhase := (advance n (advance m s)).tickPhase,
                 engineGap := (advance n (advance m s)).engineGap } := rfl
    _ = advance (m + n) s := by rw [hports, hrecords, hphase, hgap]; rfl

/-- No boundary, no change. -/
theorem advance_zero {s : State} (h : s.tickPhase < 100) : advance 0 s = s := by
  have hk : (s.tickPhase + 0) / 100 = 0 := by omega
  have hp : s.ports.map (advancePort 0 0) = s.ports := by
    rw [show advancePort 0 0 = id from funext advancePort_zero, Vector.map_id]
  calc advance 0 s
      = { s with ports := s.ports.map (advancePort 0 ((s.tickPhase + 0) / 100)),
                 records := s.lowerRecords ((s.tickPhase + 0) / 100), tickPhase := (s.tickPhase + 0) % 100 } := rfl
    _ = s := by rw [hk, hp, Nat.add_zero, Nat.mod_eq_of_lt h]; rfl

/-! ## How far an expiry is away -/

section
variable (s : State)

theorem ticksLeft_wait (p : Port) : s.ticksLeft (.wait p) = (s.parkedOn p).map (fun x => x.2.timer) := rfl
theorem ticksLeft_penalty (p : Port) : s.ticksLeft (.penalty p) = (s.port p).penalty.map s.ticksToLong := rfl
theorem ticksLeft_coalescing (p : Port) (h : Handle) :
    s.ticksLeft (.coalescing p h) = (s.att ⟨p, h⟩).bind Attachment.timer := rfl

/-- The lease of a hand slot, none where it is not HOLDING or has no lease. -/
def HandSlot.lease : HandSlot → Option Nat
  | .holding _ _ _ lease => lease
  | _ => none

theorem ticksLeft_lease (p : Port) (i : Slot) : s.ticksLeft (.lease p i) = (s.slot p i).lease.map s.ticksToLong := by
  simp only [State.ticksLeft]
  cases s.slot p i <;> rfl

theorem ticksLeft_lifetime (r : RecId) :
    s.ticksLeft (.lifetime r) =
      if s.lifetimeRunning (s.msg r) then
        (s.msg r).lifetime.map (fun v => if (s.msg r).expiring then 0 else s.ticksToLong v)
      else none := by
  simp only [State.ticksLeft, State.lifetimeTicks]
  cases s.lifetimeRunning (s.msg r) <;> cases (s.msg r).lifetime <;> rfl

theorem parkedOn_eq (p : Port) :
    s.parkedOn p = (s.port p).parked.bind (fun w => (s.att ⟨p, w.handle⟩).map (fun u => (u.channel, w))) := by
  unfold State.parkedOn
  cases (s.port p).parked <;> rfl

/-- The wait of a parked take runs where its attachment is there (log 20). -/
theorem ticksLeft_wait_of_parked {p : Port} {w : ParkedTake} (hw : (s.port p).parked = some w)
    (ha : s.att ⟨p, w.handle⟩ ≠ none) : s.ticksLeft (.wait p) = some w.timer := by
  obtain ⟨u, hu⟩ := Option.ne_none_iff_exists'.mp ha
  simp [ticksLeft_wait, parkedOn_eq, hw, hu]

theorem ticksToLong_eq_zero_iff (h : s.tickPhase < 100) (k : Nat) : s.ticksToLong k = 0 ↔ k = 0 := by
  simp only [State.ticksToLong, Config.ticksPerLong]
  split <;> omega

/-- Passing boundaries brings a count of long ticks as much nearer. -/
theorem ticksToLong_advance (h : s.tickPhase < 100) (n k : Nat) :
    (advance n s).ticksToLong (k - (s.tickPhase + n) / 100) = s.ticksToLong k - n := by
  simp only [State.ticksToLong, Config.ticksPerLong, tickPhase_advance]
  split_ifs <;> omega

@[simp] theorem lease_lowerLease (k : Nat) (x : HandSlot) : (lowerLease k x).lease = lowerTimer k x.lease := by
  cases x <;> rfl

theorem map_ticksToLong_advance (h : s.tickPhase < 100) (n : Nat) (t : Option Nat) :
    (lowerTimer ((s.tickPhase + n) / 100) t).map (advance n s).ticksToLong =
      (t.map s.ticksToLong).map (fun v => v - n) := by
  cases t <;> simp [lowerTimer, ticksToLong_advance s h]

/-- Whether a record's lifetime runs depends on the record by its state and channel alone. -/
theorem lifetimeRunning_congr {m m' : MsgRecord} (hs : m'.state = m.state) (hc : m'.channel = m.channel) :
    s.lifetimeRunning m' = s.lifetimeRunning m := by
  simp [State.lifetimeRunning, hs, hc]

theorem lifetimeRunning_msg_advance (n : Nat) (r : RecId) :
    s.lifetimeRunning ((advance n s).msg r) = s.lifetimeRunning (s.msg r) := by
  rw [msg_advance]
  split_ifs
  · rfl
  · exact lifetimeRunning_congr s (state_lowerLifetime _ _) (channel_lowerLifetime _ _)
  · rfl

/-- A running lifetime comes nearer by the boundaries that pass, and stays due where it is due (log 5). -/
theorem ticksLeft_lifetime_advance (h : s.tickPhase < 100) (n : Nat) (r : RecId) :
    (advance n s).ticksLeft (.lifetime r) = (s.ticksLeft (.lifetime r)).map (fun k => k - n) := by
  rw [ticksLeft_lifetime, ticksLeft_lifetime, lifetimeRunning_advance, lifetimeRunning_msg_advance]
  cases hr : s.lifetimeRunning (s.msg r) with
  | false => rfl
  | true =>
    cases hv : (s.msg r).lifetime with
    | none => simp [msg_advance, hr, lowerLifetime, hv]
    | some v =>
      have ht := ticksToLong_advance s h n v
      simp only [msg_advance, hr, if_true, Config.ticksPerLong]
      generalize (s.tickPhase + n) / 100 = k at ht ⊢
      by_cases hk : k = 0
      · subst hk
        cases he : (s.msg r).expiring <;> simp [hv, he, ← ht]
      · by_cases hkv : k < v
        · cases he : (s.msg r).expiring <;> simp [hk, lowerLifetime, hv, hkv, he, ht]
        · have hnear : s.ticksToLong v - n = 0 := by
            rw [← ht, show v - k = 0 by omega, State.ticksToLong, if_pos rfl]
          cases (s.msg r).expiring <;> simp [hk, lowerLifetime, hv, hkv, hnear]

/-- Each boundary brings every running timer one nearer to its expiry, and starts or stops none (R1). -/
theorem ticksLeft_advance (h : s.tickPhase < 100) (n : Nat) (x : Expiry) :
    (advance n s).ticksLeft x = (s.ticksLeft x).map (fun k => k - n) := by
  cases x with
  | lifetime r => exact ticksLeft_lifetime_advance s h n r
  | wait p =>
    simp only [ticksLeft_wait, parkedOn_eq, port_advance, att_advance, advancePort]
    cases (s.port p).parked with
    | none => rfl
    | some w => cases hu : s.att ⟨p, w.handle⟩ <;> simp [hu]
  | lease p i => simp only [ticksLeft_lease, slot_advance, lease_lowerLease]; exact map_ticksToLong_advance s h n _
  | penalty p => simp only [ticksLeft_penalty, port_advance, advancePort]; exact map_ticksToLong_advance s h n _
  | coalescing p i =>
    simp only [ticksLeft_coalescing, att_advance]
    cases s.att ⟨p, i⟩ <;> simp [lowerTimer]

end

/-! ## What makes nothing due

`Calm s t` holds of the operations that an expiry is made of. With it, the expiries that are due together can be taken in
any order of looking for them (log 2): taking one makes no other due. -/

/-- The clock is in its range, and no lifetime stands at 0 (R1, R65): what the taking of expiries keeps of `State.ranged`,
and what keeps a message that comes back to its list from being due. -/
def State.timed (s : State) : Prop := s.tickPhase < 100 ∧ ∀ r : RecId, (s.msg r).lifetime ≠ some 0

theorem timed_of_ranged {s : State} (h : s.ranged) : s.timed := by
  obtain ⟨hphase, -, -, -, -, hmsg⟩ := h
  exact ⟨hphase, fun r hv => absurd (hmsg r 0 hv).1 (by decide)⟩

theorem timed_advance {s : State} (h : s.timed) (n : Nat) : (advance n s).timed := by
  refine ⟨tickPhase_advance_lt n s, fun r => ?_⟩
  rw [msg_advance]
  split_ifs
  · exact h.2 r
  · unfold lowerLifetime
    split
    · exact h.2 r
    · split
      · simp; omega
      · simp
  · exact h.2 r

/-- What is due, read off the state (R1, R65, log 5). -/
theorem due_lifetime_iff {s : State} (h : s.timed) (r : RecId) :
    s.ticksLeft (.lifetime r) = some 0 ↔
      s.lifetimeRunning (s.msg r) = true ∧ (s.msg r).lifetime ≠ none ∧ (s.msg r).expiring = true := by
  rw [ticksLeft_lifetime]
  cases s.lifetimeRunning (s.msg r)
  · simp
  · cases hv : (s.msg r).lifetime with
    | none => simp
    | some v =>
      have hv0 : v ≠ 0 := fun e => h.2 r (e ▸ hv)
      cases (s.msg r).expiring <;> simp [ticksToLong_eq_zero_iff s h.1, hv0]

theorem due_wait_iff {s : State} (p : Port) :
    s.ticksLeft (.wait p) = some 0 ↔
      ∃ w, (s.port p).parked = some w ∧ (s.att ⟨p, w.handle⟩).isSome = true ∧ w.timer = 0 := by
  rw [ticksLeft_wait, parkedOn_eq]
  cases (s.port p).parked with
  | none => simp
  | some w => cases hu : s.att ⟨p, w.handle⟩ <;> simp [hu]

theorem map_ticksToLong_eq_zero_iff {s : State} (h : s.tickPhase < 100) (t : Option Nat) :
    t.map s.ticksToLong = some 0 ↔ t = some 0 := by
  cases t <;> simp [ticksToLong_eq_zero_iff s h]

theorem due_lease_iff {s : State} (h : s.timed) (p : Port) (i : Slot) :
    s.ticksLeft (.lease p i) = some 0 ↔ (s.slot p i).lease = some 0 := by
  rw [ticksLeft_lease, map_ticksToLong_eq_zero_iff h.1]

theorem due_penalty_iff {s : State} (h : s.timed) (p : Port) :
    s.ticksLeft (.penalty p) = some 0 ↔ (s.port p).penalty = some 0 := by
  rw [ticksLeft_penalty, map_ticksToLong_eq_zero_iff h.1]

/-- A port at which nothing becomes due. -/
structure PortCalm (q t : PortState) : Prop where
  penalty : t.penalty = some 0 → q.penalty = some 0
  slots : ∀ i : Slot, t.slots[i].lease = some 0 → q.slots[i].lease = some 0
  parked : ∀ w, t.parked = some w → q.parked = some w
  handles : ∀ h : Handle, t.attachments[h].isSome = true → q.attachments[h].isSome = true
  timers : ∀ h : Handle, t.attachments[h].bind Attachment.timer = some 0 → q.attachments[h].bind Attachment.timer = some 0

theorem PortCalm.refl (q : PortState) : PortCalm q q := ⟨id, fun _ => id, fun _ => id, fun _ => id, fun _ => id⟩

theorem PortCalm.trans {a b c : PortState} (h : PortCalm a b) (g : PortCalm b c) : PortCalm a c :=
  ⟨h.penalty ∘ g.penalty, fun i => h.slots i ∘ g.slots i, fun w => h.parked w ∘ g.parked w,
   fun k => h.handles k ∘ g.handles k, fun k => h.timers k ∘ g.timers k⟩

/-- A message record whose lifetime does not become due: one that is due still stands where it stood. -/
structure RecordCalm (a b : MsgRecord) : Prop where
  lifetime : b.lifetime = a.lifetime ∨ b.lifetime = none
  due : b.expiring = true → b.state = a.state ∧ b.channel = a.channel ∧ a.expiring = true

theorem RecordCalm.refl (a : MsgRecord) : RecordCalm a a := ⟨Or.inl rfl, fun h => ⟨rfl, rfl, h⟩⟩

theorem RecordCalm.trans {a b c : MsgRecord} (h : RecordCalm a b) (g : RecordCalm b c) : RecordCalm a c := by
  refine ⟨?_, fun hc => ?_⟩
  · rcases g.lifetime with e | e
    · exact e ▸ h.lifetime
    · exact Or.inr e
  · obtain ⟨gs, gc, hb⟩ := g.due hc
    obtain ⟨hs, hc, ha⟩ := h.due hb
    exact ⟨gs.trans hs, gc.trans hc, ha⟩

/-- A change of a record that leaves what its lifetime depends on. -/
theorem RecordCalm.same {a b : MsgRecord} (hl : b.lifetime = a.lifetime) (he : b.expiring = a.expiring)
    (hs : b.state = a.state) (hc : b.channel = a.channel) : RecordCalm a b :=
  ⟨Or.inl hl, fun h => ⟨hs, hc, he ▸ h⟩⟩

/-- A change of a record that pauses its lifetime: the boundary that made it due does not count (R69). -/
theorem RecordCalm.paused {a b : MsgRecord} (hl : b.lifetime = a.lifetime) (he : b.expiring = false) : RecordCalm a b :=
  ⟨Or.inl hl, fun h => by simp [he] at h⟩

theorem RecordCalm.freed (a : MsgRecord) : RecordCalm a MsgRecord.free :=
  ⟨Or.inr rfl, fun h => by simp [MsgRecord.free] at h⟩

/-- An operation that leaves the engine and the clock alone and makes no expiry due. -/
structure Calm (s t : State) : Prop where
  reclaim : t.reclaim = s.reclaim
  engineGap : t.engineGap = s.engineGap
  tickPhase : t.tickPhase = s.tickPhase
  ports : ∀ p, PortCalm (s.port p) (t.port p)
  chans : ∀ c, (t.chan c).state = (s.chan c).state ∧ (t.chan c).held = (s.chan c).held
  msgs : ∀ r, RecordCalm (s.msg r) (t.msg r)

theorem Calm.refl (s : State) : Calm s s := ⟨rfl, rfl, rfl, fun _ => .refl _, fun _ => ⟨rfl, rfl⟩, fun _ => .refl _⟩

theorem Calm.trans {s t u : State} (h : Calm s t) (g : Calm t u) : Calm s u :=
  ⟨g.reclaim.trans h.reclaim, g.engineGap.trans h.engineGap, g.tickPhase.trans h.tickPhase,
   fun p => (h.ports p).trans (g.ports p),
   fun c => ⟨(g.chans c).1.trans (h.chans c).1, (g.chans c).2.trans (h.chans c).2⟩, fun r => (h.msgs r).trans (g.msgs r)⟩

theorem Calm.foldl {α : Type} {f : State → α → State} (h : ∀ s a, Calm s (f s a)) (l : List α) (s : State) :
    Calm s (l.foldl f s) := by
  induction l generalizing s with
  | nil => exact .refl s
  | cons a rest ih => exact (h s a).trans (ih (f s a))

theorem Calm.timed {s t : State} (h : Calm s t) (hs : s.timed) : t.timed := by
  refine ⟨h.tickPhase ▸ hs.1, fun r => ?_⟩
  rcases (h.msgs r).lifetime with e | e
  · exact e ▸ hs.2 r
  · simp [e]

/-- What is due after a calm operation was due before it. -/
theorem Calm.due {s t : State} (h : Calm s t) (hs : s.timed) {x : Expiry} (hx : t.ticksLeft x = some 0) :
    s.ticksLeft x = some 0 := by
  have ht := h.timed hs
  cases x with
  | lifetime r =>
    rw [due_lifetime_iff ht] at hx
    rw [due_lifetime_iff hs]
    obtain ⟨hrun, hlife, hexp⟩ := hx
    obtain ⟨hstate, hchannel, hexp'⟩ := (h.msgs r).due hexp
    refine ⟨?_, ?_, hexp'⟩
    · simp only [State.lifetimeRunning, hstate, hchannel, h.chans] at hrun
      exact hrun
    · rcases (h.msgs r).lifetime with e | e
      · exact e ▸ hlife
      · exact absurd e hlife
  | wait p =>
    obtain ⟨w, hw, ha, hz⟩ := (due_wait_iff p).mp hx
    exact (due_wait_iff p).mpr ⟨w, (h.ports p).parked w hw, (h.ports p).handles w.handle ha, hz⟩
  | lease p i => exact (due_lease_iff hs p i).mpr ((h.ports p).slots i ((due_lease_iff ht p i).mp hx))
  | penalty p => exact (due_penalty_iff hs p).mpr ((h.ports p).penalty ((due_penalty_iff ht p).mp hx))
  | coalescing p k => exact (h.ports p).timers k hx

/-! ### The updates -/

theorem modPort_calm (s : State) (p : Port) (f : PortState → PortState) (h : PortCalm (s.port p) (f (s.port p))) :
    Calm s (s.modPort p f) :=
  { Calm.refl s with
    ports := fun q => by
      by_cases hq : q = p
      · subst hq; simpa using h
      · simpa [hq] using PortCalm.refl (s.port q)
    chans := fun _ => ⟨rfl, rfl⟩
    msgs := fun _ => .refl _ }

theorem modChan_calm (s : State) (c : ChanId) (f : Channel → Channel) (hs : (f (s.chan c)).state = (s.chan c).state)
    (hh : (f (s.chan c)).held = (s.chan c).held) : Calm s (s.modChan c f) :=
  { Calm.refl s with
    ports := fun _ => .refl _
    chans := fun d => by
      by_cases hd : d = c
      · subst hd; simpa using ⟨hs, hh⟩
      · simp [hd]
    msgs := fun _ => .refl _ }

theorem modMsg_calm (s : State) (r : RecId) (f : MsgRecord → MsgRecord) (h : RecordCalm (s.msg r) (f (s.msg r))) :
    Calm s (s.modMsg r f) :=
  { Calm.refl s with
    ports := fun _ => .refl _
    chans := fun _ => ⟨rfl, rfl⟩
    msgs := fun q => by
      by_cases hq : q = r
      · subst hq; simpa using h
      · simpa [hq] using RecordCalm.refl (s.msg q) }

/-- A hand slot is written whose lease, if it has one, has a boundary to come. -/
theorem setSlot_calm (s : State) (p : Port) (i : Slot) (x : HandSlot) (h : x.lease ≠ some 0) :
    Calm s (s.setSlot p i x) :=
  modPort_calm s p (fun q => { q with slots := q.slots.set i x }) { PortCalm.refl _ with
    slots := fun j hj => by
      by_cases hij : i.val = j.val
      · simp [hij, h] at hj
      · simpa [Vector.getElem_set_ne, hij] using hj }

/-- An attachment record changes, and its coalescing timer does not become due. -/
theorem modAtt_calm (s : State) (a : AttRef) (f : Attachment → Attachment)
    (h : ∀ t, (f t).timer = some 0 → t.timer = some 0) : Calm s (s.modAtt a f) := by
  obtain ⟨p, k⟩ := a
  refine modPort_calm s p (fun q => { q with attachments := q.attachments.set k ((s.att ⟨p, k⟩).map f) })
    { PortCalm.refl _ with handles := fun j hj => ?_, timers := fun j hj => ?_ }
  · by_cases hkj : k = j
    · subst hkj; simpa [State.att] using hj
    · simpa [Vector.getElem_set_ne, Fin.val_ne_of_ne hkj] using hj
  · by_cases hkj : k = j
    · subst hkj
      simp only [State.att, Fin.getElem_fin, Vector.getElem_set_self] at hj ⊢
      cases hu : ((s.port p).attachments[k.val]) with
      | none => simp [hu] at hj
      | some t => rw [hu] at hj; exact h t hj
    · simpa [Vector.getElem_set_ne, Fin.val_ne_of_ne hkj] using hj

/-! ### Events, counters and outcomes -/

theorem queueEvent_calm (s : State) (p : Port) (e : Event) : Calm s (queueEvent s p e) :=
  modPort_calm s p _ { PortCalm.refl _ with }

theorem bump_calm (s : State) (c : ChanId) (k : Counter) : Calm s (bump s c k) := by
  unfold bump
  dsimp only
  split
  · exact (modChan_calm s c _ rfl rfl).trans (Calm.foldl (fun s a => queueEvent_calm s _ _) _ _)
  · exact modChan_calm s c _ rfl rfl

theorem queueReceipt_calm (s : State) (c : ChanId) (r : RecId) (o : MsgOutcome) (n : Nat) :
    Calm s (queueReceipt s c r o n) := by
  unfold queueReceipt
  dsimp only
  split
  · exact (modPort_calm s _ _ { PortCalm.refl _ with }).trans (modMsg_calm _ r _ (.same rfl rfl rfl rfl))
  · exact .refl s

theorem issue_calm (s : State) (c : ChanId) (r : RecId) (o : MsgOutcome) (n : Nat) : Calm s (issue s c r o n) := by
  unfold issue
  split
  · exact .refl s
  · exact ((modMsg_calm s r _ (.same rfl rfl rfl rfl)).trans (bump_calm _ c _)).trans (queueReceipt_calm _ c r o n)

theorem leaveList_calm (s : State) (c : ChanId) (r : RecId) : Calm s (leaveList s c r) := modChan_calm s c _ rfl rfl

theorem returnCells_calm (s : State) (chain : List CellId) (p : Port) : Calm s (returnCells s chain p) := by
  have h := modPort_calm s p (fun q => { q with charge := q.charge - chain.length }) { PortCalm.refl _ with }
  exact ⟨rfl, rfl, rfl, h.ports, h.chans, h.msgs⟩

theorem freeRecord_calm (s : State) (c : ChanId) (r : RecId) (o : MsgOutcome) (n : Nat) : Calm s (freeRecord s c r o n) :=
  ((issue_calm s c r o n).trans (leaveList_calm _ c r)).trans
    ((returnCells_calm (leaveList (issue s c r o n) c r) _ _).trans (modMsg_calm _ r (fun _ => MsgRecord.free) (.freed _)))

theorem unlist_calm (s : State) (c : ChanId) (r : RecId) : Calm s (unlist s c r) :=
  (leaveList_calm s c r).trans (modMsg_calm _ r _ (.paused rfl rfl))

/-! ### Hands, waits and arrivals -/

/-- A lease that starts has a boundary to come (R88). -/
theorem leaseTimer_ne_zero (lease : Word) : leaseTimer lease ≠ some 0 := by
  unfold leaseTimer
  split
  · simp
  · next h => simpa [BitVec.toNat_eq] using h

theorem fillSlot_calm (s : State) (p : Port) (i : Slot) (r : RecId) (h : Handle) : Calm s (fillSlot s p i r h) :=
  setSlot_calm s p i _ (leaseTimer_ne_zero _)

theorem takeIntoHand_calm (s : State) (c : ChanId) (r : RecId) : Calm s (takeIntoHand s c r) :=
  (leaveList_calm s c r).trans (modMsg_calm _ r _ (.paused rfl rfl))

theorem clearLagReported_calm (s : State) (a : AttRef) : Calm s (clearLagReported s a) :=
  modAtt_calm s a _ (fun t ht => by split at ht <;> exact ht)

theorem clearParked_calm (s : State) (p : Port) : Calm s (s.modPort p (fun q => { q with parked := none })) :=
  modPort_calm s p _ { PortCalm.refl _ with parked := fun w hw => by simp at hw }

theorem dropParked_calm (s : State) (c : ChanId) (p : Port) (w : ParkedTake) : Calm s (dropParked s c p w) :=
  ((modChan_calm s c _ rfl rfl).trans (setSlot_calm _ p w.slot .empty (by simp [HandSlot.lease]))).trans
    (clearParked_calm _ p)

theorem bindSlot_calm (s : State) (c : ChanId) (r : RecId) (p : Port) (w : ParkedTake) : Calm s (bindSlot s c r p w) :=
  ((((fillSlot_calm s p w.slot r w.handle).trans (modChan_calm _ c _ rfl rfl)).trans (clearParked_calm _ p)).trans
    (clearLagReported_calm _ ⟨p, w.handle⟩)).trans (queueEvent_calm _ p _)

theorem bindPoint_calm (s : State) (c : ChanId) (r : RecId) (p : Port) : Calm s (bindPoint s c r p) := by
  unfold bindPoint
  split
  · exact .refl s
  · exact (takeIntoHand_calm s c r).trans (bindSlot_calm _ c r p _)

/-- An arrival starts a coalescing timer with a boundary to come, or stops it (R171). -/
theorem arrive_calm (s : State) (c : ChanId) (u : Bool) (a : AttRef) : Calm s (arrive s c u a) := by
  unfold arrive
  split
  · exact .refl s
  · split
    · exact .refl s
    · split
      · exact (modAtt_calm s a _ (fun t ht => by simp at ht)).trans (queueEvent_calm _ a.port _)
      · refine modAtt_calm s a _ (fun t ht => ?_)
        dsimp only at ht
        split at ht
        · next hw => simp_all [BitVec.toNat_eq]
        · exact ht

/-! ### Handing back -/

/-- A message that comes back to its list is not due there (log 5). -/
theorem requeue_calm (s : State) (c : ChanId) (r : RecId) : Calm s (requeue s c r) := by
  unfold requeue
  dsimp only
  have hw : Calm s
      ((s.modMsg r (fun m => { m with state := .queued, expiring := false, redelivery := m.redelivery + 1 })).modChan c
        (fun ch => { ch with list := r :: ch.list })) :=
    (modMsg_calm s r (fun m => { m with state := .queued, expiring := false, redelivery := m.redelivery + 1 })
      (.paused rfl rfl)).trans (modChan_calm _ c _ rfl rfl)
  split
  · exact hw.trans (bindPoint_calm _ c r _)
  · exact hw.trans (Calm.foldl (fun s a => arrive_calm s c _ a) _ _)

theorem handBackPoint_calm (s : State) (c : ChanId) (r : RecId) : Calm s (handBackPoint s c r).1 := by
  unfold handBackPoint
  dsimp only
  split
  · split
    · exact (bump_calm s c _).trans (requeue_calm _ c r)
    · exact (bump_calm s c _).trans (freeRecord_calm _ c r _ _)
  · exact (bump_calm s c _).trans (freeRecord_calm _ c r _ _)

theorem releaseFanout_calm (s : State) (c : ChanId) (r : RecId) (a : AttRef) : Calm s (releaseFanout s c r a) := by
  unfold releaseFanout
  dsimp only
  have h := modMsg_calm s r (fun m => { m with holders := eraseRef a m.holders }) (.same rfl rfl rfl rfl)
  split
  · exact h.trans (freeRecord_calm _ c r _ _)
  · exact h

theorem handBackRecord_calm (s : State) (r : RecId) (a : AttRef) : Calm s (handBackRecord s r a) := by
  unfold handBackRecord
  split
  · exact .refl s
  · split
    · exact handBackPoint_calm s _ r
    · exact releaseFanout_calm s _ r a

/-! ### The end of an event -/

theorem roomCheck_calm (s : State) (c : ChanId) : Calm s (roomCheck s c) := by
  unfold roomCheck
  split
  · exact Calm.foldl (fun s a => (modAtt_calm s a _ (by exact fun _ => id)).trans (queueEvent_calm _ a.port _)) _ s
  · exact .refl s

theorem endOfEvent_calm (before after : State) : Calm after (endOfEvent before after) :=
  Calm.foldl (fun s c => by
    split
    · exact roomCheck_calm s c
    · exact .refl s) _ after

/-! ## What an expiry does to the timers

Each expiry first stops its own timer; what it does then is calm. -/

/-- An operation that stops the timer of `x` and is calm otherwise. -/
structure Stops (x : Expiry) (s t : State) : Prop extends Calm s t where
  stopped : s.timed → t.ticksLeft x ≠ some 0

theorem Stops.trans_calm {x : Expiry} {s t u : State} (h : Stops x s t) (g : Calm t u) : Stops x s u :=
  ⟨h.toCalm.trans g, fun hs hu => h.stopped hs (g.due (h.timed hs) hu)⟩

theorem freeRecord_stops (s : State) (c : ChanId) (r : RecId) (o : MsgOutcome) (n : Nat) :
    Stops (.lifetime r) s (freeRecord s c r o n) :=
  ⟨freeRecord_calm s c r o n, fun _ => by
    rw [ticksLeft_lifetime, freeRecord, msg_modMsg_self]
    simp [MsgRecord.free]⟩

theorem unlist_stops (s : State) (c : ChanId) (r : RecId) : Stops (.lifetime r) s (unlist s c r) :=
  ⟨unlist_calm s c r, fun _ => by
    rw [ticksLeft_lifetime, unlist, msg_modMsg_self]
    simp [State.lifetimeRunning]⟩

theorem expireRecord_stops (s : State) (c : ChanId) (r : RecId) : Stops (.lifetime r) s (expireRecord s c r) := by
  unfold expireRecord
  split
  · exact freeRecord_stops s c r _ _
  · split
    · exact freeRecord_stops s c r _ _
    · exact (unlist_stops s c r).trans_calm (issue_calm _ c r _ _)

theorem dropParked_stops (s : State) (c : ChanId) (p : Port) (w : ParkedTake) : Stops (.wait p) s (dropParked s c p w) :=
  ⟨dropParked_calm s c p w, fun _ => by
    rw [ticksLeft_wait, parkedOn_eq, dropParked, port_modPort_self]
    simp⟩

theorem emptySlot_stops (s : State) (p : Port) (i : Slot) : Stops (.lease p i) s (s.setSlot p i .empty) :=
  ⟨setSlot_calm s p i .empty (by simp [HandSlot.lease]), fun _ => by
    rw [ticksLeft_lease, slot_setSlot_self]
    simp [HandSlot.lease]⟩

theorem clearPenalty_stops (s : State) (p : Port) :
    Stops (.penalty p) s (s.modPort p (fun q => { q with penalty := none })) :=
  ⟨modPort_calm s p (fun q => { q with penalty := none }) { PortCalm.refl _ with penalty := fun h => by simp at h },
   fun _ => by simp [ticksLeft_penalty]⟩

theorem clearTimer_stops (s : State) (a : AttRef) :
    Stops (.coalescing a.port a.handle) s (s.modAtt a (fun t => { t with arrivals := 0, timer := none })) :=
  ⟨modAtt_calm s a _ (fun t ht => by simp at ht), fun _ => by
    rw [ticksLeft_coalescing, att_modAtt, if_pos rfl]
    cases s.att a <;> simp⟩

/-- An expiry that is due stops its own timer and makes no other due. -/
theorem expire_stops {s : State} {x : Expiry} (hx : s.ticksLeft x = some 0) : Stops x s (expire s x) := by
  cases x with
  | lifetime r =>
    simp only [expire]
    split
    · exact (expireRecord_stops s _ r).trans_calm (endOfEvent_calm _ _)
    · next hc => simp [ticksLeft_lifetime, State.lifetimeRunning, hc] at hx
  | wait p =>
    simp only [expire]
    split
    · exact ((dropParked_stops s _ p _).trans_calm (queueEvent_calm _ p _)).trans_calm (endOfEvent_calm _ _)
    · next hp => simp [ticksLeft_wait, hp] at hx
  | lease p i =>
    simp only [expire]
    split
    · exact (((emptySlot_stops s p i).trans_calm (queueEvent_calm _ p _)).trans_calm (handBackRecord_calm _ _ _)).trans_calm
        (endOfEvent_calm _ _)
    · next hs =>
      rw [ticksLeft_lease] at hx
      cases hsl : s.slot p i with
      | holding r h t lease => exact absurd hsl (hs r h t lease)
      | empty => simp [hsl, HandSlot.lease] at hx
      | reserved => simp [hsl, HandSlot.lease] at hx
  | penalty p => exact clearPenalty_stops s p
  | coalescing p h =>
    simp only [expire]
    split
    · exact (clearTimer_stops s ⟨p, h⟩).trans_calm (queueEvent_calm _ _ _)
    · next ha => simp [ticksLeft_coalescing, ha] at hx

/-- No expiry is a command that waits, and none adds one. -/
@[simp] theorem pending_expire (s : State) (x : Expiry) : (expire s x).pending = s.pending := by
  cases x with
  | penalty p => rfl
  | lifetime r => exact (expire_work s _ (by simp)).pending
  | wait p => exact (expire_work s _ (by simp)).pending
  | lease p i => exact (expire_work s _ (by simp)).pending
  | coalescing p h => exact (expire_work s _ (by simp)).pending

/-! ## Taking what is due -/

theorem mem_allExpiries (x : Expiry) : x ∈ allExpiries := by
  cases x <;> simp [allExpiries]

theorem takeIfDue_of_due {s : State} {x : Expiry} (h : s.ticksLeft x = some 0) : takeIfDue s x = expire s x := by
  simp [takeIfDue, State.isDue, h]

theorem takeIfDue_of_not_due {s : State} {x : Expiry} (h : s.ticksLeft x ≠ some 0) : takeIfDue s x = s := by
  simp [takeIfDue, State.isDue, h]

/-- Looking for what is due changes nothing where none of it is due. -/
theorem foldl_takeIfDue_of_none {s : State} (l : List Expiry) (h : ∀ x ∈ l, s.ticksLeft x ≠ some 0) :
    l.foldl takeIfDue s = s := by
  induction l with
  | nil => rfl
  | cons x rest ih =>
    rw [List.foldl_cons, takeIfDue_of_not_due (h x (by simp))]
    exact ih (fun y hy => h y (List.mem_cons_of_mem x hy))

/-- The expiry that the part takes first is due, and those before it are not. -/
theorem find_isDue_eq_some {s : State} {y : Expiry} (h : allExpiries.find? s.isDue = some y) :
    s.ticksLeft y = some 0 ∧
      ∃ before after, allExpiries = before ++ y :: after ∧ ∀ x ∈ before, s.ticksLeft x ≠ some 0 := by
  obtain ⟨hy, before, after, hsplit, hbefore⟩ := List.find?_eq_some_iff_append.mp h
  exact ⟨by simpa [State.isDue] using hy, before, after, hsplit,
    fun x hx => by simpa [State.isDue] using hbefore x hx⟩

/-- Taking the first expiry that is due, and then what is due, is taking what is due. -/
theorem takeDue_expire_first {s : State} (hs : s.timed) {y : Expiry} (h : allExpiries.find? s.isDue = some y) :
    takeDue (expire s y) = takeDue s := by
  obtain ⟨hy, before, after, hsplit, hbefore⟩ := find_isDue_eq_some h
  have hstop := expire_stops hy
  have hbefore' : ∀ x ∈ before, (expire s y).ticksLeft x ≠ some 0 :=
    fun x hx hd => hbefore x hx (hstop.due hs hd)
  unfold takeDue
  rw [hsplit, List.foldl_append, List.foldl_append, List.foldl_cons, List.foldl_cons,
    foldl_takeIfDue_of_none before hbefore, foldl_takeIfDue_of_none before hbefore',
    takeIfDue_of_due hy, takeIfDue_of_not_due (hstop.stopped hs)]

/-- Where something is due, the part takes the first of it in its order (log 2). -/
theorem exists_first_due {s : State} (h : ∃ x, s.ticksLeft x = some 0) : ∃ y, allExpiries.find? s.isDue = some y := by
  obtain ⟨x, hx⟩ := h
  exact Option.isSome_iff_exists.mp
    (List.find?_isSome.mpr ⟨x, mem_allExpiries x, by simpa [State.isDue] using hx⟩)

theorem find_isDue_eq_none {s : State} (h : ∀ x, s.ticksLeft x ≠ some 0) : allExpiries.find? s.isDue = none :=
  List.find?_eq_none.mpr (fun x _ => by simpa [State.isDue] using h x)

/-- How many expiries are due. -/
def State.dueCount (s : State) : Nat := allExpiries.countP s.isDue

/-- Taking an expiry that is due leaves fewer that are. -/
theorem dueCount_expire_lt {s : State} (hs : s.timed) {y : Expiry} (hy : s.ticksLeft y = some 0) :
    (expire s y).dueCount < s.dueCount := by
  have hstop := expire_stops hy
  have hmono : ∀ l : List Expiry, l.countP (expire s y).isDue ≤ l.countP s.isDue := fun l =>
    List.countP_mono_left (fun x _ hx => by simpa [State.isDue] using hstop.due hs (by simpa [State.isDue] using hx))
  have hyes : s.isDue y = true := by simpa [State.isDue] using hy
  have hno : (expire s y).isDue y = false := by simpa [State.isDue] using hstop.stopped hs
  obtain ⟨before, after, hsplit⟩ := List.append_of_mem (mem_allExpiries y)
  have hb := hmono before
  have ha := hmono after
  simp only [State.dueCount, hsplit, List.countP_append, List.countP_cons, hyes, hno]
  simp only [if_true, Bool.false_eq_true, if_false]
  omega

/-- The taking of what is due, one expiry after another until none is: what holds at the end, and is passed back over each
expiry that the part takes first, holds before. -/
theorem dueInduction {P : State → Prop} (done : ∀ s, s.timed → (∀ x, s.ticksLeft x ≠ some 0) → P s)
    (first : ∀ s y, s.timed → allExpiries.find? s.isDue = some y → P (expire s y) → P s) (s : State) (hs : s.timed) :
    P s := by
  induction hn : s.dueCount using Nat.strong_induction_on generalizing s with
  | _ n ih =>
    by_cases hd : ∃ x, s.ticksLeft x = some 0
    · obtain ⟨y, hy⟩ := exists_first_due hd
      have hdue := (find_isDue_eq_some hy).1
      exact first s y hs hy (ih _ (hn ▸ dueCount_expire_lt hs hdue) _ ((expire_stops hdue).timed hs) rfl)
    · exact done s hs (fun x hx => hd ⟨x, hx⟩)

/-- After what is due has been taken, nothing is. -/
theorem takeDue_clears {s : State} (hs : s.timed) (x : Expiry) : (takeDue s).ticksLeft x ≠ some 0 :=
  dueInduction (P := fun s => ∀ x, (takeDue s).ticksLeft x ≠ some 0)
    (fun _ _ h x => by rw [takeDue_of_none h]; exact h x)
    (fun _ _ hs hy ih x => by rw [← takeDue_expire_first hs hy]; exact ih x) s hs x

theorem takeDue_calm {s : State} (hs : s.timed) : Calm s (takeDue s) :=
  dueInduction (P := fun s => Calm s (takeDue s))
    (fun s _ h => by rw [takeDue_of_none h]; exact .refl s)
    (fun _ _ hs hy ih => by
      rw [← takeDue_expire_first hs hy]
      exact (expire_stops (find_isDue_eq_some hy).1).toCalm.trans ih) s hs

/-- Before a boundary an engine that owes no step, or has no work, leaves it at what is due (R44). -/
theorem settle_of_no_step {s : State} (hs : s.timed) (h : s.stepsOwed = 0 ∨ s.reclaim = []) : settle s = takeDue s := by
  have hrun : runEngine s.stepsOwed (takeDue s) = takeDue s := by
    rcases h with h | h
    · rw [h]; rfl
    · exact runEngine_of_idle ((takeDue_calm hs).reclaim.trans h) _
  rw [settle, hrun, takeDue_of_none (takeDue_clears hs)]

/-- Where nothing is due and no step is to be taken, nothing comes before the boundary. -/
theorem settle_of_none {s : State} (h : s.stepsOwed = 0 ∨ s.reclaim = []) (hd : ∀ x, s.ticksLeft x ≠ some 0) :
    settle s = s := by
  have hrun : runEngine s.stepsOwed s = s := by
    rcases h with h | h
    · rw [h]; rfl
    · exact runEngine_of_idle h _
  rw [settle, takeDue_of_none hd, hrun, takeDue_of_none hd]

/-- What comes before the boundary begins with the first expiry that is due (R44). -/
theorem settle_expire_first {s : State} (hs : s.timed) {y : Expiry} (h : allExpiries.find? s.isDue = some y) :
    settle (expire s y) = settle s := by
  have hgap := (expire_stops (find_isDue_eq_some h).1).engineGap
  rw [settle, settle, takeDue_expire_first hs h, State.stepsOwed, hgap, ← State.stepsOwed]

/-! ## The reclaim engine's step (R42, R43, log 26) -/

theorem reclaimRecord_calm (s : State) (c : ChanId) (r : RecId) : Calm s (reclaimRecord s c r) := by
  unfold reclaimRecord
  split
  · exact freeRecord_calm s c r _ _
  · split
    · exact freeRecord_calm s c r _ _
    · exact (unlist_calm s c r).trans (issue_calm _ c r _ _)

/-- A channel that becomes OPEN leaves the engine's gap. -/
theorem engineGap_completePurge (s : State) (c : ChanId) (n : Nat) : (completePurge s c n).engineGap = s.engineGap := by
  unfold completePurge
  dsimp only
  split
  · exact (roomCheck_calm _ c).engineGap.trans (queueEvent_calm _ _ _).engineGap
  · exact (roomCheck_calm _ c).engineGap

theorem engineGap_recordStep {s : State} {e : WorkEntry} {q : List WorkEntry} (hq : s.reclaim = e :: q)
    (hl : (s.chan e.channel).list ≠ []) : (recordStep s).engineGap = s.engineGap - 1 := by
  obtain ⟨r, rest, hr⟩ := List.exists_cons_of_ne_nil hl
  simp only [recordStep, hq, hr, engineGap_stepTaken]
  rw [((reclaimRecord_calm s e.channel r).trans (endOfEvent_calm s _)).engineGap]

theorem engineGap_completionStep {s : State} {e : WorkEntry} {q : List WorkEntry} (hq : s.reclaim = e :: q)
    (hl : (s.chan e.channel).list = []) : (completionStep s).engineGap = s.engineGap - 1 := by
  simp only [completionStep, hq, hl, List.isEmpty_nil, if_true, engineGap_stepTaken]
  split
  · rw [engineGap_completePurge]
  · rfl
  · rfl

/-- The step of an engine with work is one of its two commands, and it brings the engine's last step one nearer to the
boundary (R44, log 26). -/
theorem engineStep_cases {s : State} (h : s.reclaim ≠ []) :
    (engineStep s = recordStep s ∨ engineStep s = completionStep s) ∧ s.clockStep (engineStep s) := by
  obtain ⟨e, q, hq⟩ := List.exists_cons_of_ne_nil h
  have hwork := engineStep_work s
  by_cases hl : (s.chan e.channel).list = []
  · have he : engineStep s = completionStep s := by simp [engineStep, hq, hl]
    exact ⟨Or.inr he, hwork.tickPhase, he ▸ engineGap_completionStep hq hl, hwork.pending⟩
  · have he : engineStep s = recordStep s := by simp [engineStep, hq, hl]
    exact ⟨Or.inl he, hwork.tickPhase, he ▸ engineGap_recordStep hq hl, hwork.pending⟩

/-- What comes before the boundary goes on with a step that the engine owes, where nothing is due before it and after it. -/
theorem settle_engineStep {s : State} (h : s.reclaim ≠ []) (ho : s.stepsOwed ≠ 0) (hd : ∀ x, s.ticksLeft x ≠ some 0)
    (hd' : ∀ x, (engineStep s).ticksLeft x ≠ some 0) : settle (engineStep s) = settle s := by
  obtain ⟨-, -, hgap, -⟩ := engineStep_cases h
  have howed : s.stepsOwed = (engineStep s).stepsOwed + 1 := by
    simp only [State.stepsOwed] at ho ⊢; omega
  rw [settle, settle, takeDue_of_none hd, takeDue_of_none hd', howed, runEngine, if_neg (by simpa using h)]

/-! ## Passing boundaries one by one -/

/-- One boundary passes: before it, what comes before it. -/
def passBoundary (s : State) : State := advance 1 (settle s)

theorem tickPhase_settle (s : State) : (settle s).tickPhase = s.tickPhase :=
  settle_keeps (P := fun t => t.tickPhase = s.tickPhase)
    (fun t h => (engineStep_work t).tickPhase.trans h) (fun _ _ h hx => (expire_stops hx).tickPhase.trans h) s rfl

/-- The boundaries up to the nearest of some expiries, at most `n`. -/
def State.nearest (s : State) (l : List Expiry) (n : Nat) : Nat :=
  l.foldl (fun k x => match s.ticksLeft x with
    | some m => min m k
    | none => k) n

theorem nearest_cons (s : State) (y : Expiry) (l : List Expiry) (n : Nat) :
    s.nearest (y :: l) n = s.nearest l (min ((s.ticksLeft y).getD n) n) := by
  simp only [State.nearest, List.foldl_cons]
  cases s.ticksLeft y <;> simp

theorem nearest_le (s : State) (l : List Expiry) (n : Nat) :
    s.nearest l n ≤ n ∧ ∀ x ∈ l, ∀ k, s.ticksLeft x = some k → s.nearest l n ≤ k := by
  induction l generalizing n with
  | nil => simp [State.nearest]
  | cons y rest ih =>
    rw [nearest_cons]
    obtain ⟨hle, hrest⟩ := ih (min ((s.ticksLeft y).getD n) n)
    refine ⟨hle.trans (Nat.min_le_right _ _), fun x hx k hk => ?_⟩
    rcases List.mem_cons.mp hx with rfl | hx
    · simp only [hk, Option.getD_some] at hle ⊢
      exact hle.trans (Nat.min_le_left _ _)
    · exact hrest x hx k hk

/-- A stretch has a boundary at least and no more than are to pass, and passes no expiry by. -/
theorem nextDue_spec (s : State) (n : Nat) :
    1 ≤ s.nextDue n ∧ s.nextDue n ≤ max 1 n ∧ ∀ x k, s.ticksLeft x = some k → s.nextDue n ≤ max 1 k := by
  have he : s.nextDue n = max 1 (s.nearest allExpiries n) := rfl
  obtain ⟨hn, hk⟩ := nearest_le s allExpiries n
  rw [he]
  exact ⟨Nat.le_max_left _ _, max_le_max le_rfl hn, fun x k hx => max_le_max le_rfl (hk x (mem_allExpiries x) k hx)⟩

/-- A stretch in which nothing falls due only passes boundaries (R1). -/
theorem passBoundary_iterate_eq_advance (n : Nat) (s : State) (hs : s.tickPhase < 100) (hr : s.reclaim = [])
    (h : ∀ x, ∀ k ∈ s.ticksLeft x, n ≤ k) : passBoundary^[n] s = advance n s := by
  induction n generalizing s with
  | zero => exact (advance_zero hs).symm
  | succ n ih =>
    have hd : ∀ x, s.ticksLeft x ≠ some 0 := fun x hx => absurd (h x 0 hx) (by omega)
    have hnear : ∀ x, ∀ k ∈ (advance 1 s).ticksLeft x, n ≤ k := by
      intro x k hk
      rw [ticksLeft_advance s hs] at hk
      obtain ⟨j, hj, rfl⟩ := Option.mem_map.mp hk
      have := h x j hj
      omega
    rw [Function.iterate_succ_apply, passBoundary, settle_of_none (Or.inr hr) hd,
      ih (advance 1 s) (tickPhase_advance_lt _ _) hr hnear, advance_advance, Nat.add_comm]

/-- A stretch after its first boundary passes boundaries one by one: nothing is due at any of them but the last. -/
theorem advance_stretch {s : State} (hs : s.tickPhase < 100) (hr : s.reclaim = []) {k : Nat} (hk : 1 ≤ k)
    (h : ∀ x m, s.ticksLeft x = some m → k ≤ max 1 m) : advance k s = passBoundary^[k - 1] (advance 1 s) := by
  have hnear : ∀ x, ∀ m ∈ (advance 1 s).ticksLeft x, k - 1 ≤ m := by
    intro x m hm
    rw [ticksLeft_advance s hs] at hm
    obtain ⟨j, hj, rfl⟩ := Option.mem_map.mp hm
    have := h x j hj
    omega
  rw [passBoundary_iterate_eq_advance (k - 1) (advance 1 s) (tickPhase_advance_lt _ _) hr hnear, advance_advance,
    Nat.add_sub_cancel' hk]

/-- The stretches of `reach` are boundaries passed one by one, each after what comes before it. -/
theorem reach_eq_iterate (n : Nat) {s : State} (hs : s.tickPhase < 100) : reach n s = passBoundary^[n] s := by
  have key : ∀ fuel n s, n ≤ fuel → s.tickPhase < 100 → passTicks fuel n s = passBoundary^[n] s := by
    intro fuel
    induction fuel with
    | zero => intro n s hn _; rw [Nat.le_zero.mp hn]; rfl
    | succ fuel ih =>
      intro n s hn hs
      by_cases hz : n = 0
      · subst hz; rfl
      · have hphase : (settle s).tickPhase < 100 := (tickPhase_settle s).trans_lt hs
        have stretch : ∀ k, 1 ≤ k → k ≤ n → advance k (settle s) = passBoundary^[k - 1] (passBoundary s) →
            passTicks fuel (n - k) (advance k (settle s)) = passBoundary^[n] s := by
          intro k hk hkn he
          rw [ih (n - k) _ (by omega) (tickPhase_advance_lt _ _), he, ← Function.iterate_add_apply,
            ← Function.iterate_succ_apply, show (n - k + (k - 1)).succ = n by omega]
        simp only [passTicks, hz, if_false]
        split_ifs with hr
        · obtain ⟨hpos, hle, hdue⟩ := nextDue_spec (settle s) n
          exact stretch _ hpos (by omega) (advance_stretch hphase (by simpa using hr) hpos hdue)
        · exact stretch 1 le_rfl (by omega) rfl
  exact key n n s le_rfl hs

/-- Boundaries add up where what comes before each of them is done (R1). -/
theorem reach_reach (m n : Nat) {s : State} (hs : s.tickPhase < 100) : reach n (reach m s) = reach (m + n) s := by
  have hm : (passBoundary^[m] s).tickPhase < 100 := by
    induction m with
    | zero => exact hs
    | succ m _ => rw [Function.iterate_succ_apply']; exact tickPhase_advance_lt 1 _
  rw [reach_eq_iterate m hs, reach_eq_iterate n hm, reach_eq_iterate _ hs, ← Function.iterate_add_apply, Nat.add_comm]

/-! ## The part left to itself -/

/-- A run goes on after its first step. -/
theorem run_succ_of_step (M : Host.Core) {s t : M.State} (h : M.step s = .next t) (k : Nat) :
    M.run (k + 1) s = M.run k t := by
  rw [Host.Core.run, h]

/-- A run of some steps from one state to another. -/
def RunsTo (s t : State) : Prop := ∃ k, Host.Core.run Sys2Proof.core k s = .next t

theorem RunsTo.refl (s : State) : RunsTo s s := ⟨0, rfl⟩

theorem RunsTo.head {s t u : State} (h : step s = .next t) (g : RunsTo t u) : RunsTo s u := by
  obtain ⟨k, hk⟩ := g
  exact ⟨k + 1, (run_succ_of_step Sys2Proof.core h k).trans hk⟩

/-- With no command waiting, a step takes the first expiry that is due. -/
theorem step_of_due {s : State} (hp : s.pending = []) {y : Expiry} (h : allExpiries.find? s.isDue = some y) :
    step s = .next (expire s y) := by
  simp [step, hp, idle, h]

/-- With no command waiting and nothing due, a step is the engine's or the clock's. -/
theorem step_of_none_due {s : State} (hp : s.pending = []) (hd : ∀ x, s.ticksLeft x ≠ some 0) :
    step s = .next (idleOnward s) := by
  simp [step, hp, idle, find_isDue_eq_none hd]

/-- With an idle engine, the part left to itself passes a boundary, after what is due. -/
theorem passBoundary_runsTo {s u : State} (hs : s.timed) (hp : s.pending = []) (hr : s.reclaim = [])
    (h : RunsTo (passBoundary s) u) : RunsTo s u :=
  dueInduction (P := fun s => s.pending = [] → s.reclaim = [] → RunsTo (passBoundary s) u → RunsTo s u)
    (fun s _ hd hp hr h => by
      rw [passBoundary, settle_of_none (Or.inr hr) hd] at h
      exact h.head (idleOnward_of_idle_engine hr ▸ step_of_none_due hp hd))
    (fun s y hs hy ih hp hr h => by
      have hcalm := (expire_stops (find_isDue_eq_some hy).1).toCalm
      refine (ih ((pending_expire s y).trans hp) (hcalm.reclaim.trans hr) ?_).head (step_of_due hp hy)
      rwa [passBoundary, settle_expire_first hs hy]) s hs hp hr h

/-- What passing a boundary keeps while the engine is idle. -/
theorem passBoundary_idle {s : State} (hs : s.timed) (hp : s.pending = []) (hr : s.reclaim = []) :
    (passBoundary s).timed ∧ (passBoundary s).pending = [] ∧ (passBoundary s).reclaim = [] := by
  have hcalm := takeDue_calm hs
  have hpend : (takeDue s).pending = [] :=
    takeDue_keeps (P := fun t => t.pending = []) (fun t x h _ => (pending_expire t x).trans h) s hp
  rw [passBoundary, settle_of_no_step hs (Or.inr hr)]
  exact ⟨timed_advance (hcalm.timed hs) 1, (pending_advance 1 _).trans hpend,
    (reclaim_advance _ 1).trans (hcalm.reclaim.trans hr)⟩

/-- While the engine is idle, what passes on the way is what the part does left to itself (log 2). -/
theorem runsTo_reach (n : Nat) {s : State} (hs : s.timed) (hp : s.pending = []) (hr : s.reclaim = []) :
    RunsTo s (reach n s) := by
  rw [reach_eq_iterate n hs.1]
  induction n generalizing s with
  | zero => exact .refl s
  | succ n ih =>
    obtain ⟨ht, hp', hr'⟩ := passBoundary_idle hs hp hr
    rw [Function.iterate_succ_apply]
    exact passBoundary_runsTo hs hp hr (ih ht hp' hr')

/-! ## The parts of O48 -/

/-- The command that names an expiry lets it come at its boundary. -/
theorem exec_expiryCommand (s : State) (x : Expiry) : exec (expiryCommand x) s = .next (comeTo s x) := by
  cases x <;> rfl

theorem comeTo_of_running {s : State} {x : Expiry} {n : Nat} (h : s.ticksLeft x = some n) :
    comeTo s x = if (reach n s).ticksLeft x = some 0 then expire (reach n s) x else reach n s := by
  simp only [comeTo, h]
  split_ifs with hd
  · exact takeIfDue_of_due hd
  · exact takeIfDue_of_not_due hd

/-- The long ticks that a running lease, penalty or lifetime has left, in ticks. -/
theorem ticksToLong_eq (s : State) (k : Nat) : s.ticksToLong k = if k = 0 then 0 else 100 * k - s.tickPhase := rfl

theorem ticksLeft_lifetime_of_running {s : State} {r : RecId} {k : Nat} (hr : s.lifetimeRunning (s.msg r) = true)
    (hk : (s.msg r).lifetime = some k) :
    s.ticksLeft (.lifetime r) =
      some (if (s.msg r).expiring = true ∨ k = 0 then 0 else 100 * k - s.tickPhase) := by
  rw [ticksLeft_lifetime, if_pos hr, hk, Option.map_some, ticksToLong_eq]
  by_cases he : (s.msg r).expiring = true <;> simp [he]

/-- A record after `n` boundaries: only a running lifetime falls, at the long-tick boundaries among them (R65). -/
theorem msg_advance_lifetime (n : Nat) (s : State) (r : RecId) :
    (advance n s).msg r =
      if s.lifetimeRunning (s.msg r) = true ∧ 1 ≤ (s.tickPhase + n) / 100 then
        match (s.msg r).lifetime with
        | none => s.msg r
        | some v => if (s.tickPhase + n) / 100 < v then { s.msg r with lifetime := some (v - (s.tickPhase + n) / 100) }
                    else { s.msg r with lifetime := some 1, expiring := true }
      else s.msg r := by
  rw [msg_advance, Config.ticksPerLong]
  generalize (s.tickPhase + n) / 100 = k
  by_cases hk : k = 0
  · simp [hk]
  · by_cases hr : s.lifetimeRunning (s.msg r) = true
    · rw [if_neg hk, if_pos hr, if_pos ⟨hr, by omega⟩]; rfl
    · simp [hk, hr]

/-- A hand slot after `n` boundaries: only a running lease falls, at the long-tick boundaries among them (R88). -/
theorem slot_advance_lease (n : Nat) (s : State) (p : Port) (i : Slot) :
    (advance n s).slot p i = match s.slot p i with
      | .holding r h tk (some v) => .holding r h tk (some (v - (s.tickPhase + n) / 100))
      | x => x := by
  rw [slot_advance]
  match s.slot p i with
  | .holding r h tk (some v) => rfl
  | .holding r h tk none => rfl
  | .empty => rfl
  | .reserved => rfl

/-- A stretch in which nothing falls due only passes boundaries. -/
theorem reach_of_none_due {n : Nat} {s : State} (hs : s.tickPhase < 100) (hr : s.reclaim = [])
    (h : ∀ x, ∀ k ∈ s.ticksLeft x, n ≤ k) : reach n s = advance n s := by
  rw [reach_eq_iterate n hs, passBoundary_iterate_eq_advance n s hs hr h]

/-- One boundary passes as its own stretch, in any state. -/
theorem reach_one (s : State) : reach 1 s = advance 1 (settle s) := by
  have hone : (if (settle s).reclaim.isEmpty then (settle s).nextDue 1 else 1) = 1 := by
    obtain ⟨hpos, hle, -⟩ := nextDue_spec (settle s) 1
    split_ifs <;> omega
  simp only [reach, passTicks, Nat.one_ne_zero, if_false, hone]

/-- A step that the engine owes is the part's own step, where nothing is due (R44, log 26). -/
theorem step_of_owing {s : State} (hp : s.pending = []) (hr : s.reclaim ≠ []) (ho : s.stepsOwed ≠ 0)
    (hd : ∀ x, s.ticksLeft x ≠ some 0) :
    ∃ t, step s = .next t ∧ (exec .recordStep s = .next t ∨ exec .completionStep s = .next t) ∧ s.clockStep t ∧
      ((∀ x, t.ticksLeft x ≠ some 0) → settle s = settle t) := by
  obtain ⟨hcase, hclock⟩ := engineStep_cases hr
  refine ⟨engineStep s, ?_, ?_, hclock, fun hd' => (settle_engineStep hr ho hd hd').symm⟩
  · rw [step_of_none_due hp hd, idleOnward_of_owing hr ho]
  · rcases hcase with e | e
    · exact Or.inl (congrArg Host.Outcome.next e.symm)
    · exact Or.inr (congrArg Host.Outcome.next e.symm)

/-- Where the engine has work and owes no step, its step or a boundary comes first, for either choice (log 26). -/
theorem step_of_choice {s : State} (hp : s.pending = []) (hr : s.reclaim ≠ []) (ho : s.stepsOwed = 0)
    (hd : ∀ x, s.ticksLeft x ≠ some 0) :
    ∃ t, step s = .next t ∧
      let u := { s with draws := s.draws + 1 }
      (exec .recordStep u = .next t ∨ exec .completionStep u = .next t ∨ t = advance 1 u) := by
  refine ⟨idleOnward s, step_of_none_due hp hd, ?_⟩
  rcases idleOnward_of_choice hr ho with e | e
  · exact Or.inr (Or.inr e)
  · rcases (engineStep_cases (s := { s with draws := s.draws + 1 }) hr).1 with e' | e'
    · exact Or.inl (congrArg Host.Outcome.next (e.trans e').symm)
    · exact Or.inr (Or.inl (congrArg Host.Outcome.next (e.trans e').symm))

/-- Where something is due, the part takes an expiry that is due, and what comes before the next boundary begins with it. -/
theorem step_takes_due {s : State} (hp : s.pending = []) (h : ∃ x, s.ticksLeft x = some 0) :
    ∃ y, s.ticksLeft y = some 0 ∧ step s = .next (expire s y) ∧ (s.ranged → settle s = settle (expire s y)) := by
  obtain ⟨y, hy⟩ := exists_first_due h
  exact ⟨y, (find_isDue_eq_some hy).1, step_of_due hp hy, fun hs => (settle_expire_first (timed_of_ranged hs) hy).symm⟩

theorem engineGap_advance_busy (n : Nat) {s : State} (h : s.reclaim ≠ []) :
    (advance n s).engineGap = s.engineGap + 50 * n := by
  by_cases hn : n = 0
  · simp [engineGap_advance, hn]
  · simp [engineGap_advance, hn, h, Config.stepsPerTick]

theorem engineGap_advance_idle (n : Nat) {s : State} (h : s.reclaim = []) : (advance (n + 1) s).engineGap = 0 := by
  simp [engineGap_advance, h]

/-- Settles O48: the distances of the expiries, what boundaries move, how what is due and the engine's steps come before
them, and what the part does of itself, each part by its lemma above. -/
theorem expiriesComeAtTheirBoundary : Obligations.ExpiriesComeAtTheirBoundary := by
  refine ⟨?stopped, ?comes, ?wait, ?coalescing, ?lease, ?penalty, ?lifetime, ?nearer, ?moves, ?addUp, ?reachAddsUp,
    ?nothingDue, ?alone, ?one, ?settled, ?due, ?owing, ?choice, ?owed, ?busyGap, ?idleGap, ?tick⟩
  case stopped => exact fun s x h => by rw [exec_expiryCommand, comeTo_of_stopped h]
  case comes => exact fun s x n h => by rw [exec_expiryCommand, comeTo_of_running h]
  case wait => exact fun s p w => ticksLeft_wait_of_parked s
  case coalescing => exact fun s p h u hu => by rw [ticksLeft_coalescing, hu]; rfl
  case lease => exact fun s p i r h tk k hs => by rw [ticksLeft_lease, hs]; rfl
  case penalty => exact fun s p k hk => by rw [ticksLeft_penalty, hk]; rfl
  case lifetime => exact fun s r k => ticksLeft_lifetime_of_running
  case nearer => exact fun n k s x hs hk _ => by rw [ticksLeft_advance s (timed_of_ranged hs).1, hk]; rfl
  case moves => exact fun n s => ⟨rfl, rfl, rfl, rfl, rfl, rfl, fun p => by rw [port_advance]; rfl, slot_advance_lease n s,
    att_advance s n, msg_advance_lifetime n s⟩
  case addUp => exact advance_advance
  case reachAddsUp => exact fun m n s hs => reach_reach m n (timed_of_ranged hs).1
  case nothingDue => exact fun n s hs => reach_of_none_due (timed_of_ranged hs).1
  case alone => exact fun n s hs hp hr => runsTo_reach n (timed_of_ranged hs) hp hr
  case one => exact reach_one
  case settled => exact fun s => settle_of_none
  case due => exact fun s => step_takes_due
  case owing => exact fun s => step_of_owing
  case choice => exact fun s => step_of_choice
  case owed => exact fun s => rfl
  case busyGap => exact fun n s => engineGap_advance_busy n
  case idleGap => exact fun n s => engineGap_advance_idle n
  case tick => exact fun s hp hr hd => by rw [step_of_none_due hp hd, idleOnward_of_idle_engine hr]

end Sys2Proof.Machine
end

section
/-! SUPPORT. The family of 01_channels_and_attachments.md. Device reset (O3) and the laws right after it (O52). -/

namespace Sys2Proof.Machine

/-! ## Device reset (R26, R93) -/

/-- The status byte of a port that is UNSYNCED and has nothing to report shows its number alone (R198). -/
theorem statusByte_of_reset {s : State} {p : Port} (h : s.port p = PortState.reset) :
    s.statusByte p = BitVec.ofNat 8 p.val := by
  have hand : PortState.reset.handAny = false := by decide
  rw [State.statusByte, h, hand]
  simp [PortState.reset, Response.reset, bitValue]

/-- No channel carries a name where all are FREE (R26). -/
theorem lookupName_eq_none_of_free {s : State} (h : ∀ c, (s.chan c).state = .free) (name : Word) :
    s.lookupName name = none := by
  simp [State.lookupName, h]

/-- All 1024 cells are free where none is in use (R33). -/
theorem length_freeCells_of_nil {s : State} (h : s.cells = []) : s.freeCells.length = 1024 := by
  simp [State.freeCells, h, Config.cellCount]

/-- Settles O3: every block reads as that of `State.reset`. -/
theorem resetEmptiesThePart : Obligations.ResetEmptiesThePart := by
  intro cause s hcause
  have hexec : exec (.deviceReset cause) s = .next (resetPart s) := by
    cases cause with
    | powerOn => rfl
    | lowPulse => rfl
    | shortPulse => exact absurd rfl hcause
  have hport : ∀ p, (resetPart s).port p = PortState.reset := port_reset
  refine ⟨resetPart s, hexec, fun p => ?_, fun c => chan_reset c, ?_, fun r => msg_reset r, ?_, rfl, rfl⟩
  · have hslot : ∀ i, (resetPart s).slot p i = .empty := slot_reset p
    have hatt : ∀ h, (resetPart s).att ⟨p, h⟩ = none := fun h => att_reset ⟨p, h⟩
    have hattn : (resetPart s).attnAsserted p = false := by simp [State.attnAsserted, hport, PortState.reset]
    rw [hport]
    exact ⟨rfl, rfl, rfl, rfl, rfl, rfl, rfl, hslot, rfl, rfl, rfl, rfl, rfl, rfl, hatt, statusByte_of_reset (hport p), hattn⟩
  · exact lookupName_eq_none_of_free (fun c => by rw [show (resetPart s).chan c = Channel.free from chan_reset c]; rfl)
  · exact length_freeCells_of_nil rfl

/-! ## The laws right after reset -/

@[simp] theorem attachmentsOf_reset (c : ChanId) : State.reset.attachmentsOf c = [] := by simp [State.attachmentsOf]
@[simp] theorem parked_reset (p : Port) : (State.reset.port p).parked = none := by rw [port_reset]; rfl
@[simp] theorem inHands_reset : State.reset.inHands = [] := by simp [State.inHands]
@[simp] theorem holdings_reset : State.reset.holdings = [] := by simp [State.holdings]

theorem ranged_reset : State.reset.ranged := by
  refine ⟨by decide, by decide, fun p => ?_, fun p h t ht => ?_, fun c => ?_, fun r => ?_⟩
  · rw [port_reset]; decide
  · simp at ht
  · rw [chan_reset]; decide
  · rw [msg_reset]; simp [MsgRecord.ranged, MsgRecord.free]

theorem cellsAgree_reset : State.reset.cellsAgree := by
  refine ⟨Table.wf_nil _ _, fun p => ?_, ?_, ?_, ?_, ?_, ?_, ?_⟩
  · rw [port_reset]
    refine (List.sum_eq_zero fun n hn => ?_).symm
    obtain ⟨r, -, rfl⟩ := List.mem_map.mp hn
    exact if_neg (fun h => h.1 rfl)
  · simp [MsgRecord.free]
  · simp [MsgRecord.free]
  · simp [State.reset, MsgRecord.free, State.msg]
  · simp [MsgRecord.free]
  · simp [MsgRecord.free, cellsFor, Config.cellBytes]
  · simp [MsgRecord.free]

theorem handsAgree_reset : State.reset.handsAgree := by
  intro p
  rw [port_reset]
  exact ⟨fun i => by simp [PortState.reset], fun w hw => by simp [PortState.reset] at hw⟩

theorem receiptsBounded_reset : State.reset.receiptsBounded := by
  refine ⟨fun p => ?_, fun p => ?_, fun r _ => by rw [msg_reset]; rfl⟩
  · rw [port_reset]; simp [PortState.reset]
  · simp [State.owedReceipts, PortState.reset, MsgRecord.free]

theorem eventsFormed_reset : State.reset.eventsFormed := by
  intro p
  rw [port_reset]
  exact ⟨[], by simp, by simp, Or.inl rfl⟩

theorem namesDiffer_reset : State.reset.namesDiffer := by
  intro c d hc
  exact absurd rfl hc

theorem unsyncedEmpty_reset : State.reset.unsyncedEmpty := by
  refine ⟨fun p _ => ?_, fun c w hw => ?_, fun c a ha => ?_, fun r hr => ?_⟩
  · rw [port_reset]; simp [PortState.reset]
  · rw [chan_reset] at hw; simp [Channel.free] at hw
  · rw [chan_reset] at ha; simp [Channel.free] at ha
  · rw [msg_reset] at hr; simp [MsgRecord.free] at hr

theorem channelsAgree_reset : State.reset.channelsAgree := by
  refine ⟨⟨?_, ?_⟩, ⟨?_, ?_⟩, ⟨?_, ?_⟩, ?_⟩
  · simp
  · simp [Channel.free]
  · simp
  · simp
  · simp [Channel.free]
  · intro p w hw; rw [parked_reset] at hw; simp at hw
  · intro c hc; simp [Channel.free] at hc

theorem recordsPlaced_reset : State.reset.recordsPlaced := by
  refine ⟨?_, ⟨?_, ?_⟩, ?_, ?_, ?_⟩
  · intro c; simp [Channel.free]
  · simp [State.slotSound]
  · simp
  · intro r; simp [MsgRecord.free]
  · intro r; simp [MsgRecord.free]
  · intro r
    simp [State.recordPlaced, MsgRecord.free]

theorem lawful_reset : State.reset.lawful := by
  refine ⟨channelsAgree_reset, ?_, handsAgree_reset, ?_, recordsPlaced_reset, ?_, fun c _ => chan_reset c⟩
  · intro c hc; simp [Channel.free] at hc
  · refine ⟨?_, fun c => ?_, ?_⟩
    · simp [State.reset]
    · rw [chan_reset]; simp [State.reset, Channel.free]
    · simp [State.reset]
  · intro c hc; simp [Channel.free] at hc

/-- Settles O52: the tables are empty, the ports at rest, and no law has anything to break it. -/
theorem resetMeetsEveryLaw : Obligations.ResetMeetsEveryLaw :=
  ⟨⟨Table.wf_nil _ _, Table.wf_nil _ _, Table.wf_nil _ _⟩, ranged_reset, cellsAgree_reset,
   by decide, handsAgree_reset, receiptsBounded_reset, eventsFormed_reset, namesDiffer_reset,
   fun r => by rw [msg_reset]; exact ⟨Nat.zero_le _, Nat.zero_le _⟩, unsyncedEmpty_reset, lawful_reset⟩

end Sys2Proof.Machine
end

section
/-! SUPPORT. What a command frame that is taken does before and after its command's own work (R185, R192, R195), and what the
occupancies of the channels depend on (R50). -/

namespace Sys2Proof.Machine

/-! ## A command frame that is taken

`s.onFrame f` is the state in which the command of the frame `f` does its work: of the port's interface only the receiver
and SDO have changed. -/

/-- The state that a command finds once its frame has been received and echoed (R192, R195). -/
def State.onFrame (s : State) (f : CommandFrame) : State :=
  shiftOut (s.received f.link) f.link.port (s.echo f.link (buildFrame f.code f.seq f.args))

section
variable (s : State) (f : CommandFrame)

@[simp] theorem channels_onFrame : (s.onFrame f).channels = s.channels := channels_received s f.link
@[simp] theorem records_onFrame : (s.onFrame f).records = s.records := records_received s f.link
@[simp] theorem cells_onFrame : (s.onFrame f).cells = s.cells := cells_received s f.link
@[simp] theorem reclaim_onFrame : (s.onFrame f).reclaim = s.reclaim := reclaim_received s f.link
@[simp] theorem tickPhase_onFrame : (s.onFrame f).tickPhase = s.tickPhase := tickPhase_received s f.link
@[simp] theorem engineGap_onFrame : (s.onFrame f).engineGap = s.engineGap := engineGap_received s f.link
@[simp] theorem pending_onFrame : (s.onFrame f).pending = s.pending := pending_received s f.link

theorem storesSame_onFrame : s.storesSame (s.onFrame f) :=
  ⟨channels_onFrame s f, records_onFrame s f, cells_onFrame s f, reclaim_onFrame s f, tickPhase_onFrame s f,
   engineGap_onFrame s f, pending_onFrame s f⟩

@[simp] theorem chan_onFrame (c : ChanId) : (s.onFrame f).chan c = s.chan c := by
  rw [State.chan, channels_onFrame, State.chan]

@[simp] theorem msg_onFrame (r : RecId) : (s.onFrame f).msg r = s.msg r := by
  rw [State.msg, records_onFrame, State.msg]

/-- A frame at one port leaves the others. -/
theorem port_onFrame_of_ne {q : Port} (h : q ≠ f.link.port) : (s.onFrame f).port q = s.port q :=
  (port_modPort_of_ne _ h _).trans (port_received_of_ne s h)

/-- A frame writes the receiver and SDO of its port alone. -/
theorem port_onFrame (q : Port) : (s.onFrame f).port q =
    { s.port q with deaf := ((s.onFrame f).port q).deaf, flight := ((s.onFrame f).port q).flight,
                    sdo := ((s.onFrame f).port q).sdo } := by
  by_cases h : q = f.link.port
  · subst h
    have e : (s.onFrame f).port f.link.port = _ := port_modPort_self _ _ _
    rw [e, port_received_self]
  · rw [port_onFrame_of_ne s f h]

@[simp] theorem session_onFrame (q : Port) : ((s.onFrame f).port q).session = (s.port q).session := by rw [port_onFrame]
@[simp] theorem penalty_onFrame (q : Port) : ((s.onFrame f).port q).penalty = (s.port q).penalty := by rw [port_onFrame]
@[simp] theorem slots_onFrame (q : Port) : ((s.onFrame f).port q).slots = (s.port q).slots := by rw [port_onFrame]
@[simp] theorem parked_onFrame (q : Port) : ((s.onFrame f).port q).parked = (s.port q).parked := by rw [port_onFrame]
@[simp] theorem attachments_onFrame (q : Port) : ((s.onFrame f).port q).attachments = (s.port q).attachments := by
  rw [port_onFrame]

@[simp] theorem att_onFrame (a : AttRef) : (s.onFrame f).att a = s.att a := by
  rw [State.att, attachments_onFrame, State.att]

@[simp] theorem slot_onFrame (p : Port) (i : Slot) : (s.onFrame f).slot p i = s.slot p i := by
  rw [State.slot, slots_onFrame, State.slot]

variable {s f}

/-- No frame is in flight at a port whose frame has been taken. -/
theorem flight_onFrame (h : s.takes f.link = true) : ((s.onFrame f).port f.link.port).flight = none := by
  have hb : f.link.part ≠ .begins := fun e => by simp [takes_begins s e] at h
  have e : (s.onFrame f).port f.link.port = _ := port_modPort_self _ _ _
  rw [e]
  exact flight_received s hb

/-- A command frame of an allowed length that is taken on an ACTIVE port: its command does its work, the event ends, and the
response record takes the outcome (R185, R187). -/
theorem runCommand_of_ready {i : Instr} {body : State → Reply} (hi : i.frame = some f)
    (hl : checkLength f.code f.args.length = none) (h : s.ready f.link) :
    runCommand i body s = .next (respond
      (startEngine (s.onFrame f) (endOfEvent (s.onFrame f) (body (s.onFrame f)).state)) f.link.port f.seq f.code
      (body (s.onFrame f)).result (body (s.onFrame f)).data) := by
  have ha : ((s.onFrame f).port f.link.port).session = .active := by rw [session_onFrame]; exact h.2
  rw [runCommand_of_takes s hi h.1]
  exact congrArg _ (takeCommand_of_active (s.onFrame f) hl ha)

end

/-! ## What the response record leaves -/

section
variable (s : State) (p : Port) (seq code : Byte) (x : Result) (d : List Byte)

@[simp] theorem port_respond_self : (respond s p seq code x d).port p = { s.port p with response := ⟨seq, code, x, d, true⟩ } :=
  port_modPort_self s p _

theorem port_respond_of_ne {q : Port} (h : q ≠ p) : (respond s p seq code x d).port q = s.port q := port_modPort_of_ne s h _

@[simp] theorem chan_respond (c : ChanId) : (respond s p seq code x d).chan c = s.chan c := rfl
@[simp] theorem msg_respond (r : RecId) : (respond s p seq code x d).msg r = s.msg r := rfl

@[simp] theorem att_respond (a : AttRef) : (respond s p seq code x d).att a = s.att a := by
  rw [respond, att_modPort]
  split_ifs with h
  · rw [State.att, h]
  · rfl

@[simp] theorem slot_respond (q : Port) (i : Slot) : (respond s p seq code x d).slot q i = s.slot q i := by
  rw [respond, slot_modPort]
  split_ifs with h
  · rw [State.slot, h]
  · rfl

/-- The answer of a command that leaves at its port, besides the receiver and SDO, the interface `q`. -/
theorem portIs_respond {q : PortState} {s' : State} {f : CommandFrame} (ht : s'.takes f.link = true)
    (h : s.port f.link.port = { q with deaf := ((s'.onFrame f).port f.link.port).deaf,
                                       flight := ((s'.onFrame f).port f.link.port).flight,
                                       sdo := ((s'.onFrame f).port f.link.port).sdo }) :
    (respond s f.link.port seq code x d).portIs f.link.port q ⟨seq, code, x, d, true⟩ := by
  rw [State.portIs, port_respond_self, h, flight_onFrame ht]

end

/-- A command that ends its event without a ROOM check and leaves the work queue (R64, R44). -/
theorem runCommand_of_reply {s u : State} {i : Instr} {f : CommandFrame} {body : State → Reply} {x : Result} {d : List Byte}
    (hi : i.frame = some f) (hl : checkLength f.code f.args.length = none) (h : s.ready f.link)
    (hb : body (s.onFrame f) = ⟨u, x, d⟩) (he : ∀ c, (u.chan c).state = .opened → (s.onFrame f).occupancy c ≤ u.occupancy c)
    (hq : u.reclaim = s.reclaim) :
    runCommand i body s = .next (respond u f.link.port f.seq f.code x d) := by
  have hstart : startEngine (s.onFrame f) u = u :=
    startEngine_of_not_started (by rw [hq, reclaim_onFrame]; exact (em _).symm)
  rw [runCommand_of_ready hi hl h, hb, endOfEvent_eq_of_not_lower he, hstart]

/-- A command that changes nothing itself only answers (R186). -/
theorem onlyAnswers_of_unchanged {s : State} {i : Instr} {f : CommandFrame} {body : State → Reply} {x : Result}
    {d : List Byte} (hi : i.frame = some f) (hl : checkLength f.code f.args.length = none) (h : s.ready f.link)
    (hb : body (s.onFrame f) = ⟨s.onFrame f, x, d⟩) :
    ∃ t, runCommand i body s = .next t ∧ s.onlyAnswers t f.link.port ⟨f.seq, f.code, x, d, true⟩ := by
  refine ⟨_, runCommand_of_reply hi hl h hb (fun _ _ => le_rfl) (reclaim_onFrame s f), ?_⟩
  refine ⟨storesSame_onFrame s f, fun q hq => ?_, portIs_respond _ _ _ _ _ h.1 (port_onFrame s f _)⟩
  rw [port_respond_of_ne _ _ _ _ _ _ hq, port_onFrame_of_ne s f hq]

/-- A command through a handle that names no attachment is refused (R12). -/
theorem badHandle_of_namesNone {s : State} {i : Instr} {f : CommandFrame} {b : Byte}
    {k : State → Handle → Attachment → Reply} (hi : i.frame = some f) (hl : checkLength f.code f.args.length = none)
    (h : s.ready f.link) (hb : s.namesNone f.link.port b) :
    ∃ t, runCommand i (fun s => withHandle s f.link.port b (k s)) s = .next t ∧
      s.onlyAnswers t f.link.port ⟨f.seq, f.code, .badHandle, [], true⟩ :=
  onlyAnswers_of_unchanged hi hl h (withHandle_of_none _ (fun j hj => by rw [att_onFrame]; exact hb j hj))

/-- A command through a handle that names an attachment does its work with it. -/
theorem withHandle_onFrame {s : State} {f : CommandFrame} {p : Port} {b : Byte} {h : Handle} {u : Attachment}
    {k : Handle → Attachment → Reply} (hn : s.names p b h u) : withHandle (s.onFrame f) p b k = k h u :=
  withHandle_of_names _ hn.1 (by rw [att_onFrame]; exact hn.2)

/-! ## The occupancy (R50) and the places of the records -/

/-- What an event leaves of the hand slots, it leaves of the records in hand. -/
theorem inHands_congr {s t : State} (h : ∀ p i, t.slot p i = s.slot p i) : t.inHands = s.inHands := by
  simp [State.inHands, h]

/-- The occupancy depends on the channel's state, kind and list, on the states and channels of the records, and on the hand
slots. -/
theorem occupancy_congr {s t : State} {c : ChanId} (hstate : (t.chan c).state = (s.chan c).state)
    (hkind : (t.chan c).kind = (s.chan c).kind) (hlist : (t.chan c).list = (s.chan c).list)
    (hm : ∀ r, (t.msg r).state = (s.msg r).state ∧ (t.msg r).channel = (s.msg r).channel)
    (hs : ∀ p i, t.slot p i = s.slot p i) : t.occupancy c = s.occupancy c := by
  simp [State.occupancy, hstate, hkind, hlist, hm, inHands_congr hs]

theorem withRole_congr {s t : State} (h : ∀ a, t.att a = s.att a) (c : ChanId) (x : Role) :
    t.withRole c x = s.withRole c x := by
  simp [State.withRole, h]

/-- A FREE channel has no occupancy. -/
theorem occupancy_of_free {s : State} {c : ChanId} (h : (s.chan c).state = .free) : s.occupancy c = 0 := by
  simp [State.occupancy, h]

@[simp] theorem occupancy_onFrame (s : State) (f : CommandFrame) (c : ChanId) : (s.onFrame f).occupancy c = s.occupancy c :=
  occupancy_congr (by simp) (by simp) (by simp) (by simp) (by simp)

@[simp] theorem withRole_onFrame (s : State) (f : CommandFrame) (c : ChanId) (x : Role) :
    (s.onFrame f).withRole c x = s.withRole c x := withRole_congr (att_onFrame s f) c x

/-! ## Inspection (R25, R143, R147) -/

@[simp] theorem infoBytes_onFrame (s : State) (f : CommandFrame) (c : ChanId) : (s.onFrame f).infoBytes c = s.infoBytes c := by
  simp [State.infoBytes]

@[simp] theorem headerBytes_onFrame (s : State) (f : CommandFrame) (r : RecId) :
    (s.onFrame f).headerBytes r = s.headerBytes r := by
  simp [State.headerBytes]

/-- The header of a record of a channel (R73). -/
theorem headerBytes_eq_headerOf {s : State} {r : RecId} {c : ChanId} (h : (s.msg r).channel = some c) :
    s.headerBytes r = headerOf (s.msg r) (s.chan c).name := by
  simp [State.headerBytes, headerOf, ticketBytes, h, byte, two, yesNo]

/-- The eight counters, in the order of Table 7-2. -/
theorem statsBytes_eq (st : Stats) : statsBytes st = ((List.finRange 8).map (fun k => st[k])).flatMap Word.bytes := by
  have h : st.toList = (List.finRange 8).map (fun k => st[k]) := by
    apply List.ext_getElem <;> simp
  rw [statsBytes, h]

theorem boolOf_eq (b : Byte) : boolOf b = if b = 0 then some false else if b = 1 then some true else none := rfl

end Sys2Proof.Machine
end

section
/-! SUPPORT. CHANNEL_INFO, PEEK and READ_STATS (O40). -/

namespace Sys2Proof.Machine

/-- The bytes of CHANNEL_INFO with the codes of its fields written out (R25, Tables 11-6 and 11-7). -/
theorem infoBytes_eq {s : State} {c : ChanId} (h : (s.chan c).state = .opened ∨ (s.chan c).state = .purging) :
    s.infoBytes c = [BitVec.ofNat 8 c.val] ++ Word.bytes (s.chan c).name ++
      [if (s.chan c).kind = .point then 0 else 1, if (s.chan c).state = .opened then 1 else 2,
       BitVec.ofNat 8 (s.chan c).depthLimit, BitVec.ofNat 8 (s.chan c).roomMark,
       if (s.chan c).policy = .refuse then 0 else 1, if (s.chan c).code = 0 then 0 else 1,
       BitVec.ofNat 8 (s.occupancy c), BitVec.ofNat 8 (s.chan c).list.length, BitVec.ofNat 8 (s.chan c).waiters.length,
       BitVec.ofNat 8 (s.withRole c .producer).length, BitVec.ofNat 8 (s.withRole c .consumer).length,
       BitVec.ofNat 8 (s.withRole c .subscriber).length, if (s.chan c).held then 1 else 0,
       if (s.chan c).watch = none then 0 else 1, if (s.chan c).purger = none then 0 else 1] := by
  have hkind : kindCode (s.chan c).kind = if (s.chan c).kind = .point then 0 else 1 := by
    cases (s.chan c).kind <;> rfl
  have hpolicy : policyCode (s.chan c).policy = if (s.chan c).policy = .refuse then 0 else 1 := by
    cases (s.chan c).policy <;> rfl
  have hstate : chanStateCode (s.chan c).state = if (s.chan c).state = .opened then 1 else 2 := by
    rcases h with h | h <;> rw [h] <;> rfl
  have hsome : ∀ {α : Type} (o : Option α) [Decidable (o = none)], yesNo o.isSome = if o = none then 0 else 1 := by
    intro α o _
    cases o <;> simp [yesNo]
  have hcode : yesNo ((s.chan c).code != 0) = if (s.chan c).code = 0 then 0 else 1 := by
    by_cases h0 : (s.chan c).code = 0 <;> simp [yesNo, h0]
  simp only [State.infoBytes, hkind, hpolicy, hstate, hsome, hcode, byte]
  rfl

/-- An update of counters alone ends its event without a ROOM check (R64). -/
theorem occupancy_modChan_of_same (s : State) (c d : ChanId) {f : Channel → Channel}
    (hstate : (f (s.chan c)).state = (s.chan c).state) (hkind : (f (s.chan c)).kind = (s.chan c).kind)
    (hlist : (f (s.chan c)).list = (s.chan c).list) : (s.modChan c f).occupancy d = s.occupancy d := by
  by_cases h : d = c
  · subst h
    exact occupancy_congr (by simpa) (by simpa) (by simpa) (by simp) (by simp)
  · exact occupancy_congr (by simp [h]) (by simp [h]) (by simp [h]) (by simp) (by simp)

theorem peekBody_eq {s : State} {p : Port} {b x : Byte} {h : Handle} {u : Attachment} (hn : s.names p b h u) :
    peekBody p b x s =
      if 63 < x.toNat then refuse s .badArgument
      else if (s.chan u.channel).state = .purging then refuse s .empty
      else match (s.chan u.channel).list[x.toNat]? with
        | none => refuse s .empty
        | some r => ⟨s, .ok, x :: s.headerBytes r⟩ :=
  withHandle_of_names s hn.1 hn.2

theorem exec_channelInfo (l : Link) (seq b : Byte) (s : State) : exec (.channelInfo l seq b) s =
    runCommand (.channelInfo l seq b)
      (fun s => withHandle s l.port b (fun _ t => ⟨s, .ok, s.infoBytes t.channel⟩)) s := rfl

theorem exec_peek (l : Link) (seq b x : Byte) (s : State) :
    exec (.peek l seq b x) s = runCommand (.peek l seq b x) (peekBody l.port b x) s := rfl

theorem exec_readStats (l : Link) (seq b x : Byte) (s : State) :
    exec (.readStats l seq b x) s = runCommand (.readStats l seq b x) (readStatsBody l.port b x) s := rfl

theorem readStatsBody_eq {s : State} {p : Port} {b x : Byte} {h : Handle} {u : Attachment} (hn : s.names p b h u) :
    readStatsBody p b x s =
      if x = 0 then ⟨s, .ok, statsBytes (s.chan u.channel).stats⟩
      else if x = 1 then
        ⟨s.modChan u.channel (fun ch => { ch with stats := Vector.replicate 8 0 }), .ok, statsBytes (s.chan u.channel).stats⟩
      else refuse s .badArgument := by
  rw [readStatsBody, withHandle_of_names s hn.1 hn.2, boolOf]
  split_ifs <;> rfl

theorem names_onFrame {s : State} {p : Port} {b : Byte} {h : Handle} {u : Attachment} (hn : s.names p b h u)
    (f : CommandFrame) : (s.onFrame f).names p b h u := ⟨hn.1, by rw [att_onFrame]; exact hn.2⟩

/-- Settles O40. -/
theorem inspectionReadsTheChannel : Obligations.InspectionReadsTheChannel := by
  refine ⟨rfl, ?badHandle, ?info, ?peek, ?stats⟩
  case badHandle =>
    intro l seq b x s hr hb
    rw [exec_channelInfo, exec_peek, exec_readStats]
    exact ⟨badHandle_of_namesNone (f := ⟨l, 0x14, seq, [b]⟩) rfl rfl hr hb,
      badHandle_of_namesNone (f := ⟨l, 0x44, seq, [b, x]⟩) rfl rfl hr hb,
      badHandle_of_namesNone (f := ⟨l, 0x45, seq, [b, x]⟩) rfl rfl hr hb⟩
  case info =>
    intro l seq b s h u hr hn ch inRole hopen
    have hrole : ∀ x, inRole x = BitVec.ofNat 8 (s.withRole u.channel x).length :=
      fun x => congrArg (BitVec.ofNat 8) List.countP_eq_length_filter
    rw [exec_channelInfo, hrole, hrole, hrole]
    exact onlyAnswers_of_unchanged (f := ⟨l, 0x14, seq, [b]⟩) rfl rfl hr
      (by rw [withHandle_onFrame hn, infoBytes_onFrame, infoBytes_eq hopen])
  case peek =>
    intro l seq b x s h u hr hn
    have hbody := peekBody_eq (x := x) (names_onFrame hn ⟨l, 0x44, seq, [b, x]⟩)
    simp only [chan_onFrame, headerBytes_onFrame] at hbody
    rw [exec_peek]
    split_ifs with hx hp
    · rw [if_pos hx] at hbody
      exact onlyAnswers_of_unchanged rfl rfl hr hbody
    · rw [if_neg hx, if_pos hp] at hbody
      exact onlyAnswers_of_unchanged rfl rfl hr hbody
    · rw [if_neg hx, if_neg hp] at hbody
      cases hlist : (s.chan u.channel).list[x.toNat]? with
      | none =>
        rw [hlist] at hbody
        exact onlyAnswers_of_unchanged rfl rfl hr hbody
      | some r =>
        rw [hlist] at hbody
        obtain ⟨t, ht, ha⟩ := onlyAnswers_of_unchanged (i := .peek l seq b x) rfl rfl hr hbody
        exact ⟨t, ht, fun hc => headerBytes_eq_headerOf hc ▸ ha⟩
  case stats =>
    intro l seq b x s h u hr hn d
    have hbody := readStatsBody_eq (x := x) (names_onFrame hn ⟨l, 0x45, seq, [b, x]⟩)
    simp only [chan_onFrame, statsBytes_eq] at hbody
    rw [exec_readStats]
    split_ifs with h0 h1
    · rw [if_pos h0] at hbody
      exact onlyAnswers_of_unchanged rfl rfl hr hbody
    · rw [if_neg h0, if_pos h1] at hbody
      have hrun := runCommand_of_reply (i := .readStats l seq b x) rfl rfl hr hbody
        (fun c _ => by rw [occupancy_modChan_of_same] <;> rfl) (by simp)
      refine ⟨_, hrun, ?_, fun c hc => ?_, ?_, ?_, ?_, ?_, fun q hq => ?_, ?_⟩
      · rw [chan_respond, chan_modChan_self, chan_onFrame]
      · rw [chan_respond, chan_modChan_of_ne _ hc, chan_onFrame]
      · exact records_onFrame _ _
      · exact cells_onFrame _ _
      · exact reclaim_onFrame _ _
      · exact ⟨tickPhase_onFrame _ _, engineGap_onFrame _ _, pending_onFrame _ _⟩
      · exact (port_respond_of_ne _ _ _ _ _ _ hq).trans (port_onFrame_of_ne s _ hq)
      · exact portIs_respond _ _ _ _ _ hr.1 (port_onFrame s _ _)
    · rw [if_neg h0, if_neg h1] at hbody
      exact onlyAnswers_of_unchanged rfl rfl hr hbody

end Sys2Proof.Machine
end

section
/-! SUPPORT. The lookups of CREATE and ATTACH: the lowest free handle and channel record, the channel of a name, the codes of bytes. -/

namespace Sys2Proof.Machine

theorem exec_create (l : Link) (seq : Byte) (name : Word) (kind depth mark policy : Byte) (code : AccessCode) (role : Byte)
    (s : State) : exec (.create l seq name kind depth mark policy code role) s =
      runCommand (.create l seq name kind depth mark policy code role)
        (createBody l.port name kind depth mark policy code role) s := rfl

theorem exec_attach (l : Link) (seq : Byte) (name : Word) (role : Byte) (code : AccessCode) (options : Byte) (s : State) :
    exec (.attach l seq name role code options) s =
      runCommand (.attach l seq name role code options) (attachBody l.port name role code options) s := rfl

/-! ## The lowest number that meets a condition (R12, R15) -/

theorem find_finRange_eq_some_iff {n : Nat} {p : Fin n → Bool} {i : Fin n} :
    (List.finRange n).find? p = some i ↔ p i = true ∧ ∀ j < i, p j = false := by
  rw [List.find?_eq_some_iff_getElem]
  constructor
  · rintro ⟨hi, k, hk, rfl, hlow⟩
    refine ⟨hi, fun j hj => ?_⟩
    have := hlow j.val (by simpa [Fin.lt_def] using hj)
    simpa using this
  · rintro ⟨hi, hlow⟩
    refine ⟨hi, i.val, by simp, by simp, fun j hj => ?_⟩
    simpa using hlow ⟨j, by omega⟩ (by simpa [Fin.lt_def] using hj)

theorem freeHandleOf_eq_some_iff {s : State} {p : Port} {h : Handle} :
    s.freeHandleOf p = some h ↔ s.att ⟨p, h⟩ = none ∧ ∀ j < h, s.att ⟨p, j⟩ ≠ none := by
  simp [State.freeHandleOf, find_finRange_eq_some_iff, Option.isSome_iff_ne_none]

theorem freeHandleOf_eq_none_iff {s : State} {p : Port} :
    s.freeHandleOf p = none ↔ ∀ h : Handle, s.att ⟨p, h⟩ ≠ none := by
  simp [State.freeHandleOf]

theorem freeChannelOf_eq_some_iff {s : State} {c : ChanId} :
    s.freeChannelOf = some c ↔ (s.chan c).state = .free ∧ ∀ d < c, (s.chan d).state ≠ .free := by
  simp [State.freeChannelOf, find_finRange_eq_some_iff]

theorem freeChannelOf_eq_none_iff {s : State} : s.freeChannelOf = none ↔ ∀ c : ChanId, (s.chan c).state ≠ .free := by
  simp [State.freeChannelOf]

/-! ## The name lookup (R6) -/

/-- A channel carries a name. -/
def State.named (s : State) (name : Word) (c : ChanId) : Prop := (s.chan c).state ≠ .free ∧ (s.chan c).name = name

theorem lookupName_eq_none_iff {s : State} {name : Word} : s.lookupName name = none ↔ ∀ c, ¬ s.named name c := by
  simp [State.lookupName, State.named]

theorem named_of_lookupName {s : State} {name : Word} {c : ChanId} (h : s.lookupName name = some c) : s.named name c := by
  simpa [State.named] using List.find?_some h

/-- Where no two channels have one name, a named channel is the one that the lookup finds. -/
theorem lookupName_of_named {s : State} {name : Word} {c : ChanId} (hd : s.namesDiffer) (h : s.named name c) :
    s.lookupName name = some c := by
  cases hl : s.lookupName name with
  | none => exact absurd h (lookupName_eq_none_iff.mp hl c)
  | some d =>
    have hd' := named_of_lookupName hl
    rw [hd d c hd'.1 h.1 (hd'.2.trans h.2.symm)]

/-- What holds of a channel of a name holds of the one that the lookup finds. -/
theorem exists_named_iff {s : State} {name : Word} {c : ChanId} (hd : s.namesDiffer) (h : s.lookupName name = some c)
    (P : ChanId → Prop) : (∃ d, s.named name d ∧ P d) ↔ P c := by
  constructor
  · rintro ⟨d, hn, hp⟩
    have := lookupName_of_named hd hn
    rw [h] at this
    cases this
    exact hp
  · exact fun hp => ⟨c, named_of_lookupName h, hp⟩

/-! ## The values of a byte (Table 11-6) -/

theorem kindOf_eq_none_iff (b : Byte) : kindOf b = none ↔ 1 < b.toNat := by
  unfold kindOf
  split_ifs <;> simp_all
  bv_omega

theorem policyOf_eq_none_iff (b : Byte) : policyOf b = none ↔ 1 < b.toNat := by
  unfold policyOf
  split_ifs <;> simp_all
  bv_omega

theorem boolOf_eq_none_iff (b : Byte) : boolOf b = none ↔ 1 < b.toNat := by
  unfold boolOf
  split_ifs <;> simp_all
  bv_omega

theorem roleOf_eq_none_iff (b : Byte) : roleOf b = none ↔ 2 < b.toNat := by
  unfold roleOf
  split_ifs <;> simp_all
  bv_omega

end Sys2Proof.Machine
end

section
/-! SUPPORT. CREATE: its checks in their order (R14). -/

namespace Sys2Proof.Machine

/-! ## CREATE (R14, R15) -/

/-- The roles that do not suit a kind, by their codes (R11, Table 11-6). -/
theorem roleSuits_eq_false_iff {kind role : Byte} {k : Kind} {x : Role} (hk : kindOf kind = some k)
    (hx : roleOf role = some x) : roleSuits x k = false ↔ role = 1 ∧ kind = 1 ∨ role = 2 ∧ kind = 0 := by
  unfold kindOf at hk
  unfold roleOf at hx
  split_ifs at hk hx <;> cases hk <;> cases hx <;> simp_all [roleSuits]

theorem createArgs_of_ranges {name : Word} {kind depth mark policy role : Byte} {code : AccessCode} {k : Kind} {v : Policy}
    {x : Role} (hn : name ≠ 0) (hk : kindOf kind = some k) (h1 : 1 ≤ depth.toNat) (h64 : depth.toNat ≤ 64)
    (hm : mark.toNat < depth.toNat) (hv : policyOf policy = some v) (hx : roleOf role = some x)
    (hs : roleSuits x k = true) :
    createArgs name kind depth mark policy code role = some ⟨name, k, depth.toNat, mark.toNat, v, code, x⟩ := by
  simp only [createArgs, hk, hv, hx]
  exact if_pos ⟨hn, h1, h64, hm, hs⟩

/-- The arguments that CREATE refuses (R14 check 2). -/
theorem createArgs_eq_none_iff {name : Word} {kind depth mark policy role : Byte} {code : AccessCode} :
    createArgs name kind depth mark policy code role = none ↔
      name = 0 ∨ 1 < kind.toNat ∨ depth.toNat < 1 ∨ 64 < depth.toNat ∨ depth.toNat ≤ mark.toNat ∨ 1 < policy.toNat ∨
        2 < role.toNat ∨ role = 1 ∧ kind = 1 ∨ role = 2 ∧ kind = 0 := by
  rw [← kindOf_eq_none_iff, ← policyOf_eq_none_iff, ← roleOf_eq_none_iff]
  unfold createArgs
  cases hk : kindOf kind with
  | none => simp
  | some k =>
    cases hv : policyOf policy with
    | none => simp
    | some v =>
      cases hx : roleOf role with
      | none => simp
      | some x =>
        rw [← roleSuits_eq_false_iff hk hx, ← Bool.not_eq_true]
        simp only [ite_eq_right_iff, reduceCtorEq, imp_false, false_or, not_and_or, not_le, not_lt, ne_eq, not_not]

/-- The arguments of CREATE where they are in their ranges. -/
theorem createArgs_eq_some {name : Word} {kind depth mark policy role : Byte} {code : AccessCode} {g : CreateArgs}
    (h : createArgs name kind depth mark policy code role = some g) :
    g.name = name ∧ 1 ≤ g.depthLimit ∧ g.depthLimit ≤ 64 ∧ g.roomMark < g.depthLimit := by
  unfold createArgs at h
  split at h
  · split at h
    · next hr => cases h; exact ⟨rfl, hr.2.1, hr.2.2.1, hr.2.2.2.1⟩
    · cases h
  · cases h

/-- The result of CREATE: its checks in their order (R14). -/
def createResult (p : Port) (name : Word) (kind depth mark policy role : Byte) (s : State) : Result :=
  if (s.port p).penalty ≠ none then .penalty
  else if name = 0 ∨ 1 < kind.toNat ∨ depth.toNat < 1 ∨ 64 < depth.toNat ∨ depth.toNat ≤ mark.toNat ∨
    1 < policy.toNat ∨ 2 < role.toNat ∨ role = 1 ∧ kind = 1 ∨ role = 2 ∧ kind = 0 then .badArgument
  else if ∃ d : ChanId, (s.chan d).state = .closing ∧ (s.chan d).name = name then .channelBusy
  else if ∃ d : ChanId, (s.chan d).state ≠ .free ∧ (s.chan d).name = name then .nameInUse
  else if ∀ h : Handle, s.att ⟨p, h⟩ ≠ none then .noAttachSlot
  else if ∀ d : ChanId, (s.chan d).state ≠ .free then .noChannelSlot
  else .ok

/-- The name of a CREATE is taken: CHANNEL_BUSY or NAME_IN_USE (R14 check 3). -/
theorem createResult_of_lookup {s : State} {name : Word} {c : ChanId} (hd : s.namesDiffer) (hl : s.lookupName name = some c)
    {p : Port} {kind depth mark policy role : Byte} (hp : (s.port p).penalty = none)
    (ha : ¬(name = 0 ∨ 1 < kind.toNat ∨ depth.toNat < 1 ∨ 64 < depth.toNat ∨ depth.toNat ≤ mark.toNat ∨
      1 < policy.toNat ∨ 2 < role.toNat ∨ role = 1 ∧ kind = 1 ∨ role = 2 ∧ kind = 0)) :
    createResult p name kind depth mark policy role s =
      if (s.chan c).state = .closing then .channelBusy else .nameInUse := by
  have hbusy : (∃ d : ChanId, (s.chan d).state = .closing ∧ (s.chan d).name = name) ↔ (s.chan c).state = .closing := by
    rw [← exists_named_iff hd hl (fun d => (s.chan d).state = .closing)]
    refine exists_congr fun d => ⟨fun ⟨h1, h2⟩ => ⟨⟨by simp [h1], h2⟩, h1⟩, fun ⟨⟨_, h2⟩, h1⟩ => ⟨h1, h2⟩⟩
  have huse : ∃ d : ChanId, (s.chan d).state ≠ .free ∧ (s.chan d).name = name := ⟨c, named_of_lookupName hl⟩
  rw [createResult, if_neg (by simp [hp]), if_neg ha, if_pos huse]
  simp only [hbusy]

/-- A CREATE that is refused changes nothing (R14, R186). -/
theorem createBody_refused {p : Port} {name : Word} {kind depth mark policy : Byte} {code : AccessCode} {role : Byte}
    {s : State} (h : (createBody p name kind depth mark policy code role s).result ≠ .ok) :
    createBody p name kind depth mark policy code role s =
      refuse s (createBody p name kind depth mark policy code role s).result := by
  revert h
  unfold createBody
  repeat' split
  all_goals simp [refuse]

theorem createBody_result {p : Port} {name : Word} {kind depth mark policy : Byte} {code : AccessCode} {role : Byte}
    {s : State} (hd : s.namesDiffer) :
    (createBody p name kind depth mark policy code role s).result =
      createResult p name kind depth mark policy role s := by
  unfold createBody
  by_cases hp : (s.port p).penalty = none
  · rw [if_neg (by simp [hp])]
    cases ha : createArgs name kind depth mark policy code role with
    | none =>
      rw [createResult, if_neg (by simp [hp]), if_pos (createArgs_eq_none_iff.mp ha)]
      rfl
    | some g =>
      have ha' := fun h => Option.some_ne_none g (ha ▸ createArgs_eq_none_iff.mpr h)
      dsimp only
      rw [(createArgs_eq_some ha).1]
      cases hl : s.lookupName name with
      | some c => rw [createResult_of_lookup hd hl hp ha']; rfl
      | none =>
        have hn := lookupName_eq_none_iff.mp hl
        have hbusy : ¬∃ d : ChanId, (s.chan d).state = .closing ∧ (s.chan d).name = name :=
          fun ⟨d, h1, h2⟩ => hn d ⟨by simp [h1], h2⟩
        have huse : ¬∃ d : ChanId, (s.chan d).state ≠ .free ∧ (s.chan d).name = name := fun ⟨d, h⟩ => hn d h
        rw [createResult, if_neg (by simp [hp]), if_neg ha', if_neg hbusy, if_neg huse]
        simp only [← freeHandleOf_eq_none_iff, ← freeChannelOf_eq_none_iff]
        cases hh : s.freeHandleOf p with
        | none => simp [refuse]
        | some h => cases hc : s.freeChannelOf <;> simp [refuse]
  · rw [if_pos (by simpa [Option.isSome_iff_ne_none] using hp), createResult, if_pos hp]
    rfl

end Sys2Proof.Machine
end

section
/-! SUPPORT. CREATE: what an accepted one makes (O16). -/

namespace Sys2Proof.Machine

/-- An accepted CREATE (R14, R15). -/
theorem createBody_accepted {p : Port} {name : Word} {kind depth mark policy : Byte} {code : AccessCode} {role : Byte}
    {s : State} {g : CreateArgs} {h : Handle} {c : ChanId} (hp : (s.port p).penalty = none)
    (hg : createArgs name kind depth mark policy code role = some g) (hn : ∀ d, ¬ s.named name d)
    (hh : s.att ⟨p, h⟩ = none) (hh' : ∀ j < h, s.att ⟨p, j⟩ ≠ none) (hc : (s.chan c).state = .free)
    (hc' : ∀ d < c, (s.chan d).state ≠ .free) :
    createBody p name kind depth mark policy code role s = ⟨makeChannel s p h c g, .ok, [byte h.val]⟩ := by
  simp only [createBody, hp, hg, (createArgs_eq_some hg).1, lookupName_eq_none_iff.mpr hn,
    freeHandleOf_eq_some_iff.mpr ⟨hh, hh'⟩, freeChannelOf_eq_some_iff.mpr ⟨hc, hc'⟩]
  rfl

/-- A new channel has no records: no occupancy falls. -/
theorem occupancy_le_makeChannel (s : State) (p : Port) (h : Handle) {c : ChanId} (g : CreateArgs)
    (hc : (s.chan c).state = .free) (d : ChanId) : s.occupancy d ≤ (makeChannel s p h c g).occupancy d := by
  by_cases hd : d = c
  · subst hd; rw [occupancy_of_free hc]; exact Nat.zero_le _
  · have hchan : (makeChannel s p h c g).chan d = s.chan d := by
      rw [makeChannel, chan_setAtt, chan_modChan_of_ne _ hd]
    have hocc : (makeChannel s p h c g).occupancy d = s.occupancy d :=
      occupancy_congr (by rw [hchan]) (by rw [hchan]) (by rw [hchan])
        (fun r => by rw [makeChannel, msg_setAtt, msg_modChan]; exact ⟨rfl, rfl⟩)
        (fun q i => by rw [makeChannel, slot_setAtt, slot_modChan])
    exact hocc.ge

/-- The fresh attachment of Table 1-5. -/
theorem fresh_eq (c : ChanId) (x : Role) : Attachment.fresh c x = freshAttachment c x := rfl

theorem namesDiffer_onFrame {s : State} (h : s.namesDiffer) (f : CommandFrame) : (s.onFrame f).namesDiffer := by
  intro c d
  rw [chan_onFrame, chan_onFrame]
  exact h c d

/-- Settles O16: an accepted CREATE by `createBody_accepted`, a refused one by its checks in their order. -/
theorem createMakesAChannel : Obligations.CreateMakesAChannel := by
  refine ⟨?accepted, ?checks⟩
  case accepted =>
    intro l seq name kind depth mark policy code role s k v x h c hr hp hn hk h1 h64 hm hv hx hs hfree hh hh' hc hc'
    let f : CommandFrame :=
      ⟨l, 0x10, seq, Word.bytes name ++ [kind, depth, mark, policy] ++ codeBytes code ++ [role]⟩
    have hbody := createBody_accepted (s := s.onFrame f) (p := l.port) (h := h) (c := c)
      (by rw [penalty_onFrame]; exact hp) (createArgs_of_ranges (code := code) hn hk h1 h64 hm hv hx hs)
      (fun d => by rw [State.named, chan_onFrame]; exact fun ⟨h1, h2⟩ => hfree d h1 h2)
      (by rw [att_onFrame]; exact hh) (fun j hj => by rw [att_onFrame]; exact hh' j hj)
      (by rw [chan_onFrame]; exact hc) (fun d hd => by rw [chan_onFrame]; exact hc' d hd)
    have hrun := runCommand_of_reply (f := f)
      (i := .create l seq name kind depth mark policy code role) rfl rfl hr hbody
      (fun d _ => occupancy_le_makeChannel _ _ _ _ (by rw [chan_onFrame]; exact hc) d) (reclaim_onFrame s f)
    rw [exec_create]
    refine ⟨_, hrun, ?_, fun d hd => ?_, records_onFrame s f, cells_onFrame s f, reclaim_onFrame s f,
      ⟨tickPhase_onFrame s f, engineGap_onFrame s f, pending_onFrame s f⟩, fun q hq => ?_, ?_⟩
    · rw [chan_respond, makeChannel, chan_setAtt, chan_modChan_self]; rfl
    · rw [chan_respond, makeChannel, chan_setAtt, chan_modChan_of_ne _ hd, chan_onFrame]
    · rw [port_respond_of_ne _ _ _ _ _ _ hq, makeChannel, port_setAtt, if_neg hq, port_modChan, port_onFrame_of_ne s f hq]
    · refine portIs_respond _ _ _ _ _ hr.1 ?_
      rw [makeChannel, port_setAtt, if_pos rfl, port_modChan]
      conv_lhs => rw [port_onFrame]
      rfl
  case checks =>
    intro l seq name kind depth mark policy code role s x hr hd
    let f : CommandFrame :=
      ⟨l, 0x10, seq, Word.bytes name ++ [kind, depth, mark, policy] ++ codeBytes code ++ [role]⟩
    have hx : (createBody l.port name kind depth mark policy code role (s.onFrame f)).result = x := by
      rw [createBody_result (namesDiffer_onFrame hd f), createResult]
      simp only [penalty_onFrame, chan_onFrame, att_onFrame]
      rfl
    rw [exec_create]
    by_cases hok : x = .ok
    · refine ⟨_, runCommand_of_ready (f := f) rfl rfl hr, ?_, fun h => absurd hok h⟩
      rw [port_respond_self]; exact hx
    · obtain ⟨t, ht, ha⟩ := onlyAnswers_of_unchanged (f := f) (i := .create l seq name kind depth mark policy code role)
        rfl rfl hr (createBody_refused (by rw [hx]; exact hok))
      rw [hx] at ha
      exact ⟨t, ht, by rw [ha.2.2], fun _ => ha⟩

end Sys2Proof.Machine
end

section
/-! SUPPORT. ATTACH: its checks in their order (R16). -/

namespace Sys2Proof.Machine

/-! ## ATTACH (R16, R17) -/

theorem boolOf_eq_some_true_iff (b : Byte) : boolOf b = some true ↔ b = 1 := by
  unfold boolOf
  split_ifs with h0 h1
  · simp [h0]
  · simp [h1]
  · simpa using h1

theorem roleOf_eq_subscriber_iff {b : Byte} {x : Role} (h : roleOf b = some x) : x = .subscriber ↔ b = 2 := by
  unfold roleOf at h
  split_ifs at h <;> cases h <;> simp_all

/-- The options of an ATTACH that is not refused (R16 check 2). -/
theorem attachArgs_of_ranges {name : Word} {role options : Byte} {x : Role} (hn : name ≠ 0) (hx : roleOf role = some x)
    (ho : options = 0 ∨ options = 1 ∧ x = .subscriber) :
    attachArgs name role options = some (x, options == 1) := by
  rcases ho with rfl | ⟨rfl, rfl⟩
  · simp only [attachArgs, hx]
    exact if_pos ⟨hn, by simp⟩
  · simp only [attachArgs, hx]
    exact if_pos ⟨hn, fun _ => rfl⟩

/-- The arguments that ATTACH refuses (R16 check 2). -/
theorem attachArgs_eq_none_iff {name : Word} {role options : Byte} :
    attachArgs name role options = none ↔
      name = 0 ∨ 2 < role.toNat ∨ 1 < options.toNat ∨ options = 1 ∧ role ≠ 2 := by
  rw [← roleOf_eq_none_iff, ← boolOf_eq_none_iff, ← boolOf_eq_some_true_iff]
  unfold attachArgs
  cases hx : roleOf role with
  | none => simp
  | some x =>
    cases ho : boolOf options with
    | none => simp
    | some again =>
      simp only [ite_eq_right_iff, reduceCtorEq, imp_false, false_or, not_and_or, Classical.not_imp, ne_eq, not_not,
        Option.some.injEq, ← roleOf_eq_subscriber_iff hx]

theorem attachArgs_eq_some {name : Word} {role options : Byte} {y : Role × Bool}
    (h : attachArgs name role options = some y) : roleOf role = some y.1 := by
  unfold attachArgs at h
  split at h
  · next hx _ =>
    split at h
    · cases h; exact hx
    · cases h
  · cases h

/-- A port holds a role in a channel where one of its handles does (R11). -/
theorem holdsRole_iff {s : State} {p : Port} {c : ChanId} {x : Role} :
    s.holdsRole p c x = true ↔ ∃ h : Handle, s.isIn c x ⟨p, h⟩ = true := by
  simp only [State.holdsRole, State.withRole, List.any_eq_true, List.mem_filter, State.isIn]
  constructor
  · rintro ⟨⟨q, h⟩, ⟨-, ha⟩, hq⟩
    have hq' : q = p := by simpa using hq
    subst hq'
    refine ⟨h, ?_⟩
    cases ht : s.att ⟨q, h⟩ with
    | none => simp [ht] at ha
    | some t => simpa [ht, Attachment.isIn] using ha
  · rintro ⟨h, ha⟩
    refine ⟨⟨p, h⟩, ⟨mem_allRefs _, ?_⟩, by simp⟩
    cases ht : s.att ⟨p, h⟩ with
    | none => simp [ht] at ha
    | some t => simpa [ht, Attachment.isIn] using ha

/-- The roles that do not suit a channel's kind, by their code (R11, R16 check 5). -/
theorem roleSuits_eq_false_iff_of_kind {role : Byte} {x : Role} (k : Kind) (hx : roleOf role = some x) :
    roleSuits x k = false ↔ role = 1 ∧ k = .fanout ∨ role = 2 ∧ k = .point := by
  unfold roleOf at hx
  split_ifs at hx <;> cases hx <;> cases k <;> simp_all [roleSuits]

/-- The last check of ATTACH, for a free handle, and what the attachment brings (R16 check 9, R17). -/
def seatAt (p : Port) (c : ChanId) (x : Role) (again : Bool) (s : State) : Reply :=
  match s.freeHandleOf p with
  | none => refuse s .noAttachSlot
  | some h => ⟨joinChannel s p h c x again, .ok, [byte h.val, kindCode (s.chan c).kind]⟩

theorem seatAt_of_free {p : Port} {c : ChanId} {x : Role} {again : Bool} {s : State} {h : Handle}
    (hh : s.att ⟨p, h⟩ = none) (hh' : ∀ j < h, s.att ⟨p, j⟩ ≠ none) :
    seatAt p c x again s = ⟨joinChannel s p h c x again, .ok, [byte h.val, kindCode (s.chan c).kind]⟩ := by
  rw [seatAt, freeHandleOf_eq_some_iff.mpr ⟨hh, hh'⟩]

theorem seatAt_result (p : Port) (c : ChanId) (x : Role) (again : Bool) (s : State) :
    (seatAt p c x again s).result = if s.freeHandleOf p = none then .noAttachSlot else .ok := by
  unfold seatAt
  cases s.freeHandleOf p <;> rfl

/-- The checks of ATTACH against the channel that carries its name, in their order (R16 checks 4 to 8). -/
theorem attachBody_of_lookup {p : Port} {name : Word} {role : Byte} {code : AccessCode} {options : Byte} {s : State}
    {x : Role} {again : Bool} {c : ChanId} (hp : (s.port p).penalty = none)
    (ha : attachArgs name role options = some (x, again)) (hl : s.lookupName name = some c) :
    attachBody p name role code options s =
      if (s.chan c).state = .closing then refuse s .channelBusy
      else if roleSuits x (s.chan c).kind = false then refuse s .wrongKind
      else if s.holdsRole p c x = true then refuse s .alreadyAttached
      else if (s.chan c).code ≠ 0 ∧ (s.chan c).code ≠ code then ⟨s.modPort p countBadCode, .badCode, []⟩
      else seatAt p c x again s := by
  unfold attachBody
  rw [if_neg (by simp [hp]), ha]
  dsimp only
  rw [hl]
  simp only [Bool.not_eq_true'] <;> rfl

/-- The result of ATTACH: its checks in their order (R16). -/
def attachResult (p : Port) (name : Word) (role : Byte) (code : AccessCode) (options : Byte) (s : State) : Result :=
  if (s.port p).penalty ≠ none then .penalty
  else if name = 0 ∨ 2 < role.toNat ∨ 1 < options.toNat ∨ options = 1 ∧ role ≠ 2 then .badArgument
  else match s.lookupName name with
    | none => .noSuchName
    | some c =>
      if (s.chan c).state = .closing then .channelBusy
      else if role = 1 ∧ (s.chan c).kind = .fanout ∨ role = 2 ∧ (s.chan c).kind = .point then .wrongKind
      else if ∃ h : Handle, ∃ y ∈ roleOf role, s.isIn c y ⟨p, h⟩ = true then .alreadyAttached
      else if (s.chan c).code ≠ 0 ∧ (s.chan c).code ≠ code then .badCode
      else if ∀ h : Handle, s.att ⟨p, h⟩ ≠ none then .noAttachSlot
      else .ok

theorem attachBody_result {p : Port} {name : Word} {role : Byte} {code : AccessCode} {options : Byte} {s : State} :
    (attachBody p name role code options s).result = attachResult p name role code options s := by
  by_cases hp : (s.port p).penalty = none
  · rw [attachResult, if_neg (by simp [hp])]
    cases ha : attachArgs name role options with
    | none =>
      rw [if_pos (attachArgs_eq_none_iff.mp ha), attachBody, if_neg (by simp [hp]), ha]
      rfl
    | some y =>
      obtain ⟨x, again⟩ := y
      have hx := attachArgs_eq_some ha
      rw [if_neg (fun h => Option.some_ne_none _ (ha ▸ attachArgs_eq_none_iff.mpr h))]
      cases hl : s.lookupName name with
      | none =>
        rw [attachBody, if_neg (by simp [hp]), ha]
        dsimp only
        rw [hl]
        rfl
      | some c =>
        have hin : (∃ h : Handle, ∃ y ∈ roleOf role, s.isIn c y ⟨p, h⟩ = true) ↔ s.holdsRole p c x = true := by
          rw [holdsRole_iff, hx]; simp
        rw [attachBody_of_lookup hp ha hl]
        simp only [hin, ← roleSuits_eq_false_iff_of_kind (s.chan c).kind hx, ← freeHandleOf_eq_none_iff]
        simp only [apply_ite Reply.result, seatAt_result, refuse]
  · rw [attachBody, if_pos (by simpa [Option.isSome_iff_ne_none] using hp), attachResult, if_pos hp]
    rfl

end Sys2Proof.Machine
end

section
/-! SUPPORT. ATTACH: what an accepted one makes, with REPLAY and without (O17). -/

namespace Sys2Proof.Machine

/-- An ATTACH that is refused changes nothing but, with BAD_CODE, the penalty state (R9, R16, R186). -/
theorem attachBody_refused {p : Port} {name : Word} {role : Byte} {code : AccessCode} {options : Byte} {s : State}
    (h : (attachBody p name role code options s).result ≠ .ok)
    (hb : (attachBody p name role code options s).result ≠ .badCode) :
    attachBody p name role code options s = refuse s (attachBody p name role code options s).result := by
  revert h hb
  unfold attachBody
  dsimp only
  repeat' split
  all_goals simp [refuse]

/-- An ATTACH that its name, role and options let through finds its channel and its place in it (R16 checks 1 to 6). -/
theorem attachBody_of_named {p : Port} {name : Word} {role : Byte} {code : AccessCode} {options : Byte} {s : State}
    {x : Role} {again : Bool} {c : ChanId} (hd : s.namesDiffer) (hp : (s.port p).penalty = none)
    (ha : attachArgs name role options = some (x, again)) (hname : (s.chan c).name = name)
    (hopen : (s.chan c).state = .opened ∨ (s.chan c).state = .purging) (hs : roleSuits x (s.chan c).kind = true)
    (hrole : ∀ j : Handle, ∀ u ∈ s.att ⟨p, j⟩, u.channel = c → u.role ≠ x) :
    attachBody p name role code options s =
      if (s.chan c).code ≠ 0 ∧ (s.chan c).code ≠ code then ⟨s.modPort p countBadCode, .badCode, []⟩
      else seatAt p c x again s := by
  have hl := lookupName_of_named hd (c := c) (name := name) ⟨by rcases hopen with h | h <;> simp [h], hname⟩
  have hholds : ¬ s.holdsRole p c x = true := by
    rw [holdsRole_iff]
    rintro ⟨j, hj⟩
    cases hu : s.att ⟨p, j⟩ with
    | none => simp [State.isIn, hu] at hj
    | some u =>
      simp only [State.isIn, hu, Option.any_some, Attachment.isIn, Bool.and_eq_true, beq_iff_eq] at hj
      exact hrole j u hu hj.1 hj.2
  rw [attachBody_of_lookup hp ha hl, if_neg (by rcases hopen with h | h <;> simp [h]), if_neg (by simp [hs]),
    if_neg hholds]

/-! ### REPLAY (R17, R117) -/

/-- The records after a change of every record of a list, by a change that made twice is made once. -/
theorem msg_foldl_modMsg {f : MsgRecord → MsgRecord} (hf : ∀ m, f (f m) = f m) (l : List RecId) (s : State) (r : RecId) :
    (l.foldl (fun s r => s.modMsg r f) s).msg r = if r ∈ l then f (s.msg r) else s.msg r := by
  induction l generalizing s with
  | nil => rfl
  | cons q rest ih =>
    rw [List.foldl_cons, ih, msg_modMsg]
    by_cases hq : r = q
    · subst hq; simp [hf]
    · simp [hq]

theorem insertRef_insertRef (a : AttRef) (l : List AttRef) : insertRef a (insertRef a l) = insertRef a l := by
  induction l with
  | nil => simp [insertRef]
  | cons b rest ih =>
    by_cases hb : a = b
    · simp [insertRef, hb]
    · by_cases hr : a.rank < b.rank
      · simp [insertRef, hb, hr]
      · simp [insertRef, hb, hr, ih]

/-- A LISTED record with one more pending subscriber. -/
def MsgRecord.joinedBy (a : AttRef) (m : MsgRecord) : MsgRecord :=
  if m.state = .listed then { m with pending := insertRef a m.pending } else m

theorem joinedBy_joinedBy (a : AttRef) (m : MsgRecord) : (m.joinedBy a).joinedBy a = m.joinedBy a := by
  unfold MsgRecord.joinedBy
  by_cases h : m.state = .listed <;> simp [h, insertRef_insertRef]

/-- REPLAY changes the records of the list alone (R17). -/
theorem msg_replay (s : State) (c : ChanId) (a : AttRef) (r : RecId) :
    (replay s c a).msg r = if r ∈ (s.chan c).list then (s.msg r).joinedBy a else s.msg r :=
  msg_foldl_modMsg (joinedBy_joinedBy a) _ s r

/-- A fold of changes of message records changes nothing else. -/
theorem foldl_modMsg_eq (f : MsgRecord → MsgRecord) (l : List RecId) (s : State) :
    l.foldl (fun s r => s.modMsg r f) s = { s with records := (l.foldl (fun s r => s.modMsg r f) s).records } := by
  induction l generalizing s with
  | nil => rfl
  | cons q rest ih => rw [List.foldl_cons, ih]; rfl

theorem replay_eq (s : State) (c : ChanId) (a : AttRef) : replay s c a = { s with records := (replay s c a).records } :=
  foldl_modMsg_eq (MsgRecord.joinedBy a) _ s

/-! ### What an accepted ATTACH leaves -/

section
variable (s : State) (p : Port) (h : Handle) (c : ChanId) (x : Role) (again : Bool)

/-- An accepted ATTACH before its REPLAY. -/
def seated : State :=
  (s.setAtt ⟨p, h⟩ (some (Attachment.fresh c x))).modPort p (fun q => { q with badCodes := 0 })

/-- But for the message records, an accepted ATTACH leaves the same with REPLAY and without. -/
theorem joinChannel_eq : joinChannel s p h c x again =
    { seated s p h c x with records := (joinChannel s p h c x again).records } := by
  cases again with
  | false => rfl
  | true => exact replay_eq (seated s p h c x) c ⟨p, h⟩

@[simp] theorem chan_joinChannel (d : ChanId) : (joinChannel s p h c x again).chan d = s.chan d := by
  rw [joinChannel_eq]; rfl

@[simp] theorem channels_joinChannel : (joinChannel s p h c x again).channels = s.channels := by rw [joinChannel_eq]; rfl
@[simp] theorem cells_joinChannel : (joinChannel s p h c x again).cells = s.cells := by rw [joinChannel_eq]; rfl
@[simp] theorem reclaim_joinChannel : (joinChannel s p h c x again).reclaim = s.reclaim := by rw [joinChannel_eq]; rfl
@[simp] theorem tickPhase_joinChannel : (joinChannel s p h c x again).tickPhase = s.tickPhase := by
  rw [joinChannel_eq]; rfl
@[simp] theorem engineGap_joinChannel : (joinChannel s p h c x again).engineGap = s.engineGap := by
  rw [joinChannel_eq]; rfl
@[simp] theorem pending_joinChannel : (joinChannel s p h c x again).pending = s.pending := by rw [joinChannel_eq]; rfl

theorem port_joinChannel (q : Port) : (joinChannel s p h c x again).port q =
    if q = p then { s.port p with badCodes := 0
                                  attachments := (s.port p).attachments.set h (some (Attachment.fresh c x)) }
    else s.port q := by
  rw [joinChannel_eq, port_mk_records, seated, port_modPort, port_setAtt, if_pos rfl]
  by_cases hq : q = p
  · rw [if_pos hq, if_pos hq]
  · rw [if_neg hq, if_neg hq, port_setAtt, if_neg hq]

@[simp] theorem slot_joinChannel (q : Port) (i : Slot) : (joinChannel s p h c x again).slot q i = s.slot q i := by
  rw [State.slot, port_joinChannel, State.slot]
  split_ifs with hq
  · subst hq; rfl
  · rfl

theorem msg_joinChannel (r : RecId) : (joinChannel s p h c x again).msg r =
    if again = true ∧ r ∈ (s.chan c).list then (s.msg r).joinedBy ⟨p, h⟩ else s.msg r := by
  cases again with
  | false => rfl
  | true => exact (msg_replay (seated s p h c x) c ⟨p, h⟩ r).trans (if_congr (and_iff_right rfl) rfl rfl).symm

end

/-- REPLAY keeps a record's state and channel. -/
theorem state_channel_joinedBy (a : AttRef) (m : MsgRecord) :
    (m.joinedBy a).state = m.state ∧ (m.joinedBy a).channel = m.channel := by
  unfold MsgRecord.joinedBy
  split_ifs <;> exact ⟨rfl, rfl⟩

@[simp] theorem occupancy_joinChannel (s : State) (p : Port) (h : Handle) (c : ChanId) (x : Role) (again : Bool)
    (d : ChanId) : (joinChannel s p h c x again).occupancy d = s.occupancy d :=
  occupancy_congr (by simp) (by simp) (by simp)
    (fun r => by
      rw [msg_joinChannel]
      split_ifs
      · exact state_channel_joinedBy _ _
      · exact ⟨rfl, rfl⟩)
    (by simp)

@[simp] theorem lookupName_onFrame (s : State) (f : CommandFrame) (name : Word) :
    (s.onFrame f).lookupName name = s.lookupName name := by
  simp [State.lookupName]

theorem attachResult_onFrame (s : State) (f : CommandFrame) (p : Port) (name : Word) (role : Byte) (code : AccessCode)
    (options : Byte) : attachResult p name role code options (s.onFrame f) = attachResult p name role code options s := by
  simp [attachResult, State.isIn]

/-- Settles O17: an accepted ATTACH joins its channel by `seatAt_of_free`, a refused one by its checks in their order. -/
theorem attachJoinsAChannel : Obligations.AttachJoinsAChannel := by
  refine ⟨?accepted, ?checks⟩
  case accepted =>
    intro l seq name role code options s x h c hr hd hp hn hx ho hname hopen hs hrole hcode hh hh'
    let f : CommandFrame := ⟨l, 0x11, seq, Word.bytes name ++ [role] ++ codeBytes code ++ [options]⟩
    have hbody : attachBody l.port name role code options (s.onFrame f) =
        ⟨joinChannel (s.onFrame f) l.port h c x (options == 1), .ok,
          [byte h.val, if (s.chan c).kind = .point then 0 else 1]⟩ := by
      rw [attachBody_of_named (c := c) (namesDiffer_onFrame hd f) (by rw [penalty_onFrame]; exact hp)
        (attachArgs_of_ranges hn hx ho) (by rw [chan_onFrame]; exact hname) (by rw [chan_onFrame]; exact hopen)
        (by rw [chan_onFrame]; exact hs) (by simpa using hrole), chan_onFrame, if_neg (by tauto),
        seatAt_of_free (h := h) (by rw [att_onFrame]; exact hh) (fun j hj => by rw [att_onFrame]; exact hh' j hj),
        chan_onFrame]
      cases (s.chan c).kind <;> rfl
    have hrun := runCommand_of_reply (f := f) (i := .attach l seq name role code options) rfl rfl hr hbody
      (fun d _ => (occupancy_joinChannel _ _ _ _ _ _ d).ge) (by simp)
    rw [exec_attach]
    refine ⟨_, hrun, ?_, ?_, ?_, ⟨?_, ?_, ?_⟩, fun q hq => ?_, ?_, fun r => ?_⟩
    · exact (channels_joinChannel _ _ _ _ _ _).trans (channels_onFrame s f)
    · exact (cells_joinChannel _ _ _ _ _ _).trans (cells_onFrame s f)
    · exact (reclaim_joinChannel _ _ _ _ _ _).trans (reclaim_onFrame s f)
    · exact (tickPhase_joinChannel _ _ _ _ _ _).trans (tickPhase_onFrame s f)
    · exact (engineGap_joinChannel _ _ _ _ _ _).trans (engineGap_onFrame s f)
    · exact (pending_joinChannel _ _ _ _ _ _).trans (pending_onFrame s f)
    · rw [port_respond_of_ne _ _ _ _ _ _ hq, port_joinChannel, if_neg hq, port_onFrame_of_ne s f hq]
    · refine portIs_respond _ _ _ _ _ hr.1 ?_
      rw [port_joinChannel, if_pos rfl]
      conv_lhs => rw [port_onFrame]
      rfl
    · rw [msg_respond, msg_joinChannel, msg_onFrame, chan_onFrame]
      by_cases hin : options = 1 ∧ r ∈ (s.chan c).list ∧ (s.msg r).state = .listed
      · obtain ⟨h1, hlist, hstate⟩ := hin
        rw [if_pos ⟨h1, hlist, hstate⟩, if_pos ⟨by simp [h1], hlist⟩, MsgRecord.joinedBy, if_pos hstate]
        exact ⟨rfl, fun a => mem_insertRef _ _ _⟩
      · rw [if_neg hin]
        split_ifs with hj
        · rw [MsgRecord.joinedBy, if_neg (fun hstate => hin ⟨by simpa using hj.1, hj.2, hstate⟩)]
        · rfl
  case checks =>
    intro l seq name role code options s named x hr hd
    let f : CommandFrame := ⟨l, 0x11, seq, Word.bytes name ++ [role] ++ codeBytes code ++ [options]⟩
    have hx : (attachBody l.port name role code options (s.onFrame f)).result = x := by
      rw [attachBody_result, attachResult_onFrame]
      simp only [x]
      by_cases hp : (s.port l.port).penalty ≠ none
      · rw [attachResult, if_pos hp, if_pos hp]
      · rw [attachResult, if_neg hp, if_neg hp]
        refine if_congr Iff.rfl rfl ?_
        cases hl : s.lookupName name with
        | none => exact (if_pos (lookupName_eq_none_iff.mp hl)).symm
        | some c =>
          have hiff : ∀ P : ChanId → Prop, (∃ d, named d ∧ P d) ↔ P c := exists_named_iff hd hl
          have hsome : ¬ ∀ d, ¬ named d := fun h => h c (named_of_lookupName hl)
          simp only [if_neg hsome, hiff]
    rw [exec_attach]
    by_cases hok : x = .ok ∨ x = .badCode
    · refine ⟨_, runCommand_of_ready (f := f) rfl rfl hr, ?_, fun h h' => absurd hok (by tauto)⟩
      rw [port_respond_self]; exact hx
    · obtain ⟨t, ht, ha⟩ := onlyAnswers_of_unchanged (f := f) (i := .attach l seq name role code options)
        rfl rfl hr (attachBody_refused (by rw [hx]; tauto) (by rw [hx]; tauto))
      rw [hx] at ha
      exact ⟨t, ht, by rw [ha.2.2], fun _ _ => ha⟩

end Sys2Proof.Machine
end

section
/-! SUPPORT. Wrong codes and the penalty (O18). -/

namespace Sys2Proof.Machine

/-! ## The penalty (R9) -/

/-- The penalty state after a wrong code, at a port whose penalty timer is stopped. -/
theorem countBadCode_eq {q : PortState} (h : q.penalty = none) :
    countBadCode q = { q with badCodes := if q.badCodes = 2 then 0 else q.badCodes + 1
                              penalty := if q.badCodes = 2 then some 100 else none } := by
  by_cases h2 : q.badCodes = 2
  · simp [countBadCode, Config.badCodeLimit, Config.penaltyTicks, h2]
  · simp [countBadCode, Config.badCodeLimit, h2, ← h]

/-- A change of a port that leaves its hand slots leaves the occupancies. -/
theorem occupancy_modPort {s : State} {p : Port} {f : PortState → PortState} (h : (f (s.port p)).slots = (s.port p).slots)
    (c : ChanId) : (s.modPort p f).occupancy c = s.occupancy c := by
  refine occupancy_congr rfl rfl rfl (fun _ => ⟨rfl, rfl⟩) (fun q i => ?_)
  rw [slot_modPort, h]
  split_ifs with hq
  · rw [State.slot, hq]
  · rfl

/-- While the penalty timer runs, CREATE and ATTACH are refused (R9). -/
theorem createBody_of_penalty {p : Port} {s : State} (h : (s.port p).penalty ≠ none) (name : Word)
    (kind depth mark policy : Byte) (code : AccessCode) (role : Byte) :
    createBody p name kind depth mark policy code role s = refuse s .penalty :=
  if_pos (Option.isSome_iff_ne_none.mpr h)

theorem attachBody_of_penalty {p : Port} {s : State} (h : (s.port p).penalty ≠ none) (name : Word) (role : Byte)
    (code : AccessCode) (options : Byte) : attachBody p name role code options s = refuse s .penalty :=
  if_pos (Option.isSome_iff_ne_none.mpr h)

/-- The commands of the codes 0x10 and 0x11 (Table 11-3). -/
theorem create_or_attach_of_code {i : Instr} {f : CommandFrame} (hi : i.frame = some f) (hc : f.code = 0x10 ∨ f.code = 0x11) :
    (∃ l seq name kind depth mark policy code role, i = .create l seq name kind depth mark policy code role) ∨
      ∃ l seq name role code options, i = .attach l seq name role code options := by
  cases i <;> cases hi
  case create => exact Or.inl ⟨_, _, _, _, _, _, _, _, _, rfl⟩
  case attach => exact Or.inr ⟨_, _, _, _, _, _, rfl⟩
  all_goals simp at hc

/-- Settles O18. -/
theorem thirdBadCodeStartsThePenalty : Obligations.ThirdBadCodeStartsThePenalty := by
  refine ⟨?counts, ?refuses, ?expires⟩
  case counts =>
    intro l seq name role code options s x c hr hd hp hn hx ho hname hopen hs hrole hcode hwrong
    let f : CommandFrame := ⟨l, 0x11, seq, Word.bytes name ++ [role] ++ codeBytes code ++ [options]⟩
    have hp' : ((s.onFrame f).port l.port).penalty = none := by rw [penalty_onFrame]; exact hp
    have hbody : attachBody l.port name role code options (s.onFrame f) =
        ⟨(s.onFrame f).modPort l.port countBadCode, .badCode, []⟩ := by
      rw [attachBody_of_named (c := c) (namesDiffer_onFrame hd f) hp'
        (attachArgs_of_ranges hn hx ho) (by rw [chan_onFrame]; exact hname) (by rw [chan_onFrame]; exact hopen)
        (by rw [chan_onFrame]; exact hs) (by simpa using hrole), chan_onFrame, if_pos ⟨hcode, hwrong⟩]
    have hrun := runCommand_of_reply (f := f) (i := .attach l seq name role code options) rfl rfl hr hbody
      (fun d _ => (occupancy_modPort (by rw [countBadCode_eq hp']) d).ge) (by simp)
    rw [exec_attach]
    refine ⟨_, hrun, storesSame_onFrame s f, fun q hq => ?_, portIs_respond _ _ _ _ _ hr.1 ?_⟩
    · rw [port_respond_of_ne _ _ _ _ _ _ hq, port_modPort_of_ne _ hq, port_onFrame_of_ne s f hq]
    · rw [port_modPort_self, countBadCode_eq hp']
      conv_lhs => rw [port_onFrame]
  case refuses =>
    intro i f s hi hc hr hp
    have hp' : ((s.onFrame f).port f.link.port).penalty ≠ none := by rw [penalty_onFrame]; exact hp
    rcases create_or_attach_of_code hi hc with ⟨l, seq, name, kind, depth, mark, policy, code, role, rfl⟩ |
      ⟨l, seq, name, role, code, options, rfl⟩
    · cases hi
      rw [exec_create]
      exact onlyAnswers_of_unchanged rfl rfl hr (createBody_of_penalty hp' _ _ _ _ _ _ _)
    · cases hi
      rw [exec_attach]
      exact onlyAnswers_of_unchanged rfl rfl hr (attachBody_of_penalty hp' _ _ _ _)
  case expires =>
    intro p s hp
    have hdue : s.ticksLeft (.penalty p) = some 0 := by rw [ticksLeft_penalty, hp]; rfl
    have hexec : exec (.penaltyExpiry p) s = .next (s.modPort p (fun q => { q with penalty := none })) :=
      congrArg Host.Outcome.next (comeTo_of_due hdue)
    exact ⟨_, hexec, ⟨rfl, rfl, rfl, rfl, rfl, rfl, rfl⟩, fun q hq => port_modPort_of_ne s hq _, port_modPort_self s p _⟩

end Sys2Proof.Machine
end

section
/-! SUPPORT. The form of the state (O53): that the shared operations keep the tables in canonical form, the attachments and
the waits in their ranges and the engine's gap. -/

namespace Sys2Proof.Machine

/-- The attachments of a port in their ranges (R10, R170). -/
def PortState.attsRanged (q : PortState) : Prop := ∀ h : Handle, ∀ u ∈ q.attachments[h], u.ranged

/-- The timer of a port's parked take in its range (R94). -/
def PortState.waitRanged (q : PortState) : Prop := ∀ w ∈ q.parked, w.timer ≤ 65535

/-- An operation on a port that keeps the ranges of its attachments and of its parked take. -/
structure PortForm (q t : PortState) : Prop where
  atts : q.attsRanged → t.attsRanged
  wait : q.waitRanged → t.waitRanged

theorem PortForm.refl (q : PortState) : PortForm q q := ⟨id, id⟩

theorem PortForm.trans {a b c : PortState} (h : PortForm a b) (g : PortForm b c) : PortForm a c :=
  ⟨g.atts ∘ h.atts, g.wait ∘ h.wait⟩

/-- A change of a port that leaves its attachments, and leaves its parked take or ends it. -/
theorem PortForm.of_same {q t : PortState} (ha : t.attachments = q.attachments) (hw : t.parked = q.parked ∨ t.parked = none) :
    PortForm q t := by
  refine ⟨fun h => by rwa [PortState.attsRanged, ha], fun h => ?_⟩
  rcases hw with e | e
  · rwa [PortState.waitRanged, e]
  · simp [PortState.waitRanged, e]

/-- An operation that keeps the canonical tables (log 15) and the ranges of what `Work` does not name, and does not bring
the engine's last step further from the next boundary. -/
structure Form (s t : State) : Prop where
  channels : Table.wf Channel.free 32 s.channels = true → Table.wf Channel.free 32 t.channels = true
  records : Table.wf MsgRecord.free 256 s.records = true → Table.wf MsgRecord.free 256 t.records = true
  cells : s.cellsWf → t.cellsWf
  ports : ∀ p, PortForm (s.port p) (t.port p)
  gap : t.engineGap ≤ s.engineGap

theorem Form.refl (s : State) : Form s s := ⟨id, id, id, fun _ => .refl _, le_rfl⟩

theorem Form.trans {s t u : State} (h : Form s t) (g : Form t u) : Form s u :=
  ⟨g.channels ∘ h.channels, g.records ∘ h.records, g.cells ∘ h.cells, fun p => (h.ports p).trans (g.ports p),
   g.gap.trans h.gap⟩

theorem Form.foldl {α : Type} {f : State → α → State} (h : ∀ s a, Form s (f s a)) (l : List α) (s : State) :
    Form s (l.foldl f s) := by
  induction l generalizing s with
  | nil => exact .refl s
  | cons a rest ih => exact (h s a).trans (ih (f s a))

/-! ## The updates -/

section
variable (s : State)

theorem modPort_form (p : Port) (f : PortState → PortState) (h : PortForm (s.port p) (f (s.port p))) :
    Form s (s.modPort p f) :=
  { Form.refl s with
    ports := fun q => by
      by_cases hq : q = p
      · subst hq; simpa using h
      · simpa [hq] using PortForm.refl (s.port q) }

/-- A change of a port that leaves its attachments, and leaves its parked take or ends it. -/
theorem modPort_form_same (p : Port) (f : PortState → PortState)
    (ha : (f (s.port p)).attachments = (s.port p).attachments)
    (hw : (f (s.port p)).parked = (s.port p).parked ∨ (f (s.port p)).parked = none) : Form s (s.modPort p f) :=
  modPort_form s p f (.of_same ha hw)

theorem modChan_form (c : ChanId) (f : Channel → Channel) : Form s (s.modChan c f) :=
  { Form.refl s with channels := fun h => Table.wf_put h c.isLt _, ports := fun _ => .refl _ }

theorem modMsg_form (r : RecId) (f : MsgRecord → MsgRecord) : Form s (s.modMsg r f) :=
  { Form.refl s with records := fun h => Table.wf_put h r.isLt _, ports := fun _ => .refl _ }

/-- An attachment record is written that is in its ranges. -/
theorem setAtt_form (a : AttRef) (x : Option Attachment)
    (h : (s.port a.port).attsRanged → ∀ u ∈ x, u.ranged) : Form s (s.setAtt a x) :=
  modPort_form s a.port (fun q => { q with attachments := q.attachments.set a.handle x })
    { PortForm.refl _ with
      atts := fun hr k u hu => by
        by_cases hk : a.handle = k
        · subst hk; exact h hr u (by simpa using hu)
        · exact hr k u (by simpa [Vector.getElem_set_ne, Fin.val_ne_of_ne hk] using hu) }

theorem modAtt_form (a : AttRef) (f : Attachment → Attachment) (h : ∀ u ∈ s.att a, u.ranged → (f u).ranged) :
    Form s (s.modAtt a f) :=
  setAtt_form s a _ (fun hr v hv => by
    obtain ⟨u, hu, rfl⟩ := Option.mem_map.mp hv
    exact h u hu (hr a.handle u hu))

theorem setSlot_form (p : Port) (i : Slot) (x : HandSlot) : Form s (s.setSlot p i x) :=
  modPort_form_same s p _ rfl (Or.inl rfl)

theorem reclaim_form {s t : State} (h : Form s t) (q : List WorkEntry) : Form s { t with reclaim := q } :=
  ⟨h.channels, h.records, h.cells, h.ports, h.gap⟩

/-! ## Events and counters -/

theorem queueEvent_form (p : Port) (e : Event) : Form s (queueEvent s p e) := modPort_form_same s p _ rfl (Or.inl rfl)

theorem notifyEach_form (refs : List AttRef) (mk : AttRef → Event) : Form s (notifyEach s refs mk) :=
  Form.foldl (fun s (a : AttRef) => queueEvent_form s a.port (mk a)) refs s

theorem bump_form (c : ChanId) (k : Counter) : Form s (bump s c k) := by
  unfold bump
  dsimp only
  split
  · exact (modChan_form s c _).trans (notifyEach_form _ _ _)
  · exact modChan_form s c _

/-! ## Outcomes -/

theorem queueReceipt_form (c : ChanId) (r : RecId) (o : MsgOutcome) (n : Nat) : Form s (queueReceipt s c r o n) := by
  unfold queueReceipt
  dsimp only
  split
  · exact (modPort_form_same s _ _ rfl (Or.inl rfl)).trans (modMsg_form _ r _)
  · exact .refl s

theorem issue_form (c : ChanId) (r : RecId) (o : MsgOutcome) (n : Nat) : Form s (issue s c r o n) := by
  unfold issue
  split
  · exact .refl s
  · exact ((modMsg_form s r _).trans (bump_form _ c _)).trans (queueReceipt_form _ c r o n)

theorem leaveList_form (c : ChanId) (r : RecId) : Form s (leaveList s c r) := modChan_form s c _

theorem returnCells_form (chain : List CellId) (p : Port) : Form s (returnCells s chain p) := by
  have h := modPort_form_same s p (fun q => { q with charge := q.charge - chain.length }) rfl (Or.inl rfl)
  exact ⟨h.channels, h.records, returnCells_wf s chain p, h.ports, h.gap⟩

theorem freeRecord_form (c : ChanId) (r : RecId) (o : MsgOutcome) (n : Nat) : Form s (freeRecord s c r o n) :=
  ((issue_form s c r o n).trans (leaveList_form _ c r)).trans ((returnCells_form _ _ _).trans
    (modMsg_form (returnCells (leaveList (issue s c r o n) c r) _ _) r (fun _ => MsgRecord.free)))

theorem unlist_form (c : ChanId) (r : RecId) : Form s (unlist s c r) := (leaveList_form s c r).trans (modMsg_form _ r _)

theorem settlePending_form (c : ChanId) (r : RecId) : Form s (settlePending s c r) := by
  unfold settlePending
  split
  · split
    · exact freeRecord_form s c r _ _
    · exact unlist_form s c r
  · exact .refl s

/-! ## Hands, waits and arrivals -/

theorem fillSlot_form (p : Port) (i : Slot) (r : RecId) (h : Handle) : Form s (fillSlot s p i r h) := setSlot_form s p i _

theorem takeIntoHand_form (c : ChanId) (r : RecId) : Form s (takeIntoHand s c r) :=
  (leaveList_form s c r).trans (modMsg_form _ r _)

theorem takeByHolder_form (c : ChanId) (r : RecId) (a : AttRef) : Form s (takeByHolder s c r a) :=
  (modMsg_form s r _).trans (settlePending_form _ c r)

theorem clearLagReported_form (a : AttRef) : Form s (clearLagReported s a) :=
  modAtt_form s a _ (fun u _ hu => by split <;> exact hu)

theorem dropParked_form (c : ChanId) (p : Port) (w : ParkedTake) : Form s (dropParked s c p w) :=
  ((modChan_form s c _).trans (setSlot_form _ p w.slot .empty)).trans (modPort_form_same _ p _ rfl (Or.inr rfl))

theorem bindSlot_form (c : ChanId) (r : RecId) (p : Port) (w : ParkedTake) : Form s (bindSlot s c r p w) :=
  ((((fillSlot_form s p w.slot r w.handle).trans (modChan_form _ c _)).trans
    (modPort_form_same _ p _ rfl (Or.inr rfl))).trans (clearLagReported_form _ ⟨p, w.handle⟩)).trans (queueEvent_form _ p _)

theorem bindPoint_form (c : ChanId) (r : RecId) (p : Port) : Form s (bindPoint s c r p) := by
  unfold bindPoint
  split
  · exact .refl s
  · exact (takeIntoHand_form s c r).trans (bindSlot_form _ c r p _)

theorem bindFanout_form (c : ChanId) (r : RecId) (p : Port) : Form s (bindFanout s c r p) := by
  unfold bindFanout
  split
  · exact .refl s
  · split
    · exact (takeByHolder_form s c r _).trans (bindSlot_form _ c r p _)
    · exact .refl s

/-- An attachment whose arrivals have been reported, or whose settings start anew, counts none (R171). -/
theorem ranged_of_no_arrivals {u : Attachment} (h : u.ranged) : { u with arrivals := 0, timer := none : Attachment }.ranged :=
  ⟨h.1, h.2.1, Or.inr rfl, by simp, h.2.2.2.2⟩

/-- One arrival more, short of the threshold (R171). -/
theorem ranged_of_arrival {u : Attachment} (h : u.ranged) (h0 : u.threshold ≠ 0) (hn : u.arrivals + 1 ≠ u.threshold)
    (x : Option Nat) : { u with arrivals := u.arrivals + 1, timer := x : Attachment }.ranged := by
  obtain ⟨hthreshold, hlag, harr, -, hrole⟩ := h
  refine ⟨hthreshold, hlag, Or.inl ?_, fun _ => Nat.succ_pos _, hrole⟩
  show u.arrivals + 1 < u.threshold
  omega

theorem arrive_form (c : ChanId) (urgent : Bool) (a : AttRef) : Form s (arrive s c urgent a) := by
  unfold arrive
  split
  · exact .refl s
  · next u hu =>
    split
    · exact .refl s
    · next h0 =>
      split
      · exact (modAtt_form s a _ (fun _ _ => ranged_of_no_arrivals)).trans (queueEvent_form _ a.port _)
      · next hr =>
        refine modAtt_form s a _ (fun v hv h => ?_)
        rw [hu, Option.mem_some_iff] at hv
        subst hv
        exact ranged_of_arrival h h0 (by simp at hr; exact hr.2) _

theorem arriveAll_form (c : ChanId) (urgent : Bool) (refs : List AttRef) : Form s (arriveAll s c urgent refs) :=
  Form.foldl (fun s a => arrive_form s c urgent a) refs s

/-! ## Handing back -/

theorem requeue_form (c : ChanId) (r : RecId) : Form s (requeue s c r) := by
  unfold requeue
  dsimp only
  split
  · exact ((modMsg_form s r _).trans (modChan_form _ c _)).trans (bindPoint_form _ c r _)
  · exact ((modMsg_form s r _).trans (modChan_form _ c _)).trans (arriveAll_form _ c _ _)

theorem handBackPoint_form (c : ChanId) (r : RecId) : Form s (handBackPoint s c r).1 := by
  unfold handBackPoint
  dsimp only
  split
  · split
    · exact (bump_form s c _).trans (requeue_form _ c r)
    · exact (bump_form s c _).trans (freeRecord_form _ c r _ _)
  · exact (bump_form s c _).trans (freeRecord_form _ c r _ _)

theorem releaseFanout_form (c : ChanId) (r : RecId) (a : AttRef) : Form s (releaseFanout s c r a) := by
  unfold releaseFanout
  dsimp only
  split
  · exact (modMsg_form s r _).trans (freeRecord_form _ c r _ _)
  · exact modMsg_form s r _

theorem handBackRecord_form (r : RecId) (a : AttRef) : Form s (handBackRecord s r a) := by
  unfold handBackRecord
  split
  · exact .refl s
  · split
    · exact handBackPoint_form s _ r
    · exact releaseFanout_form s _ r a

theorem handBackSlot_form (p : Port) (i : Slot) : Form s (handBackSlot s p i) := by
  unfold handBackSlot
  split
  · exact (setSlot_form s p i .empty).trans (handBackRecord_form _ _ _)
  · exact .refl s

theorem handBackThrough_form (a : AttRef) : Form s (handBackThrough s a) :=
  Form.foldl (fun s i => by
    split
    · split
      · exact handBackSlot_form s _ i
      · exact .refl s
    · exact .refl s) _ s

theorem handBackAll_form (p : Port) : Form s (handBackAll s p) := Form.foldl (fun s i => handBackSlot_form s p i) _ s

/-! ## Holding, dooming, closing, detaching -/

theorem setHeld_form (c : ChanId) : Form s (setHeld s c) :=
  (modChan_form s c _).trans (Form.foldl (fun s r => modMsg_form s r _) _ _)

theorem announce_form (c : ChanId) (k : EventKind) : Form s (announce s c k) := notifyEach_form s _ _

theorem doomList_form (c : ChanId) : Form s (doomList s c) := Form.foldl (fun s r => modMsg_form s r _) _ s

theorem freeChannel_form (c : ChanId) : Form s (freeChannel s c) := reclaim_form (modChan_form s c _) _

theorem closeChannel_form (c : ChanId) : Form s (closeChannel s c) := by
  have h : Form s ((doomList s c).modChan c
      (fun ch => { ch with state := .closing, held := false, watch := none, purger := none })) :=
    (doomList_form s c).trans (modChan_form _ c _)
  unfold closeChannel
  dsimp only
  split
  · exact reclaim_form h _
  · exact reclaim_form h _

theorem closeIfLast_form (c : ChanId) : Form s (closeIfLast s c) := by
  unfold closeIfLast
  split
  · split
    · exact freeChannel_form s c
    · exact closeChannel_form s c
  · exact .refl s

theorem leavePending_form (c : ChanId) (a : AttRef) : Form s (leavePending s c a) :=
  Form.foldl (fun s r => by
    split
    · exact (modMsg_form s r _).trans (settlePending_form _ c r)
    · exact .refl s) _ s

theorem forgetOwner_form (c : ChanId) (a : AttRef) : Form s (forgetOwner s c a) := modChan_form s c _

theorem detach_form (a : AttRef) : Form s (detach s a) := by
  unfold detach
  split
  · exact .refl s
  · next t _ =>
    dsimp only
    refine Form.trans ?_ (closeIfLast_form _ _)
    refine Form.trans ?_ (forgetOwner_form _ _ _)
    have hfree := setAtt_form s a none (fun _ u hu => by simp at hu)
    have hwait : ∀ u : State, Form u (match (u.port a.port).parked with
        | some w => if w.handle = a.handle then dropParked u t.channel a.port w else u
        | none => u) := by
      intro u
      split
      · split
        · exact dropParked_form u _ _ _
        · exact .refl u
      · exact .refl u
    have hhands := (hfree.trans (hwait _)).trans (handBackThrough_form _ a)
    split
    · exact hhands.trans (leavePending_form _ _ _)
    · exact hhands

theorem dropOwnParked_form (p : Port) : Form s (dropOwnParked s p) := by
  unfold dropOwnParked
  split
  · exact dropParked_form s _ p _
  · exact .refl s

theorem detachAll_form (p : Port) : Form s (detachAll s p) := Form.foldl (fun s h => detach_form s ⟨p, h⟩) _ s

/-- A record that is not FREE is not made FREE by losing its receipt flag. -/
theorem disown_ne_free (p : Port) (m : MsgRecord) (h : m ≠ MsgRecord.free) : m.disown p ≠ MsgRecord.free := by
  unfold MsgRecord.disown
  split
  · next hm => exact fun e => hm.1 (congrArg MsgRecord.state e)
  · exact h

theorem emptyQueues_form (p : Port) : Form s (emptyQueues s p) := by
  have h := modPort_form_same s p (fun q => { q with events := [], receipts := [], reservations := 0 }) rfl (Or.inl rfl)
  exact ⟨h.channels, fun hr => Table.wf_mapAll (h.records hr) _ (disown_ne_free p), h.cells, h.ports, h.gap⟩

theorem teardown_form (p : Port) : Form s (teardown s p) :=
  (((dropOwnParked_form s p).trans (handBackAll_form _ p)).trans (detachAll_form _ p)).trans (emptyQueues_form _ p)

/-! ## The end of an event -/

theorem roomCheck_form (c : ChanId) : Form s (roomCheck s c) := by
  unfold roomCheck
  split
  · exact Form.foldl (fun s a => (modAtt_form s a _ (fun _ _ h => by exact h)).trans (queueEvent_form _ a.port _)) _ s
  · exact .refl s

theorem endOfEvent_form (before after : State) : Form after (endOfEvent before after) :=
  Form.foldl (fun s c => by
    split
    · exact roomCheck_form s c
    · exact .refl s) _ after

theorem startEngine_form (before : State) : Form s (startEngine before s) :=
  ⟨id, id, id, fun _ => .refl _, by rw [engineGap_startEngine]; split <;> simp⟩

end

end Sys2Proof.Machine
end

section
/-! SUPPORT. The form of the state (O53): hand-backs, DETACH, teardown and the engine. -/

namespace Sys2Proof.Machine

section
variable (s : State)

/-! ## Posting -/

theorem chargeLag_form (c : ChanId) (a : AttRef) : Form s (chargeLag s c a) := by
  have hlag : ∀ n : Nat, n ≤ 65535 → Form s (s.modAtt a (fun u => { u with lag := n, lagReported := true })) :=
    fun n hn => modAtt_form s a _ (fun u _ hu => ⟨hu.1, hn, hu.2.2⟩)
  unfold chargeLag
  split
  · exact .refl s
  · dsimp only
    split
    · exact hlag _ (Nat.min_le_right _ _)
    · exact (hlag _ (Nat.min_le_right _ _)).trans (queueEvent_form _ _ _)

theorem shedFanout_form (c : ChanId) (r : RecId) : Form s (shedFanout s c r) := by
  have h : Form s (((s.msg r).pending.foldl (fun s a => chargeLag s c a) s).modMsg r (fun m => { m with pending := [] })) :=
    (Form.foldl (fun s a => chargeLag_form s c a) _ s).trans (modMsg_form _ r _)
  unfold shedFanout
  dsimp only
  split
  · exact h.trans (freeRecord_form _ c r _ _)
  · exact h.trans ((unlist_form _ c r).trans (issue_form _ c r _ _))

theorem shedRecord_form (c : ChanId) (r : RecId) : Form s (shedRecord s c r) := by
  unfold shedRecord
  split
  · exact freeRecord_form s c r _ _
  · exact shedFanout_form s c r

theorem buildRecord_form (p : Port) (c : ChanId) (g : PostArgs) (r : RecId) : Form s (buildRecord s p c g r) := by
  let chain := s.freeCells.take (cellsFor g.payload.length)
  let u : State := { s with cells := writeCells s.cells g.payload chain 0 }
  have hcells : Form s u := { Form.refl s with cells := fun h => buildRecord_wf s p c g r h }
  have hport := modPort_form_same u p (fun q =>
    { q with serial := q.serial + 1, charge := q.charge + chain.length,
             reservations := q.reservations + bitValue g.receipt 1 }) rfl (Or.inl rfl)
  exact (hcells.trans hport).trans ((modMsg_form _ r (fun _ => newRecord s p c g chain)).trans
    (modChan_form _ c (fun ch => { ch with list := ch.list ++ [r] })))

theorem countFiltered_form (c : ChanId) (tag : Word) : Form s (countFiltered s c tag) := by
  unfold countFiltered
  split
  · exact .refl s
  · exact Form.foldl (fun s _ => bump_form s c _) _ s

theorem watchCompare_form (c : ChanId) (tag : Word) (t : Ticket) : Form s (watchCompare s c tag t) := by
  have hhold : ∀ b : Bool, Form s (if b then s else setHeld s c) := by
    intro b; cases b
    · exact setHeld_form s c
    · exact .refl s
  have htell : ∀ (b : Bool) (u : State), Form u (if b then u else announce u c .channelHeld) := by
    intro b u; cases b
    · exact announce_form u c _
    · exact .refl u
  unfold watchCompare
  split
  · exact .refl s
  · split
    · dsimp only
      split
      · exact ((hhold _).trans (queueEvent_form _ _ _)).trans (htell _ _)
      · exact (((hhold _).trans (queueEvent_form _ _ _)).trans (htell _ _)).trans (modChan_form _ c _)
    · exact .refl s

theorem bindAtPost_form (c : ChanId) (r : RecId) : Form s (bindAtPost s c r) := by
  unfold bindAtPost
  split
  · exact .refl s
  · split
    · split
      · exact .refl s
      · exact bindPoint_form s c r _
    · exact Form.foldl (fun s p => bindFanout_form s c r p) _ s

theorem arrivalsAtPost_form (c : ChanId) (r : RecId) : Form s (arrivalsAtPost s c r) := by
  unfold arrivalsAtPost
  split
  · split
    · exact arriveAll_form s c _ _
    · exact .refl s
  · exact arriveAll_form s c _ _

theorem dropIfNoTaker_form (c : ChanId) (r : RecId) : Form s (dropIfNoTaker s c r) := by
  unfold dropIfNoTaker
  split
  · exact settlePending_form s c r
  · exact .refl s

theorem acceptPost_form (p : Port) (c : ChanId) (g : PostArgs) (r : RecId) : Form s (acceptPost s p c g r) :=
  (buildRecord_form s p c g r).trans ((((((countFiltered_form _ c _).trans (bump_form _ c _)).trans
    (watchCompare_form _ c _ _)).trans (bindAtPost_form _ c r)).trans (arrivalsAtPost_form _ c r)).trans
      (dropIfNoTaker_form _ c r))

theorem refusePost_form (a : AttRef) (c : ChanId) (x : Result) : Form s (refusePost s a c x).state := by
  unfold refusePost
  dsimp only
  split
  · exact (bump_form s c _).trans (modAtt_form _ a _ (fun _ _ h => h))
  · exact bump_form s c _

/-! ## Taking -/

theorem takeRecord_form (c : ChanId) (a : AttRef) (x : Role) (i : Slot) (r : RecId) : Form s (takeRecord s c a x i r) := by
  unfold takeRecord
  split
  · exact (takeByHolder_form s c r a).trans (fillSlot_form _ _ i r _)
  · exact (takeIntoHand_form s c r).trans (fillSlot_form _ _ i r _)

/-- The wait of a parked take comes from a two-byte field (R74). -/
theorem parkTake_form (c : ChanId) (a : AttRef) (i : Slot) (w : Word) : Form s (parkTake s c a i w) := by
  have hpark : ∀ u : State, Form u (u.modPort a.port (fun q => { q with parked := some ⟨a.handle, i, w.toNat⟩ })) :=
    fun u => modPort_form u a.port _ { PortForm.refl _ with
      wait := fun _ v hv => by
        have := w.isLt
        cases hv
        show w.toNat ≤ 65535
        omega }
  exact ((setSlot_form s a.port i .reserved).trans (hpark _)).trans (modChan_form _ c _)

theorem selectTake_form (c : ChanId) (a : AttRef) (x : Role) (i : Slot) (w : Word) :
    Form s (selectTake s c a x i w).state := by
  unfold selectTake
  split
  · exact (takeRecord_form s c a x i _).trans (clearLagReported_form _ a)
  · split
    · exact clearLagReported_form s a
    · split
      · exact .refl s
      · exact (parkTake_form s c a i w).trans (clearLagReported_form _ a)

theorem releaseRecord_form (r : RecId) (a : AttRef) : Form s (releaseRecord s r a) := by
  unfold releaseRecord
  split
  · exact .refl s
  · split
    · exact freeRecord_form s _ r _ _
    · exact releaseFanout_form s _ r a

theorem giveBackHeld_form (p : Port) (x : Held) : Form s (giveBackHeld p x s).state := by
  unfold giveBackHeld
  split
  · exact setSlot_form s p x.slot .empty
  · split
    · exact .refl s
    · exact (setSlot_form s p x.slot .empty).trans (handBackPoint_form _ _ _)

/-! ## Inspection -/

theorem bindWaiting_form (c : ChanId) (p : Port) : Form s (bindWaiting s c p) := by
  unfold bindWaiting
  split
  · exact .refl s
  · split
    · exact .refl s
    · exact bindFanout_form s c _ p

theorem bindAtResume_form (c : ChanId) : Form s (bindAtResume s c) := by
  unfold bindAtResume
  split
  · exact Form.foldl (fun s (e : RecId × Port) => bindPoint_form s c e.1 e.2) _ s
  · exact Form.foldl (fun s p => bindWaiting_form s c p) _ s

theorem resumeChannel_form (c : ChanId) : Form s (resumeChannel s c) := by
  have h : Form s (announce (s.modChan c (fun ch => { ch with held := false })) c .channelResumed) :=
    (modChan_form s c _).trans (announce_form _ c _)
  unfold resumeChannel
  dsimp only
  split
  · exact h.trans (bindAtResume_form _ c)
  · exact h

theorem startPurge_form (c : ChanId) (a : AttRef) : Form s (startPurge s c a) :=
  reclaim_form ((doomList_form s c).trans (modChan_form _ c _)) _

/-! ## Timers and the reclaim engine -/

theorem expireRecord_form (c : ChanId) (r : RecId) : Form s (expireRecord s c r) := by
  unfold expireRecord
  split
  · exact freeRecord_form s c r _ _
  · split
    · exact freeRecord_form s c r _ _
    · exact (unlist_form s c r).trans (issue_form _ c r _ _)

theorem reclaimRecord_form (c : ChanId) (r : RecId) : Form s (reclaimRecord s c r) := by
  unfold reclaimRecord
  split
  · exact freeRecord_form s c r _ _
  · split
    · exact freeRecord_form s c r _ _
    · exact (unlist_form s c r).trans (issue_form _ c r _ _)

theorem stepTaken_form {t : State} (h : Form s t) : Form s (stepTaken t) :=
  ⟨h.channels, h.records, h.cells, h.ports, (Nat.sub_le _ _).trans h.gap⟩

theorem recordStep_form : Form s (recordStep s) := by
  unfold recordStep
  split
  · exact .refl s
  · split
    · exact .refl s
    · exact stepTaken_form s ((reclaimRecord_form s _ _).trans (endOfEvent_form _ _))

theorem completePurge_form (c : ChanId) (n : Nat) : Form s (completePurge s c n) := by
  unfold completePurge
  dsimp only
  split
  · exact ((modChan_form s c _).trans (queueEvent_form _ _ _)).trans (roomCheck_form _ c)
  · exact (modChan_form s c _).trans (roomCheck_form _ c)

theorem completionStep_form : Form s (completionStep s) := by
  unfold completionStep
  split
  · exact .refl s
  · split
    · refine stepTaken_form s ?_
      split
      · exact reclaim_form (completePurge_form s _ _) _
      · exact freeChannel_form s _
      · exact reclaim_form (.refl s) _
    · exact .refl s

theorem engineStep_form : Form s (engineStep s) := by
  unfold engineStep
  split
  · exact .refl s
  · split
    · exact completionStep_form s
    · exact recordStep_form s

theorem expire_form (x : Expiry) : Form s (expire s x) := by
  cases x with
  | lifetime r =>
    simp only [expire]
    split
    · exact (expireRecord_form s _ r).trans (endOfEvent_form _ _)
    · exact .refl s
  | wait p =>
    simp only [expire]
    split
    · exact ((dropParked_form s _ p _).trans (queueEvent_form _ p _)).trans (endOfEvent_form _ _)
    · exact .refl s
  | lease p i =>
    simp only [expire]
    split
    · exact (((setSlot_form s p i .empty).trans (queueEvent_form _ p _)).trans (handBackRecord_form _ _ _)).trans
        (endOfEvent_form _ _)
    · exact .refl s
  | penalty p => exact modPort_form_same s p (fun q => { q with penalty := none }) rfl (Or.inl rfl)
  | coalescing p h =>
    simp only [expire]
    split
    · exact (modAtt_form s _ _ (fun _ _ => ranged_of_no_arrivals)).trans (queueEvent_form _ _ _)
    · exact .refl s

end

end Sys2Proof.Machine
end

section
/-! SUPPORT. The form of the state (O53): the fields in their ranges, and what a command does around its own work. -/

namespace Sys2Proof.Machine

/-! ## What every step keeps of the form of the state -/

/-- The ranges of the state but that of the engine's gap. -/
def State.fieldsRanged (s : State) : Prop :=
  s.tickPhase < 100 ∧ (∀ p : Port, (s.port p).ranged) ∧ (∀ p : Port, (s.port p).attsRanged) ∧
    (∀ c : ChanId, (s.chan c).ranged) ∧ ∀ r : RecId, (s.msg r).ranged

theorem ranged_iff (s : State) : s.ranged ↔ s.fieldsRanged ∧ s.engineGap ≤ 51 := by
  constructor
  · rintro ⟨hphase, hgap, hports, hatts, hchans, hmsgs⟩
    exact ⟨⟨hphase, hports, hatts, hchans, hmsgs⟩, hgap⟩
  · rintro ⟨⟨hphase, hports, hatts, hchans, hmsgs⟩, hgap⟩
    exact ⟨hphase, hgap, hports, hatts, hchans, hmsgs⟩

/-- What every step keeps, but for the engine's gap. -/
structure Keeps (s t : State) : Prop where
  canonical : s.canonical → t.canonical
  fields : s.fieldsRanged → t.fieldsRanged
  names : s.namesDiffer → t.namesDiffer
  counts : s.countsBounded → t.countsBounded

theorem Keeps.refl (s : State) : Keeps s s := ⟨id, id, id, id⟩

theorem Keeps.trans {s t u : State} (h : Keeps s t) (g : Keeps t u) : Keeps s u :=
  ⟨g.canonical ∘ h.canonical, g.fields ∘ h.fields, g.names ∘ h.names, g.counts ∘ h.counts⟩

/-- What every step keeps in which no time passes: the engine's last step comes no further from the next boundary. -/
structure Orderly (s t : State) : Prop extends Keeps s t where
  gap : t.engineGap ≤ s.engineGap

theorem Orderly.refl (s : State) : Orderly s s := ⟨.refl s, le_rfl⟩

theorem Orderly.trans {s t u : State} (h : Orderly s t) (g : Orderly t u) : Orderly s u :=
  ⟨h.toKeeps.trans g.toKeeps, g.gap.trans h.gap⟩

/-- The ranges of a channel are a matter of its parameters (R3). -/
theorem ranged_of_params {a b : Channel} (h : b.params = a.params) (ha : a.ranged) : b.ranged := by
  simp only [Channel.params, Prod.mk.injEq] at h
  obtain ⟨-, -, hdepth, hmark, -, -⟩ := h
  rw [Channel.ranged, hdepth, hmark]
  exact ha

theorem ranged_free : Channel.free.ranged := by decide

theorem ranged_of_channelWork {a b : Channel} (h : ChannelWork a b) (ha : a.ranged) : b.ranged := by
  rcases h with ⟨hp, -⟩ | ⟨hp, -⟩
  · exact ranged_of_params hp ha
  · exact ranged_of_params hp ranged_free

/-- A channel that is not FREE after a shared operation carries the name that it had. -/
theorem name_of_channelWork {a b : Channel} (h : ChannelWork a b) (hb : b.state ≠ .free) :
    a.state ≠ .free ∧ b.name = a.name := by
  rcases h with ⟨hp, hs⟩ | ⟨-, hs⟩
  · exact ⟨mt hs.mpr hb, congrArg Prod.fst hp⟩
  · exact absurd hs hb

theorem ranged_of_recordWork {a b : MsgRecord} (h : RecordWork a b) (ha : a.ranged) : b.ranged := by
  have hlife : b.lifetime = a.lifetime ∨ b.lifetime = none := by
    rcases h.kept with e | e
    · simp only [MsgRecord.kept, Prod.mk.injEq] at e
      exact Or.inl e.2.2.2.2.2.2
    · simp only [MsgRecord.kept, Prod.mk.injEq] at e
      exact Or.inr e.2.2.2.2.2.2
  rcases hlife with e | e
  · rw [MsgRecord.ranged, e]; exact ha
  · simp [MsgRecord.ranged, e]

/-- What a shared operation keeps. -/
theorem orderly_of_work {s t : State} (hw : Work s t) (hf : Form s t) : Orderly s t where
  canonical h := ⟨hf.channels h.1, hf.records h.2.1, hf.cells h.2.2⟩
  fields := by
    rintro ⟨hphase, hports, hatts, hchans, hmsgs⟩
    refine ⟨hw.tickPhase ▸ hphase, fun p => ?_, fun p => (hf.ports p).atts (hatts p),
      fun c => ranged_of_channelWork (hw.chans c) (hchans c), fun r => ranged_of_recordWork (hw.msgs r) (hmsgs r)⟩
    obtain ⟨hepoch, hbad, hpen, hwait⟩ := hports p
    have hp := hw.ports p
    exact ⟨hp.epoch ▸ hepoch, hp.badCodes ▸ hbad, hp.penalty ▸ hpen, (hf.ports p).wait hwait⟩
  names h c d hc hd hn := by
    obtain ⟨hc', ec⟩ := name_of_channelWork (hw.chans c) hc
    obtain ⟨hd', ed⟩ := name_of_channelWork (hw.chans d) hd
    exact h c d hc' hd' (ec ▸ ed ▸ hn)
  counts h r := ⟨(hw.msgs r).redelivery (h r).1, (hw.msgs r).taken (h r).2⟩
  gap := hf.gap

/-- A change of a port that keeps its ranges and its attachments. -/
theorem modPort_orderly (s : State) (p : Port) (f : PortState → PortState)
    (hr : (s.port p).ranged → (f (s.port p)).ranged) (ha : (s.port p).attsRanged → (f (s.port p)).attsRanged) :
    Orderly s (s.modPort p f) where
  canonical := id
  fields := by
    rintro ⟨hphase, hports, hatts, hchans, hmsgs⟩
    refine ⟨hphase, fun q => ?_, fun q => ?_, hchans, hmsgs⟩
    · by_cases hq : q = p
      · subst hq; rw [port_modPort_self]; exact hr (hports q)
      · rw [port_modPort_of_ne s hq]; exact hports q
    · by_cases hq : q = p
      · subst hq; rw [port_modPort_self]; exact ha (hatts q)
      · rw [port_modPort_of_ne s hq]; exact hatts q
  names := id
  counts := id
  gap := le_rfl

/-- A message record is written that is in its ranges. -/
theorem modMsg_orderly (s : State) (r : RecId) (f : MsgRecord → MsgRecord) (hr : (s.msg r).ranged → (f (s.msg r)).ranged)
    (hc : (s.msg r).redelivery ≤ Config.poisonLimit ∧ (s.msg r).taken ≤ Config.takenMax →
      (f (s.msg r)).redelivery ≤ Config.poisonLimit ∧ (f (s.msg r)).taken ≤ Config.takenMax) :
    Orderly s (s.modMsg r f) where
  canonical h := ⟨h.1, (modMsg_form s r f).records h.2.1, h.2.2⟩
  fields := by
    rintro ⟨hphase, hports, hatts, hchans, hmsgs⟩
    refine ⟨hphase, hports, hatts, hchans, fun q => ?_⟩
    by_cases hq : q = r
    · subst hq; rw [msg_modMsg_self]; exact hr (hmsgs q)
    · rw [msg_modMsg_of_ne s hq]; exact hmsgs q
  names := id
  counts h q := by
    by_cases hq : q = r
    · subst hq; rw [msg_modMsg_self]; exact hc (h q)
    · rw [msg_modMsg_of_ne s hq]; exact h q
  gap := le_rfl

/-- The count of free choices and the waiting commands have no part in the form of the state. -/
theorem draws_orderly (s : State) (n : Nat) : Orderly s { s with draws := n } := ⟨⟨id, id, id, id⟩, le_rfl⟩
theorem pending_orderly (s : State) (q : List Instr) : Orderly s { s with pending := q } := ⟨⟨id, id, id, id⟩, le_rfl⟩

/-! ## Frames -/

/-- A port's response record, receiver and SDO have no part in the form of the state. -/
theorem inFlight_orderly (s : State) (p : Port) (x : Option Byte) : Orderly s (inFlight s p x) :=
  modPort_orderly s p _ (fun h => h) (fun h => h)

theorem asserted_orderly (s : State) (l : Link) : Orderly s (s.asserted l) := by
  unfold State.asserted
  split
  · split
    · exact .refl s
    · exact (draws_orderly s _).trans (modPort_orderly _ _ _ (fun h => h) (fun h => h))
  · exact modPort_orderly s _ _ (fun h => h) (fun h => h)

theorem received_orderly (s : State) (l : Link) : Orderly s (s.received l) := by
  unfold State.received
  split
  · exact (asserted_orderly s l).trans (inFlight_orderly _ _ _)
  · exact (asserted_orderly s l).trans (inFlight_orderly _ _ _)
  · exact inFlight_orderly s _ _

theorem respond_orderly (s : State) (p : Port) (seq code : Byte) (x : Result) (d : List Byte) :
    Orderly s (respond s p seq code x d) := modPort_orderly s p _ (fun h => h) (fun h => h)

theorem overFrame_orderly {l : Link} {out : List Byte} {body : State → State} {s t : State}
    (hb : ∀ s, Orderly s (body s)) (ht : overFrame l out body s = .next t) : Orderly s t := by
  by_cases h : s.takes l = true
  · rw [overFrame_of_takes s h] at ht
    cases ht
    exact ((received_orderly s l).trans (modPort_orderly _ _ _ (fun h => h) (fun h => h))).trans (hb _)
  · rw [overFrame_of_not_takes s (by simpa using h)] at ht
    cases ht
    exact received_orderly s l

theorem takeCommand_orderly {f : CommandFrame} {body : State → Reply} (hb : ∀ s, Orderly s (body s).state) (s : State) :
    Orderly s (takeCommand f body s) := by
  unfold takeCommand
  split
  · exact respond_orderly s _ _ _ _ _
  · split
    · exact (((hb s).trans (orderly_of_work (endOfEvent_work s _) (endOfEvent_form s _))).trans
        (orderly_of_work (startEngine_work (.refl _)) (startEngine_form _ s))).trans (respond_orderly _ _ _ _ _ _)
    · exact respond_orderly s _ _ _ _ _

theorem runCommand_orderly {i : Instr} {body : State → Reply} (hb : ∀ s, Orderly s (body s).state) {s t : State}
    (ht : runCommand i body s = .next t) : Orderly s t := by
  unfold runCommand at ht
  split at ht
  · cases ht; exact .refl s
  · exact overFrame_orderly (takeCommand_orderly hb) ht

theorem withHandle_orderly {s : State} {p : Port} {b : Byte} {k : Handle → Attachment → Reply}
    (h : ∀ j u, s.att ⟨p, j⟩ = some u → Orderly s (k j u).state) : Orderly s (withHandle s p b k).state := by
  unfold withHandle
  split
  · exact .refl s
  · next j u he => exact h j u ((handleAt_eq_some_iff s p b j u).mp he).2

end Sys2Proof.Machine
end

section
/-! SUPPORT. The form of the state (O53): the commands' own work. -/

namespace Sys2Proof.Machine

/-! ## The commands -/

theorem ranged_fresh (c : ChanId) (x : Role) : (Attachment.fresh c x).ranged := by
  cases x <;> simp [Attachment.ranged, Attachment.fresh]

theorem helloBody_orderly (p : Port) (lease : Word) (options : Byte) (s : State) :
    Orderly s (helloBody p lease options s).state := by
  have hopen : ∀ u : State, Orderly u (openSession u p lease (optionAttention options)) := fun u =>
    modPort_orderly u p _ (fun h => ⟨by
      show nextEpoch (u.port p).epoch ≤ 255
      have := h.1
      unfold nextEpoch
      split <;> omega, h.2⟩) (fun h => h)
  unfold helloBody
  split
  · dsimp only
    split
    · exact (orderly_of_work (teardown_work s p) (teardown_form s p)).trans (hopen _)
    · exact hopen s
  · exact .refl s

/-- A new channel has parameters in their ranges and a name that no other channel has (R3, R6, R14). -/
theorem makeChannel_orderly {s : State} {p : Port} {h : Handle} {c : ChanId} {g : CreateArgs}
    (hg : 1 ≤ g.depthLimit ∧ g.depthLimit ≤ 64 ∧ g.roomMark < g.depthLimit) (hn : ∀ d, ¬ s.named g.name d) :
    Orderly s (makeChannel s p h c g) := by
  have hchan : Orderly s (s.modChan c (fun _ => { Channel.free with
      state := .opened, name := g.name, kind := g.kind, depthLimit := g.depthLimit, roomMark := g.roomMark,
      policy := g.policy, code := g.code })) :=
    { canonical := fun h => ⟨(modChan_form s c _).channels h.1, h.2⟩
      fields := by
        rintro ⟨hphase, hports, hatts, hchans, hmsgs⟩
        refine ⟨hphase, hports, hatts, fun d => ?_, hmsgs⟩
        by_cases hd : d = c
        · subst hd; rw [chan_modChan_self]; exact hg
        · rw [chan_modChan_of_ne s hd]; exact hchans d
      names := by
        intro h d e hd he hde
        by_cases hdc : d = c <;> by_cases hec : e = c
        · rw [hdc, hec]
        · subst hdc
          rw [chan_modChan_self, chan_modChan_of_ne s hec] at hde
          rw [chan_modChan_of_ne s hec] at he
          exact absurd ⟨he, hde.symm⟩ (hn e)
        · subst hec
          rw [chan_modChan_self, chan_modChan_of_ne s hdc] at hde
          rw [chan_modChan_of_ne s hdc] at hd
          exact absurd ⟨hd, hde⟩ (hn d)
        · rw [chan_modChan_of_ne s hdc] at hd hde
          rw [chan_modChan_of_ne s hec] at he hde
          exact h d e hd he hde
      counts := id
      gap := le_rfl }
  exact hchan.trans (orderly_of_work (setAtt_work _ _ _) (setAtt_form _ _ _ (fun _ u hu => by
    cases hu
    exact ranged_fresh c g.role)))

theorem createBody_orderly (p : Port) (name : Word) (kind depth mark policy : Byte) (code : AccessCode) (role : Byte)
    (s : State) : Orderly s (createBody p name kind depth mark policy code role s).state := by
  unfold createBody
  split
  · exact .refl s
  · split
    · exact .refl s
    · next g hg =>
      split
      · exact .refl s
      · next hl =>
        split
        · exact .refl s
        · split
          · exact .refl s
          · exact makeChannel_orderly (createArgs_eq_some hg).2 (lookupName_eq_none_iff.mp hl)

theorem countBadCode_orderly (s : State) (p : Port) : Orderly s (s.modPort p countBadCode) := by
  refine modPort_orderly s p _ (fun h => ?_) (fun h => ?_)
  · unfold countBadCode
    split
    · exact ⟨h.1, Nat.zero_le _, by simp [Config.penaltyTicks], h.2.2.2⟩
    · next hn =>
      refine ⟨h.1, ?_, h.2.2⟩
      have := h.2.1
      show (s.port p).badCodes + 1 ≤ 2
      simp only [Config.badCodeLimit] at hn
      omega
  · unfold countBadCode
    split <;> exact h

theorem joinChannel_orderly (s : State) (p : Port) (h : Handle) (c : ChanId) (x : Role) (again : Bool) :
    Orderly s (joinChannel s p h c x again) := by
  have hatt := orderly_of_work (setAtt_work s ⟨p, h⟩ (some (Attachment.fresh c x)))
    (setAtt_form s ⟨p, h⟩ _ (fun _ u hu => by cases hu; exact ranged_fresh c x))
  have hseat : Orderly s (seated s p h c x) :=
    hatt.trans (modPort_orderly _ p _ (fun h => ⟨h.1, Nat.zero_le _, h.2.2⟩) (fun h => h))
  have hkept : ∀ m : MsgRecord, RecordWork m (m.joinedBy ⟨p, h⟩) := fun m => by
    unfold MsgRecord.joinedBy
    split
    · exact .same rfl rfl rfl
    · exact .refl m
  cases again with
  | false => exact hseat
  | true => exact hseat.trans (orderly_of_work (Work.foldl (fun s r => modMsg_work s r _ (hkept _)) _ _)
      (Form.foldl (fun s r => modMsg_form s r (MsgRecord.joinedBy ⟨p, h⟩)) _ _))

theorem attachBody_orderly (p : Port) (name : Word) (role : Byte) (code : AccessCode) (options : Byte) (s : State) :
    Orderly s (attachBody p name role code options s).state := by
  unfold attachBody
  dsimp only
  split
  · exact .refl s
  · split
    · exact .refl s
    · split
      · exact .refl s
      · split
        · exact .refl s
        · split
          · exact .refl s
          · split
            · exact .refl s
            · split
              · exact countBadCode_orderly s p
              · split
                · exact .refl s
                · exact joinChannel_orderly s p _ _ _ _

/-- A change of a channel that keeps its parameters and its state. -/
theorem modChan_orderly_same (s : State) (c : ChanId) (f : Channel → Channel)
    (hp : (f (s.chan c)).params = (s.chan c).params) (hs : (f (s.chan c)).state = (s.chan c).state) :
    Orderly s (s.modChan c f) := orderly_of_work (modChan_work_same s c f hp hs) (modChan_form s c f)

theorem startPurge_work (s : State) (c : ChanId) (a : AttRef) (h : (s.chan c).state ≠ .free) : Work s (startPurge s c a) :=
  joinWork_work ((doomList_work s c).trans
    (modChan_work _ c (fun ch => { ch with state := .purging, purger := some a }) (Or.inl ⟨rfl, by simp [doomList_chan, h]⟩))) _

theorem purgeBody_orderly (p : Port) (handle : Byte) (s : State) : Orderly s (purgeBody p handle s).state := by
  refine withHandle_orderly (fun j u _ => ?_)
  dsimp only
  split
  · exact .refl s
  · next ho =>
    split
    · exact .refl s
    · exact orderly_of_work (startPurge_work s _ _ (by rw [not_not.mp ho]; decide)) (startPurge_form s _ _)

/-- A new record has its lifetime in its range and no counts (R57). -/
theorem buildRecord_orderly (s : State) (p : Port) (c : ChanId) (g : PostArgs) (r : RecId) :
    Orderly s (buildRecord s p c g r) := by
  let chain := s.freeCells.take (cellsFor g.payload.length)
  let u : State := { s with cells := writeCells s.cells g.payload chain 0 }
  have hcells : Orderly s u := ⟨⟨fun h => ⟨h.1, h.2.1, buildRecord_wf s p c g r h.2.2⟩, id, id, id⟩, le_rfl⟩
  have hport : Orderly u (u.modPort p (fun q =>
      { q with serial := q.serial + 1, charge := q.charge + chain.length,
               reservations := q.reservations + bitValue g.receipt 1 })) :=
    modPort_orderly u p _ (fun h => h) (fun h => h)
  have hlife : (newRecord s p c g chain).ranged := by
    intro v hv
    have hlt := g.lifetime.isLt
    simp only [newRecord, Option.mem_def] at hv
    split at hv
    · cases hv
    · next h0 =>
      cases hv
      have : g.lifetime.toNat ≠ 0 := fun e => h0 (BitVec.eq_of_toNat_eq e)
      omega
  have hmsg : ∀ v : State, Orderly v (v.modMsg r (fun _ => newRecord s p c g chain)) := fun v =>
    modMsg_orderly v r _ (fun _ => hlife) (fun _ => ⟨Nat.zero_le _, Nat.zero_le _⟩)
  exact (hcells.trans hport).trans ((hmsg _).trans
    (modChan_orderly_same _ c (fun ch => { ch with list := ch.list ++ [r] }) rfl rfl))

theorem acceptPost_orderly (s : State) (p : Port) (c : ChanId) (g : PostArgs) (r : RecId) :
    Orderly s (acceptPost s p c g r) :=
  (buildRecord_orderly s p c g r).trans (orderly_of_work (acceptPost_work s p c g r)
    ((((((countFiltered_form _ c _).trans (bump_form _ c _)).trans (watchCompare_form _ c _ _)).trans
      (bindAtPost_form _ c r)).trans (arrivalsAtPost_form _ c r)).trans (dropIfNoTaker_form _ c r)))

theorem postBody_orderly (p : Port) (handle : Byte) (tag : Word) (flags : Byte) (lifetime : Word) (payload : List Byte)
    (s : State) : Orderly s (postBody p handle tag flags lifetime payload s).state := by
  refine withHandle_orderly (fun j u _ => ?_)
  have hrefuse : ∀ x, Orderly s (refusePost s ⟨p, j⟩ u.channel x).state := fun x =>
    orderly_of_work (refusePost_work s _ _ x) (refusePost_form s _ _ x)
  have hshed : ∀ old, Orderly s (shedRecord s u.channel old) := fun old =>
    orderly_of_work (shedRecord_work s _ old) (shedRecord_form s _ old)
  dsimp only
  split
  · exact .refl s
  · split
    · exact .refl s
    · split
      · exact .refl s
      · split
        · exact hrefuse _
        · split
          · exact hrefuse _
          · cases s.nextRecord with
            | none => exact .refl s
            | some r =>
              dsimp only
              exact acceptPost_orderly s p u.channel _ r
          · next old _ =>
            refine (hshed old).trans ?_
            generalize shedRecord s u.channel old = v
            cases v.nextRecord with
            | none => exact .refl v
            | some r =>
              dsimp only
              exact acceptPost_orderly v p u.channel _ r

theorem takeBody_orderly (p : Port) (handle : Byte) (wait : Word) (s : State) : Orderly s (takeBody p handle wait s).state := by
  refine withHandle_orderly (fun j u _ => ?_)
  split
  · exact .refl s
  · split
    · exact .refl s
    · split
      · exact .refl s
      · exact orderly_of_work (selectTake_work s _ _ _ _ _) (selectTake_form s _ _ _ _ _)

theorem readHandBody_orderly (p : Port) (slot : Byte) (s : State) : Orderly s (readHandBody p slot s).state := by
  unfold readHandBody
  split <;> exact .refl s

theorem releaseBody_orderly (p : Port) (slot source : Byte) (serial : Word) (s : State) :
    Orderly s (releaseBody p slot source serial s).state := by
  unfold releaseBody
  split
  · exact .refl s
  · split
    · exact orderly_of_work ((setSlot_work s p _ .empty).trans (releaseRecord_work _ _ _))
        ((setSlot_form s p _ .empty).trans (releaseRecord_form _ _ _))
    · exact .refl s

theorem giveBackBody_orderly (p : Port) (slot source : Byte) (serial : Word) (s : State) :
    Orderly s (giveBackBody p slot source serial s).state := by
  unfold giveBackBody
  split
  · exact .refl s
  · split
    · exact orderly_of_work (giveBackHeld_work p _ s) (giveBackHeld_form s p _)
    · exact .refl s

theorem cancelWaitBody_orderly (p : Port) (s : State) : Orderly s (cancelWaitBody p s).state := by
  unfold cancelWaitBody
  split
  · exact .refl s
  · exact orderly_of_work (dropParked_work s _ p _) (dropParked_form s _ p _)

/-- The settings of SET_NOTIFY are in their ranges (R170, R174). -/
theorem setNotifyBody_orderly (p : Port) (handle threshold : Byte) (wait : Word) (stats : Byte) (s : State) :
    Orderly s (setNotifyBody p handle threshold wait stats s).state := by
  refine withHandle_orderly (fun j u hu => ?_)
  split
  · exact .refl s
  · split
    · exact .refl s
    · next h32 =>
      split
      · exact .refl s
      · next hrole =>
        refine orderly_of_work (setAtt_work s _ _) (setAtt_form s _ _ (fun hr v hv => ?_))
        cases hv
        refine ⟨Nat.le_of_not_lt h32, (hr j u hu).2.1, Or.inr rfl, fun h => by simp [Attachment.withNotify] at h, fun h => ?_⟩
        have h0 : threshold = 0 := by
          by_contra hne
          exact hrole ⟨h, Or.inl hne⟩
        simp [Attachment.withNotify, h0]

theorem setFilterBody_orderly (p : Port) (handle mode : Byte) (content : List Word) (s : State) :
    Orderly s (setFilterBody p handle mode content s).state := by
  refine withHandle_orderly (fun j u hu => ?_)
  split
  · exact .refl s
  · split
    · exact .refl s
    · refine orderly_of_work (setAtt_work s _ _) (setAtt_form s _ _ (fun hr v hv => ?_))
      cases hv
      exact hr j u hu

theorem watchBody_orderly (p : Port) (handle : Byte) (tag mask : Word) (rearm : Byte) (s : State) :
    Orderly s (watchBody p handle tag mask rearm s).state := by
  refine withHandle_orderly (fun j u _ => ?_)
  split
  · exact .refl s
  · dsimp only
    split
    · exact .refl s
    · split
      · exact .refl s
      · dsimp only
        exact modChan_orderly_same s _ _ rfl rfl

theorem unwatchBody_orderly (p : Port) (handle : Byte) (s : State) : Orderly s (unwatchBody p handle s).state := by
  refine withHandle_orderly (fun j u _ => ?_)
  split
  · dsimp only
    exact modChan_orderly_same s _ _ rfl rfl
  · exact .refl s

theorem holdBody_orderly (p : Port) (handle : Byte) (s : State) : Orderly s (holdBody p handle s).state := by
  refine withHandle_orderly (fun j u _ => ?_)
  dsimp only
  split
  · exact .refl s
  · split
    · exact .refl s
    · exact orderly_of_work ((setHeld_work s _).trans (announce_work _ _ _ (by decide)))
        ((setHeld_form s _).trans (announce_form _ _ _))

theorem resumeBody_orderly (p : Port) (handle : Byte) (s : State) : Orderly s (resumeBody p handle s).state := by
  refine withHandle_orderly (fun j u _ => ?_)
  split
  · exact orderly_of_work (resumeChannel_work s _) (resumeChannel_form s _)
  · exact .refl s

theorem peekBody_orderly (p : Port) (handle index : Byte) (s : State) : Orderly s (peekBody p handle index s).state := by
  refine withHandle_orderly (fun j u _ => ?_)
  dsimp only
  repeat' split
  all_goals exact .refl s

theorem readStatsBody_orderly (p : Port) (handle clear : Byte) (s : State) :
    Orderly s (readStatsBody p handle clear s).state := by
  refine withHandle_orderly (fun j u _ => ?_)
  split
  · exact .refl s
  · dsimp only
    split
    · exact modChan_orderly_same s _ _ rfl rfl
    · exact .refl s

theorem readEventsBody_orderly (p : Port) (most : Byte) (s : State) : Orderly s (readEventsBody p most s).state := by
  unfold readEventsBody
  dsimp only
  split <;> exact .refl s

theorem readReceiptsBody_orderly (p : Port) (most : Byte) (s : State) : Orderly s (readReceiptsBody p most s).state := by
  unfold readReceiptsBody
  dsimp only
  split <;> exact .refl s

theorem dropEventsBody_orderly (p : Port) (number : Byte) (s : State) : Orderly s (dropEventsBody p number s).state := by
  unfold dropEventsBody
  dsimp only
  split
  · exact .refl s
  · split
    · exact .refl s
    · dsimp only
      exact modPort_orderly s p _ (fun h => h) (fun h => h)

theorem dropReceiptsBody_orderly (p : Port) (number : Byte) (s : State) :
    Orderly s (dropReceiptsBody p number s).state := by
  unfold dropReceiptsBody
  dsimp only
  split
  · exact .refl s
  · split
    · exact .refl s
    · dsimp only
      exact modPort_orderly s p _ (fun h => h) (fun h => h)

end Sys2Proof.Machine
end

section
/-! SUPPORT. The form of the state (O53): device reset, time and every step. -/

namespace Sys2Proof.Machine

/-! ## Device reset -/

/-- The state after device reset has the form of every state, whatever the state before it. -/
theorem orderly_resetPart (s : State) : Orderly s (resetPart s) where
  canonical _ := ⟨Table.wf_nil _ _, Table.wf_nil _ _, Table.wf_nil _ _⟩
  fields _ := by
    obtain ⟨hphase, -, hports, hatts, hchans, hmsgs⟩ := ranged_reset
    exact ⟨hphase, hports, hatts, hchans, hmsgs⟩
  names _ := namesDiffer_reset
  counts _ r := by
    rw [show (resetPart s).msg r = MsgRecord.free from msg_reset r]
    exact ⟨Nat.zero_le _, Nat.zero_le _⟩
  gap := Nat.zero_le _

theorem deviceReset_orderly {cause : ResetCause} {s t : State} (ht : exec (.deviceReset cause) s = .next t) :
    Orderly s t := by
  cases cause with
  | powerOn => cases ht; exact orderly_resetPart s
  | lowPulse => cases ht; exact orderly_resetPart s
  | shortPulse =>
    rw [exec_deviceReset_shortPulse] at ht
    cases ht
    split
    · exact (draws_orderly s _).trans (orderly_resetPart _)
    · exact draws_orderly s _

/-! ## Time -/

theorem lowerTimer_le {n b : Nat} {t : Option Nat} (h : ∀ v ∈ t, v ≤ b) : ∀ v ∈ lowerTimer n t, v ≤ b := by
  intro v hv
  obtain ⟨w, hw, rfl⟩ := Option.mem_map.mp hv
  exact (Nat.sub_le _ _).trans (h w hw)

theorem advancePort_ranged {n k : Nat} {q : PortState} (h : q.ranged) : (advancePort n k q).ranged := by
  obtain ⟨hepoch, hbad, hpen, hwait⟩ := h
  refine ⟨hepoch, hbad, lowerTimer_le hpen, fun w hw => ?_⟩
  obtain ⟨v, hv, rfl⟩ := Option.mem_map.mp hw
  exact (Nat.sub_le _ _).trans (hwait v hv)

theorem advancePort_attsRanged {n k : Nat} {q : PortState} (h : q.attsRanged) : (advancePort n k q).attsRanged := by
  intro j u hu
  simp only [advancePort, Fin.getElem_fin, Vector.getElem_map, Option.mem_map] at hu
  obtain ⟨v, hv, rfl⟩ := hu
  obtain ⟨hthreshold, hlag, harr, htimer, hrole⟩ := h j v hv
  exact ⟨hthreshold, hlag, harr, fun h => htimer (by simpa [lowerTimer] using h), hrole⟩

/-- A lifetime is not left at 0 (R65). -/
theorem lowerLifetime_ranged {k : Nat} {m : MsgRecord} (h : m.ranged) : (lowerLifetime k m).ranged := by
  unfold lowerLifetime
  split
  · exact h
  · next v hv =>
    have hr := h v hv
    split
    · intro w hw; cases hw; omega
    · intro w hw; cases hw; omega

/-- A record whose lifetime runs is not FREE. -/
theorem lowered_ne_free {s : State} {k : Nat} {m : MsgRecord} (h : m ≠ MsgRecord.free) :
    (if s.lifetimeRunning m then lowerLifetime k m else m) ≠ MsgRecord.free := by
  split
  · next hr =>
    intro e
    have hstate : m.state = .free := by rw [← state_lowerLifetime k m, e]; rfl
    simp [State.lifetimeRunning, hstate] at hr
  · exact h

/-- Ticks keep the form of the state. -/
theorem advance_keepsForm (n : Nat) (s : State) : Keeps s (advance n s) where
  canonical h := by
    refine ⟨h.1, ?_, h.2.2⟩
    rw [records_advance, State.lowerRecords]
    split
    · exact h.2.1
    · exact Table.wf_mapAll h.2.1 _ (fun _ => lowered_ne_free)
  fields := by
    rintro ⟨-, hports, hatts, hchans, hmsgs⟩
    refine ⟨tickPhase_advance_lt n s, fun p => ?_, fun p => ?_, hchans, fun r => ?_⟩
    · rw [port_advance]; exact advancePort_ranged (hports p)
    · rw [port_advance]; exact advancePort_attsRanged (hatts p)
    · rw [msg_advance]
      split_ifs
      · exact hmsgs r
      · exact lowerLifetime_ranged (hmsgs r)
      · exact hmsgs r
  names := id
  counts h r := by
    have hcount : ∀ (k : Nat) (m : MsgRecord), (lowerLifetime k m).redelivery = m.redelivery ∧
        (lowerLifetime k m).taken = m.taken := fun k m => by
      unfold lowerLifetime
      split
      · exact ⟨rfl, rfl⟩
      · split <;> exact ⟨rfl, rfl⟩
    rw [msg_advance]
    split_ifs
    · exact h r
    · rw [(hcount _ _).1, (hcount _ _).2]; exact h r
    · exact h r

theorem engineStep_orderly (s : State) : Orderly s (engineStep s) := orderly_of_work (engineStep_work s) (engineStep_form s)

theorem expire_orderly (s : State) (x : Expiry) : Orderly s (expire s x) := by
  by_cases hx : ∀ p, x ≠ .penalty p
  · exact orderly_of_work (expire_work s x hx) (expire_form s x)
  · push Not at hx
    obtain ⟨p, rfl⟩ := hx
    exact modPort_orderly s p (fun q => { q with penalty := none }) (fun h => ⟨h.1, h.2.1, by simp, h.2.2.2⟩)
      (fun h => h)

theorem comeTo_keepsForm (s : State) (x : Expiry) : Keeps s (comeTo s x) :=
  comeTo_keeps (P := Keeps s) (fun u h => h.trans (engineStep_orderly u).toKeeps)
    (fun u y h _ => h.trans (expire_orderly u y).toKeeps) (fun k u h => h.trans (advance_keepsForm k u)) s x (.refl s)

theorem reach_keepsForm (n : Nat) (s : State) : Keeps s (reach n s) :=
  reach_keeps (P := Keeps s) (fun u h => h.trans (engineStep_orderly u).toKeeps)
    (fun u y h _ => h.trans (expire_orderly u y).toKeeps) (fun k u h => h.trans (advance_keepsForm k u)) n s (.refl s)

/-! ### The engine's gap (log 26) -/

/-- The steps that the engine takes bring its last step nearer to the boundary, or leave it idle. -/
theorem engineGap_runEngine (n : Nat) (s : State) :
    (runEngine n s).engineGap ≤ s.engineGap - n ∨ (runEngine n s).reclaim = [] := by
  induction n generalizing s with
  | zero => exact Or.inl le_rfl
  | succ n ih =>
    by_cases hr : s.reclaim = []
    · rw [runEngine_of_idle hr]; exact Or.inr hr
    · have hstep : (engineStep s).engineGap = s.engineGap - 1 := (engineStep_cases hr).2.2.1
      rw [runEngine, if_neg (by simpa using hr)]
      refine (ih (engineStep s)).imp_left (fun h => ?_)
      omega

/-- Taking what is due leaves the engine and its gap. -/
theorem engine_takeDue (s : State) : (takeDue s).engineGap = s.engineGap ∧ (takeDue s).reclaim = s.reclaim :=
  takeDue_keeps (P := fun t => t.engineGap = s.engineGap ∧ t.reclaim = s.reclaim)
    (fun _ _ h hx => ⟨(expire_stops hx).engineGap.trans h.1, (expire_stops hx).reclaim.trans h.2⟩) s ⟨rfl, rfl⟩

/-- Before a boundary an engine has taken the steps that it owes, or it is idle. -/
theorem engineGap_settle (s : State) : (settle s).engineGap ≤ 1 ∨ (settle s).reclaim = [] := by
  obtain ⟨hgap, hreclaim⟩ := engine_takeDue (runEngine s.stepsOwed (takeDue s))
  rw [settle, hgap, hreclaim]
  refine (engineGap_runEngine s.stepsOwed (takeDue s)).imp_left (fun h => ?_)
  rw [(engine_takeDue s).1] at h
  simp only [State.stepsOwed] at h ⊢
  omega

theorem engineGap_advance_le {s : State} {k : Nat} (hk : 1 ≤ k) (h : s.reclaim = [] ∨ s.engineGap ≤ 1 ∧ k = 1) :
    (advance k s).engineGap ≤ 51 := by
  rw [engineGap_advance, if_neg (by omega)]
  rcases h with h | ⟨h, rfl⟩
  · simp [h]
  · split
    · omega
    · simp only [Config.stepsPerTick]; omega

theorem engineGap_reach {s : State} (h : s.engineGap ≤ 51) (n : Nat) : (reach n s).engineGap ≤ 51 := by
  have key : ∀ fuel n s, s.engineGap ≤ 51 → (passTicks fuel n s).engineGap ≤ 51 := by
    intro fuel
    induction fuel with
    | zero => exact fun _ _ h => h
    | succ fuel ih =>
      intro n s h
      unfold passTicks
      split
      · exact h
      · dsimp only
        refine ih _ _ ?_
        split
        · next hr => exact engineGap_advance_le (nextDue_spec _ _).1 (Or.inl (by simpa using hr))
        · next hr =>
          exact engineGap_advance_le le_rfl (Or.inr ⟨(engineGap_settle s).resolve_right (by simpa using hr), rfl⟩)
  exact key _ _ _ h

theorem engineGap_comeTo {s : State} (h : s.engineGap ≤ 51) (x : Expiry) : (comeTo s x).engineGap ≤ 51 := by
  unfold comeTo
  split
  · exact h
  · unfold takeIfDue
    split
    · exact (expire_orderly _ x).gap.trans (engineGap_reach h _)
    · exact engineGap_reach h _

/-! ## Every step -/

/-- What a step keeps: the form of the state, and the range of the engine's gap. -/
structure Formed (s t : State) : Prop extends Keeps s t where
  gap : s.engineGap ≤ 51 → t.engineGap ≤ 51

theorem Orderly.formed {s t : State} (h : Orderly s t) : Formed s t := ⟨h.toKeeps, h.gap.trans⟩

theorem Formed.trans {s t u : State} (h : Formed s t) (g : Formed t u) : Formed s u :=
  ⟨h.toKeeps.trans g.toKeeps, g.gap ∘ h.gap⟩

theorem comeTo_formed {s t : State} {x : Expiry} (ht : (.next (comeTo s x) : Answer) = .next t) : Formed s t := by
  cases ht
  exact ⟨comeTo_keepsForm s x, fun h => engineGap_comeTo h x⟩

theorem exec_formed (i : Instr) (s t : State) (ht : exec i s = .next t) : Formed s t := by
  cases i with
  | deviceReset cause => exact (deviceReset_orderly ht).formed
  | frameError l bytes =>
    refine Orderly.formed ?_
    change execFrameError l bytes s = _ at ht
    unfold execFrameError at ht
    split at ht
    · cases ht; exact received_orderly s l
    · split at ht
      · split at ht
        · exact overFrame_orderly (fun u => respond_orderly u _ _ _ _ _) ht
        · cases ht; exact .refl s
      · cases ht; exact .refl s
  | collect l after =>
    refine (overFrame_orderly (fun u => modPort_orderly u l.port _ (fun h => ?_) (fun h => ?_)) ht).formed
    · split <;> exact h
    · split <;> exact h
  | hello l seq lease options =>
    change execHello l seq lease options s = _ at ht
    exact (runCommand_orderly (helloBody_orderly _ _ _) ht).formed
  | status l seq =>
    change execStatus l seq s = _ at ht
    exact (runCommand_orderly (fun u => .refl u) ht).formed
  | create l seq name kind depth mark policy code role =>
    change execCreate l seq name kind depth mark policy code role s = _ at ht
    exact (runCommand_orderly (createBody_orderly _ _ _ _ _ _ _ _) ht).formed
  | attach l seq name role code options =>
    change execAttach l seq name role code options s = _ at ht
    exact (runCommand_orderly (attachBody_orderly _ _ _ _ _) ht).formed
  | detach l seq handle =>
    change execDetach l seq handle s = _ at ht
    exact (runCommand_orderly (fun u => withHandle_orderly (fun j _ _ =>
      orderly_of_work (detach_work u ⟨l.port, j⟩) (detach_form u ⟨l.port, j⟩))) ht).formed
  | purge l seq handle =>
    change execPurge l seq handle s = _ at ht
    exact (runCommand_orderly (purgeBody_orderly _ _) ht).formed
  | channelInfo l seq handle =>
    change execChannelInfo l seq handle s = _ at ht
    exact (runCommand_orderly (fun u => withHandle_orderly (fun _ _ _ => .refl u)) ht).formed
  | post l seq handle tag flags lifetime payload =>
    change execPost l seq handle tag flags lifetime payload s = _ at ht
    exact (runCommand_orderly (postBody_orderly _ _ _ _ _ _) ht).formed
  | take l seq handle wait =>
    change execTake l seq handle wait s = _ at ht
    exact (runCommand_orderly (takeBody_orderly _ _ _) ht).formed
  | readHand l seq slot =>
    change execReadHand l seq slot s = _ at ht
    exact (runCommand_orderly (readHandBody_orderly _ _) ht).formed
  | release l seq slot source serial =>
    change execRelease l seq slot source serial s = _ at ht
    exact (runCommand_orderly (releaseBody_orderly _ _ _ _) ht).formed
  | giveBack l seq slot source serial =>
    change execGiveBack l seq slot source serial s = _ at ht
    exact (runCommand_orderly (giveBackBody_orderly _ _ _ _) ht).formed
  | cancelWait l seq =>
    change execCancelWait l seq s = _ at ht
    exact (runCommand_orderly (cancelWaitBody_orderly _) ht).formed
  | setNotify l seq handle threshold wait stats =>
    change execSetNotify l seq handle threshold wait stats s = _ at ht
    exact (runCommand_orderly (setNotifyBody_orderly _ _ _ _ _) ht).formed
  | setFilter l seq handle mode content =>
    change execSetFilter l seq handle mode content s = _ at ht
    exact (runCommand_orderly (setFilterBody_orderly _ _ _ _) ht).formed
  | watch l seq handle tag mask rearm =>
    change execWatch l seq handle tag mask rearm s = _ at ht
    exact (runCommand_orderly (watchBody_orderly _ _ _ _ _) ht).formed
  | unwatch l seq handle =>
    change execUnwatch l seq handle s = _ at ht
    exact (runCommand_orderly (unwatchBody_orderly _ _) ht).formed
  | hold l seq handle =>
    change execHold l seq handle s = _ at ht
    exact (runCommand_orderly (holdBody_orderly _ _) ht).formed
  | resume l seq handle =>
    change execResume l seq handle s = _ at ht
    exact (runCommand_orderly (resumeBody_orderly _ _) ht).formed
  | peek l seq handle index =>
    change execPeek l seq handle index s = _ at ht
    exact (runCommand_orderly (peekBody_orderly _ _ _) ht).formed
  | readStats l seq handle clear =>
    change execReadStats l seq handle clear s = _ at ht
    exact (runCommand_orderly (readStatsBody_orderly _ _ _) ht).formed
  | readEvents l seq most =>
    change execReadEvents l seq most s = _ at ht
    exact (runCommand_orderly (readEventsBody_orderly _ _) ht).formed
  | dropEvents l seq number =>
    change execDropEvents l seq number s = _ at ht
    exact (runCommand_orderly (dropEventsBody_orderly _ _) ht).formed
  | readReceipts l seq most =>
    change execReadReceipts l seq most s = _ at ht
    exact (runCommand_orderly (readReceiptsBody_orderly _ _) ht).formed
  | dropReceipts l seq number =>
    change execDropReceipts l seq number s = _ at ht
    exact (runCommand_orderly (dropReceiptsBody_orderly _ _) ht).formed
  | lifetimeExpiry r => exact comeTo_formed ht
  | waitExpiry p => exact comeTo_formed ht
  | leaseExpiry p i => exact comeTo_formed ht
  | penaltyExpiry p => exact comeTo_formed ht
  | coalescingExpiry p h => exact comeTo_formed ht
  | recordStep =>
    cases ht
    exact (orderly_of_work (recordStep_work s) (recordStep_form s)).formed
  | completionStep =>
    cases ht
    exact (orderly_of_work (completionStep_work s) (completionStep_form s)).formed
  | longTickBoundary =>
    cases ht
    exact ⟨reach_keepsForm _ s, fun h => engineGap_reach h _⟩

/-- A step with no command waiting: an engine that owes steps takes one before the next boundary (log 26). -/
theorem idle_formed {s t : State} (ht : idle s = .next t) : Formed s t := by
  rcases idle_cases s with ⟨x, -, e⟩ | e
  · rw [e] at ht
    cases ht
    exact (expire_orderly s x).formed
  · rw [e] at ht
    cases ht
    by_cases hr : s.reclaim = []
    · rw [idleOnward_of_idle_engine hr]
      exact ⟨advance_keepsForm 1 s, fun _ => engineGap_advance_le le_rfl (Or.inl hr)⟩
    · by_cases ho : s.stepsOwed = 0
      · have hdraw := draws_orderly s (s.draws + 1)
        rcases idleOnward_of_choice hr ho with e | e
        · rw [e]
          rw [State.stepsOwed] at ho
          exact hdraw.formed.trans ⟨advance_keepsForm 1 _, fun _ =>
            engineGap_advance_le le_rfl (Or.inr ⟨by show s.engineGap ≤ 1; omega, rfl⟩)⟩
        · rw [e]
          exact (hdraw.trans (engineStep_orderly _)).formed
      · rw [idleOnward_of_owing hr ho]
        exact (engineStep_orderly s).formed

/-- Settles O53: no time passes in a command but an expiry's or a boundary's, and what passes keeps the form. -/
theorem formOfTheStateIsKept : Obligations.FormOfTheStateIsKept := by
  intro s t ht
  have h : Formed s t := by
    unfold step at ht
    split at ht
    · exact (pending_orderly s _).formed.trans (exec_formed _ _ _ ht)
    · exact idle_formed ht
  refine ⟨h.canonical, fun hr => ?_, h.names, h.counts⟩
  rw [ranged_iff] at hr ⊢
  exact ⟨h.fields hr.1, h.gap hr.2⟩

end Sys2Proof.Machine
end

section
/-! SUPPORT. DETACH (O19): what an operation adds to the cells, charges, counters, receipts and events, and how it adds up. -/

namespace Sys2Proof.Machine

/-! ## What an operation moves

The cells, charges, counters, receipts and events of the part only accumulate within an event: what each operation adds to
them is a `Toll`, and the toll of a sequence of operations is the tolls of its parts, appended. -/

/-- What an operation adds: the chains it frees with the ports that posted them, how often each counter of one channel
rises, and what each port's receipt queue and event queue gain. -/
structure Toll where
  freed : List (List CellId × Port)
  rise : Counter → Nat
  receipts : Port → List Receipt
  events : Port → List Event

/-- Nothing is added. -/
def Toll.zero : Toll := ⟨[], fun _ => 0, fun _ => [], fun _ => []⟩

/-- One toll, then another. -/
def Toll.append (T U : Toll) : Toll :=
  ⟨T.freed ++ U.freed, fun k => T.rise k + U.rise k, fun q => T.receipts q ++ U.receipts q, fun q => T.events q ++ U.events q⟩

/-- Events alone. -/
def Toll.ofEvents (es : Port → List Event) : Toll := ⟨[], fun _ => 0, fun _ => [], es⟩

theorem Toll.ext_of {T U : Toll} (hfreed : T.freed = U.freed) (hrise : ∀ k, T.rise k = U.rise k)
    (hreceipts : ∀ q, T.receipts q = U.receipts q) (hevents : ∀ q, T.events q = U.events q) : T = U := by
  cases T
  cases U
  exact (Toll.mk.injEq ..).mpr ⟨hfreed, funext hrise, funext hreceipts, funext hevents⟩

@[simp] theorem Toll.append_zero (T : Toll) : T.append .zero = T := by simp [Toll.append, Toll.zero]
@[simp] theorem Toll.zero_append (T : Toll) : Toll.zero.append T = T := by simp [Toll.append, Toll.zero]

theorem Toll.append_assoc (T U V : Toll) : (T.append U).append V = T.append (U.append V) := by
  simp [Toll.append, Nat.add_assoc]

/-- From `s` to `t` exactly this toll is added, with channel `c` counting. -/
structure Moves (c : ChanId) (s t : State) (T : Toll) : Prop where
  cells : t.cells = s.cells.filter (fun e => !T.freed.any (fun x => x.1.contains e.1))
  charge : ∀ q, (t.port q).charge = (s.port q).charge - ((T.freed.filter (fun x => x.2 == q)).map (fun x => x.1.length)).sum
  counters : ∀ d k, t.counter d k = s.counter d k + BitVec.ofNat 16 (if d = c then T.rise k else 0)
  receipts : ∀ q, (t.port q).receipts = (s.port q).receipts ++ T.receipts q
  reservations : ∀ q, (t.port q).reservations = (s.port q).reservations - (T.receipts q).length
  events : ∀ q, (t.port q).events = queued (s.port q).events (T.events q)

theorem Moves.congr {c : ChanId} {s t : State} {T U : Toll} (h : Moves c s t T) (e : T = U) : Moves c s t U := e ▸ h

theorem queued_append (q es fs : List Event) : queued q (es ++ fs) = queued (queued q es) fs := List.foldl_append

theorem Moves.trans {c : ChanId} {s t v : State} {T U : Toll} (h : Moves c s t T) (g : Moves c t v U) :
    Moves c s v (T.append U) where
  cells := by
    rw [g.cells, h.cells, List.filter_filter]
    congr 1
    funext e
    simp [Toll.append, List.any_append, Bool.and_comm]
  charge q := by
    rw [g.charge, h.charge]
    simp only [Toll.append, List.filter_append, List.map_append, List.sum_append]
    omega
  counters d k := by
    rw [g.counters, h.counters]
    simp only [Toll.append]
    split <;> simp [BitVec.ofNat_add, BitVec.add_assoc]
  receipts q := by rw [g.receipts, h.receipts]; simp [Toll.append]
  reservations q := by
    rw [g.reservations, h.reservations]
    simp only [Toll.append, List.length_append]
    omega
  events q := by rw [g.events, h.events]; simp [Toll.append, queued_append]

/-- An operation that leaves the cells, the counters and, at every port, the charge, the receipts and the events. -/
theorem moves_of_same (c : ChanId) {s t : State} (hcells : t.cells = s.cells) (hcounters : ∀ d k, t.counter d k = s.counter d k)
    (hports : ∀ q, (t.port q).charge = (s.port q).charge ∧ (t.port q).receipts = (s.port q).receipts ∧
      (t.port q).reservations = (s.port q).reservations ∧ (t.port q).events = (s.port q).events) :
    Moves c s t .zero where
  cells := by simp [hcells, Toll.zero]
  charge q := by simp [hports q, Toll.zero]
  counters d k := by simp [hcounters, Toll.zero]
  receipts q := by simp [hports q, Toll.zero]
  reservations q := by simp [hports q, Toll.zero]
  events q := by simp [hports q, Toll.zero, queued]

theorem Moves.refl (c : ChanId) (s : State) : Moves c s s .zero :=
  moves_of_same c rfl (fun _ _ => rfl) (fun _ => ⟨rfl, rfl, rfl, rfl⟩)

theorem modMsg_moves (c : ChanId) (s : State) (r : RecId) (f : MsgRecord → MsgRecord) : Moves c s (s.modMsg r f) .zero :=
  moves_of_same c rfl (fun _ _ => rfl) (fun _ => ⟨rfl, rfl, rfl, rfl⟩)

theorem modChan_moves (c : ChanId) (s : State) (d : ChanId) (f : Channel → Channel)
    (hf : (f (s.chan d)).stats = (s.chan d).stats) : Moves c s (s.modChan d f) .zero :=
  moves_of_same c rfl (fun e k => by
    by_cases h : e = d
    · subst h; simp [State.counter, hf]
    · simp [State.counter, h]) (fun _ => ⟨rfl, rfl, rfl, rfl⟩)

theorem modPort_moves (c : ChanId) (s : State) (p : Port) (f : PortState → PortState)
    (hf : (f (s.port p)).charge = (s.port p).charge ∧ (f (s.port p)).receipts = (s.port p).receipts ∧
      (f (s.port p)).reservations = (s.port p).reservations ∧ (f (s.port p)).events = (s.port p).events) :
    Moves c s (s.modPort p f) .zero :=
  moves_of_same c rfl (fun _ _ => rfl) (fun q => by
    by_cases h : q = p
    · subst h; simpa using hf
    · simp [h])

theorem setAtt_moves (c : ChanId) (s : State) (a : AttRef) (x : Option Attachment) : Moves c s (s.setAtt a x) .zero :=
  modPort_moves c s a.port _ ⟨rfl, rfl, rfl, rfl⟩

theorem setSlot_moves (c : ChanId) (s : State) (p : Port) (i : Slot) (x : HandSlot) : Moves c s (s.setSlot p i x) .zero :=
  modPort_moves c s p _ ⟨rfl, rfl, rfl, rfl⟩

/-! ### Events -/

theorem queueEvent_moves (c : ChanId) (s : State) (p : Port) (e : Event) :
    Moves c s (queueEvent s p e) (.ofEvents (fun q => if q = p then [e] else [])) where
  cells := by simp [queueEvent, Toll.ofEvents]
  charge q := by by_cases h : q = p <;> simp [queueEvent, Toll.ofEvents, h]
  counters d k := by simp [queueEvent, State.counter, Toll.ofEvents]
  receipts q := by by_cases h : q = p <;> simp [queueEvent, Toll.ofEvents, h]
  reservations q := by by_cases h : q = p <;> simp [queueEvent, Toll.ofEvents, h]
  events q := by by_cases h : q = p <;> simp [queueEvent, Toll.ofEvents, h, queued]

theorem ofEvents_append (es fs : Port → List Event) :
    (Toll.ofEvents es).append (.ofEvents fs) = .ofEvents (fun q => es q ++ fs q) := rfl

theorem ofEvents_nil : Toll.ofEvents (fun _ => []) = .zero := rfl

theorem notifyEach_moves (c : ChanId) (s : State) (refs : List AttRef) (mk : AttRef → Event) :
    Moves c s (notifyEach s refs mk) (.ofEvents (fun q => (refs.filter (fun a => a.port == q)).map mk)) := by
  induction refs generalizing s with
  | nil => exact Moves.refl c s
  | cons a rest ih =>
    have h := (queueEvent_moves c s a.port (mk a)).trans (ih (queueEvent s a.port (mk a)))
    rw [ofEvents_append] at h
    refine h.congr (congrArg Toll.ofEvents (funext fun q => ?_))
    by_cases hq : q = a.port
    · simp [hq]
    · simp [hq, Ne.symm hq]

/-- The attachments of a port, handles rising. -/
theorem filter_port_allRefs (q : Port) : allRefs.filter (fun a => a.port == q) = (List.finRange 8).map (fun h => ⟨q, h⟩) := by
  revert q; decide

/-- What an operation queues for some of the attachments of the part is what each port gains for its own (R13). -/
theorem eventsFor_eq (s : State) (q : Port) (P : AttRef → Bool) (mk : AttRef → Event) (k : Handle → Attachment → Option Event)
    (hk : ∀ h, (s.att ⟨q, h⟩).bind (k h) = if P ⟨q, h⟩ then some (mk ⟨q, h⟩) else none) :
    ((allRefs.filter P).filter (fun a => a.port == q)).map mk = s.eventsFor q k := by
  rw [List.filter_filter]
  simp only [Bool.and_comm _ (P _)]
  rw [← List.filter_filter, filter_port_allRefs, State.eventsFor]
  simp only [hk]
  induction List.finRange 8 with
  | nil => rfl
  | cons h rest ih =>
    by_cases hp : P ⟨q, h⟩ = true
    · simp [hp, ih]
    · simp [hp, ih]

/-! ### Counters -/

@[simp] theorem notifyEach_chan (s : State) (refs : List AttRef) (mk : AttRef → Event) (d : ChanId) :
    (notifyEach s refs mk).chan d = s.chan d := by
  induction refs generalizing s with
  | nil => rfl
  | cons a rest ih => exact (ih _).trans rfl

/-- A raised counter is written in the channel's record. -/
theorem chan_bump (s : State) (c : ChanId) (k : Counter) (d : ChanId) : (bump s c k).chan d =
    if d = c then { s.chan c with stats := (s.chan c).stats.set (counterNumber k) (s.counter c k + 1) } else s.chan d := by
  unfold bump
  dsimp only
  split
  · rw [notifyEach_chan, chan_modChan]; rfl
  · rw [chan_modChan]; rfl

theorem counterNumber_inj {j k : Counter} (h : counterNumber j = counterNumber k) : j = k := by
  revert h
  cases j <;> cases k <;> simp [counterNumber]

theorem counter_bump (s : State) (c : ChanId) (k : Counter) (d : ChanId) (j : Counter) : (bump s c k).counter d j =
    s.counter d j + BitVec.ofNat 16 (if d = c then (if j = k then 1 else 0) else 0) := by
  rw [State.counter, chan_bump]
  by_cases hd : d = c
  · subst hd
    by_cases hj : j = k
    · subst hj; simp [State.counter]
    · have hne : (counterNumber k).val ≠ (counterNumber j).val := fun e => hj (counterNumber_inj (Fin.ext e)).symm
      simp [State.counter, hj, Vector.getElem_set_ne, hne]
  · simp [hd, State.counter]

/-- The events of a raised counter at a port. -/
theorem statsWatchers_events (s : State) (c : ChanId) (k : Counter) (q : Port) :
    ((s.statsWatchers c).filter (fun a => a.port == q)).map (fun a =>
      handleEvent .statsNearWrap (s.chan c).name a.handle (some (counterNumber k).val)) = s.nearWrapEvents c k q := by
  refine eventsFor_eq s q _ _ _ (fun h => ?_)
  cases s.att ⟨q, h⟩ with
  | none => rfl
  | some u => simp [handleEvent]

theorem bump_moves (s : State) (c : ChanId) (k : Counter) :
    Moves c s (bump s c k) ⟨[], fun j => if j = k then 1 else 0, fun _ => [], s.wrapAfter c k 0⟩ := by
  let f : Channel → Channel := fun ch => { ch with stats := ch.stats.set (counterNumber k) (s.counter c k + 1) }
  have hwatch : (s.modChan c f).statsWatchers c = s.statsWatchers c := rfl
  have hwrap : s.counter c k + 1 = Config.nearWrap ↔ s.counter c k + BitVec.ofNat 16 0 = 49151 := by
    simp only [Config.nearWrap]; bv_omega
  have key : ∀ q, ((bump s c k).port q).charge = (s.port q).charge ∧ ((bump s c k).port q).receipts = (s.port q).receipts ∧
      ((bump s c k).port q).reservations = (s.port q).reservations ∧
      ((bump s c k).port q).events = queued (s.port q).events (s.wrapAfter c k 0 q) := by
    intro q
    by_cases hw : s.counter c k + 1 = Config.nearWrap
    · have hb : bump s c k = notifyEach (s.modChan c f) (s.statsWatchers c)
          (fun a => handleEvent .statsNearWrap (s.chan c).name a.handle (some (counterNumber k).val)) := if_pos hw
      have hm := notifyEach_moves c (s.modChan c f) (s.statsWatchers c)
        (fun a => handleEvent .statsNearWrap (s.chan c).name a.handle (some (counterNumber k).val))
      rw [← hb] at hm
      refine ⟨by simpa [Toll.ofEvents] using hm.charge q, by simpa [Toll.ofEvents] using hm.receipts q,
        by simpa [Toll.ofEvents] using hm.reservations q, ?_⟩
      rw [hm.events, State.wrapAfter, if_pos (hwrap.mp hw), ← statsWatchers_events]
      rfl
    · have hb : bump s c k = s.modChan c f := if_neg hw
      rw [hb, State.wrapAfter, if_neg (fun h => hw (hwrap.mpr h))]
      exact ⟨rfl, rfl, rfl, rfl⟩
  exact
    { cells := by simp
      charge := fun q => by simp [key q]
      counters := counter_bump s c k
      receipts := fun q => by simp [key q]
      reservations := fun q => by simp [key q]
      events := fun q => (key q).2.2.2 }

end Sys2Proof.Machine
end

section
/-! SUPPORT. DETACH (O19): the free of a record and the issue of its outcome (R38, R39, R153). -/

namespace Sys2Proof.Machine

/-! ## What an operation leaves of the hands and the attachments -/

/-- From `s` to `t` every attachment, hand slot and parked take is the same. -/
structure SameHands (s t : State) : Prop where
  att : ∀ a, t.att a = s.att a
  slot : ∀ q i, t.slot q i = s.slot q i
  parked : ∀ q, (t.port q).parked = (s.port q).parked

theorem SameHands.refl (s : State) : SameHands s s := ⟨fun _ => rfl, fun _ _ => rfl, fun _ => rfl⟩

theorem SameHands.trans {s t v : State} (h : SameHands s t) (g : SameHands t v) : SameHands s v :=
  ⟨fun a => (g.att a).trans (h.att a), fun q i => (g.slot q i).trans (h.slot q i), fun q => (g.parked q).trans (h.parked q)⟩

theorem SameHands.foldl {α : Type} {f : State → α → State} (h : ∀ s a, SameHands s (f s a)) (l : List α) (s : State) :
    SameHands s (l.foldl f s) := by
  induction l generalizing s with
  | nil => exact .refl s
  | cons a rest ih => exact (h s a).trans (ih (f s a))

theorem sameHands_of_ports {s t : State} (h : t.ports = s.ports) : SameHands s t :=
  ⟨fun a => by simp [State.att, State.port, h], fun q i => by simp [State.slot, State.port, h], fun q => by simp [State.port, h]⟩

theorem modPort_sameHands (s : State) (p : Port) (f : PortState → PortState)
    (hf : (f (s.port p)).attachments = (s.port p).attachments ∧ (f (s.port p)).slots = (s.port p).slots ∧
      (f (s.port p)).parked = (s.port p).parked) : SameHands s (s.modPort p f) := by
  obtain ⟨hatt, hslots, hparked⟩ := hf
  refine ⟨fun a => ?_, fun q i => ?_, fun q => ?_⟩
  · rw [att_modPort, hatt]
    split_ifs with h
    · rw [State.att, h]
    · rfl
  · rw [slot_modPort, hslots]
    split_ifs with h
    · rw [State.slot, h]
    · rfl
  · rw [port_modPort]
    split_ifs with h
    · rw [hparked, h]
    · rfl

theorem modPort_att_of_same (s : State) (p : Port) (f : PortState → PortState)
    (hf : (f (s.port p)).attachments = (s.port p).attachments) (a : AttRef) : (s.modPort p f).att a = s.att a := by
  rw [att_modPort, hf]
  split_ifs with h
  · rw [State.att, h]
  · rfl

theorem modPort_slot_of_same (s : State) (p : Port) (f : PortState → PortState)
    (hf : (f (s.port p)).slots = (s.port p).slots) (q : Port) (i : Slot) : (s.modPort p f).slot q i = s.slot q i := by
  rw [slot_modPort, hf]
  split_ifs with h
  · rw [State.slot, h]
  · rfl

theorem modChan_sameHands (s : State) (c : ChanId) (f : Channel → Channel) : SameHands s (s.modChan c f) :=
  sameHands_of_ports rfl

theorem modMsg_sameHands (s : State) (r : RecId) (f : MsgRecord → MsgRecord) : SameHands s (s.modMsg r f) :=
  sameHands_of_ports rfl

theorem queueEvent_sameHands (s : State) (p : Port) (e : Event) : SameHands s (queueEvent s p e) :=
  modPort_sameHands s p (fun q => { q with events := placeEvent q.events e }) ⟨rfl, rfl, rfl⟩

theorem notifyEach_sameHands (s : State) (refs : List AttRef) (mk : AttRef → Event) : SameHands s (notifyEach s refs mk) :=
  SameHands.foldl (fun s (a : AttRef) => queueEvent_sameHands s a.port (mk a)) refs s

theorem bump_sameHands (s : State) (c : ChanId) (k : Counter) : SameHands s (bump s c k) := by
  unfold bump
  dsimp only
  split
  · exact (modChan_sameHands s c _).trans (notifyEach_sameHands _ _ _)
  · exact modChan_sameHands s c _

/-! ## Issuing an outcome and freeing a record (R38, R39, R153) -/

section
variable (s : State) (c : ChanId) (r : RecId) (o : MsgOutcome) (n : Nat)

theorem queueReceipt_sameHands : SameHands s (queueReceipt s c r o n) := by
  unfold queueReceipt
  dsimp only
  split
  · exact (modPort_sameHands s _ _ ⟨rfl, rfl, rfl⟩).trans (modMsg_sameHands _ r _)
  · exact .refl s

theorem issue_sameHands : SameHands s (issue s c r o n) := by
  unfold issue
  split
  · exact .refl s
  · exact ((modMsg_sameHands s r _).trans (bump_sameHands _ c _)).trans (queueReceipt_sameHands _ c r o n)

theorem returnCells_sameHands (chain : List CellId) (p : Port) : SameHands s (returnCells s chain p) :=
  (modPort_sameHands s p (fun q => { q with charge := q.charge - chain.length }) ⟨rfl, rfl, rfl⟩).trans
    (sameHands_of_ports rfl)

theorem freeRecord_sameHands : SameHands s (freeRecord s c r o n) :=
  ((issue_sameHands s c r o n).trans (modChan_sameHands _ c _)).trans
    ((returnCells_sameHands (leaveList (issue s c r o n) c r) _ _).trans (modMsg_sameHands _ r (fun _ => MsgRecord.free)))

@[simp] theorem chan_queueReceipt (d : ChanId) : (queueReceipt s c r o n).chan d = s.chan d := by
  unfold queueReceipt
  dsimp only
  split <;> rfl

theorem msg_queueReceipt (q : RecId) : (queueReceipt s c r o n).msg q =
    if q = r ∧ (s.msg r).wantsReceipt = true then { s.msg r with wantsReceipt := false } else s.msg q := by
  unfold queueReceipt
  dsimp only
  by_cases hw : (s.msg r).wantsReceipt = true
  · rw [if_pos hw, msg_modMsg]
    simp [hw]
  · rw [if_neg hw, if_neg (fun h => hw h.2)]

/-- The receipt of an outcome joins its source port's queue (R153). -/
theorem queueReceipt_moves : Moves c s (queueReceipt s c r o n)
    ⟨[], fun _ => 0, fun q => if q = (s.msg r).ticket.source then s.receiptOf c o n r else [], fun _ => []⟩ := by
  unfold queueReceipt State.receiptOf
  dsimp only
  by_cases hw : (s.msg r).wantsReceipt = true
  · simp only [if_pos hw]
    refine ⟨rfl.trans (by simp), fun q => ?_, fun d k => ?_, fun q => ?_, fun q => ?_, fun q => ?_⟩
    · by_cases hq : q = (s.msg r).ticket.source <;> simp [hq]
    · simp [State.counter]
    · by_cases hq : q = (s.msg r).ticket.source <;> simp [hq]
    · by_cases hq : q = (s.msg r).ticket.source <;> simp [hq]
    · by_cases hq : q = (s.msg r).ticket.source <;> simp [hq, queued]
  · simp only [if_neg hw, ite_self]
    exact Moves.refl c s

/-- What the issue of an outcome adds: nothing where one has been issued before (R38). -/
def State.issueToll : Toll :=
  if (s.msg r).receipted then .zero
  else ⟨[], fun k => if k = counterOf o then 1 else 0,
    fun q => if q = (s.msg r).ticket.source then s.receiptOf c o n r else [], s.wrapAfter c (counterOf o) 0⟩

theorem issue_moves : Moves c s (issue s c r o n) (s.issueToll c r o n) := by
  unfold issue State.issueToll
  by_cases hr : (s.msg r).receipted = true
  · rw [if_pos hr, if_pos hr]
    exact Moves.refl c s
  · rw [if_neg hr, if_neg hr]
    have h := ((modMsg_moves c s r (fun m => { m with receipted := true })).trans
      (bump_moves _ c (counterOf o))).trans (queueReceipt_moves _ c r o n)
    refine h.congr ?_
    simp only [Toll.append, Toll.zero, Toll.mk.injEq, List.nil_append, Nat.zero_add, List.append_nil, State.receiptOf,
      bump_msg, msg_modMsg_self, chan_bump, chan_modMsg, if_pos trivial, Nat.add_zero, true_and]
    rfl

theorem chan_issue (d : ChanId) : (issue s c r o n).chan d =
    if d = c then { s.chan c with stats := ((issue s c r o n).chan c).stats } else s.chan d := by
  unfold issue
  by_cases hr : (s.msg r).receipted = true
  · simp only [if_pos hr]
    split_ifs with h
    · rw [h]
    · rfl
  · simp only [if_neg hr, chan_queueReceipt, chan_bump]
    rfl

theorem msg_issue (q : RecId) : (issue s c r o n).msg q =
    if q = r then { s.msg r with receipted := ((issue s c r o n).msg r).receipted
                                 wantsReceipt := ((issue s c r o n).msg r).wantsReceipt } else s.msg q := by
  unfold issue
  by_cases hr : (s.msg r).receipted = true
  · simp only [if_pos hr]
    split_ifs with h
    · rw [h]
    · rfl
  · simp only [if_neg hr, msg_queueReceipt, bump_msg]
    by_cases hq : q = r
    · subst hq
      simp only [msg_modMsg_self, true_and, if_true]
      split <;> rfl
    · simp [hq]

theorem port_returnCells (chain : List CellId) (p q : Port) : (returnCells s chain p).port q =
    if q = p then { s.port p with charge := (s.port p).charge - chain.length } else s.port q :=
  port_modPort s p (fun q => { q with charge := q.charge - chain.length }) q

/-- A free of cells moves them and their charge (R36). -/
theorem returnCells_moves (chain : List CellId) (p : Port) : Moves c s (returnCells s chain p)
    ⟨[(chain, p)], fun _ => 0, fun _ => [], fun _ => []⟩ := by
  refine ⟨?_, fun q => ?_, fun d k => ?_, fun q => ?_, fun q => ?_, fun q => ?_⟩
  · simp [returnCells]
  · rw [port_returnCells]
    by_cases hq : q = p
    · simp [hq]
    · simp [hq, Ne.symm hq]
  · simp only [ite_self]
    exact (BitVec.add_zero _).symm
  · by_cases hq : q = p <;> simp [port_returnCells, hq]
  · by_cases hq : q = p <;> simp [port_returnCells, hq]
  · by_cases hq : q = p <;> simp [port_returnCells, hq, queued]

/-- What the free of a record adds (R39): its cells return, and its outcome is issued unless one has been before. -/
def State.freeToll : Toll :=
  (s.issueToll c r o n).append ⟨[((s.msg r).chain, (s.msg r).ticket.source)], fun _ => 0, fun _ => [], fun _ => []⟩

theorem freeRecord_moves : Moves c s (freeRecord s c r o n) (s.freeToll c r o n) := by
  have hmsg : (leaveList (issue s c r o n) c r).msg r = { s.msg r with
      receipted := ((issue s c r o n).msg r).receipted, wantsReceipt := ((issue s c r o n).msg r).wantsReceipt } :=
    (msg_issue s c r o n r).trans (if_pos rfl)
  have h := (((issue_moves s c r o n).trans
    (modChan_moves c _ c (fun ch => { ch with list := ch.list.filter (fun x => x != r) }) rfl)).trans
    (returnCells_moves _ c ((leaveList (issue s c r o n) c r).msg r).chain
      ((leaveList (issue s c r o n) c r).msg r).ticket.source)).trans (modMsg_moves c _ r (fun _ => MsgRecord.free))
  refine h.congr ?_
  rw [Toll.append_zero, Toll.append_zero, hmsg]
  rfl

theorem chan_freeRecord (d : ChanId) : (freeRecord s c r o n).chan d =
    if d = c then { s.chan c with list := (s.chan c).list.filter (fun x => x != r)
                                  stats := ((freeRecord s c r o n).chan c).stats } else s.chan d := by
  have h : ∀ e, (freeRecord s c r o n).chan e = (leaveList (issue s c r o n) c r).chan e := fun _ => rfl
  rw [h, h, leaveList, chan_modChan, chan_modChan_self]
  by_cases hd : d = c
  · rw [if_pos hd, if_pos hd, chan_issue, if_pos rfl]
  · rw [if_neg hd, if_neg hd, chan_issue, if_neg hd]

theorem msg_freeRecord (q : RecId) : (freeRecord s c r o n).msg q = if q = r then MsgRecord.free else s.msg q := by
  have h : (freeRecord s c r o n).msg q =
      if q = r then MsgRecord.free else (leaveList (issue s c r o n) c r).msg q := msg_modMsg _ _ _ _
  rw [h]
  split_ifs with hq
  · rfl
  · exact (msg_issue s c r o n q).trans (if_neg hq)

end

end Sys2Proof.Machine
end

section
/-! SUPPORT. DETACH (O19): arrivals (R171, R173). -/

namespace Sys2Proof.Machine

/-! ## Arrivals (R171, R173) -/

/-- What each port gains for its own attachments, where an attachment may bring none or one event (R13). -/
theorem eventsFor_flatMap (s : State) (q : Port) (P : AttRef → Bool) (g : AttRef → List Event)
    (k : Handle → Attachment → Option Event)
    (hk : ∀ h, ((s.att ⟨q, h⟩).bind (k h)).toList = if P ⟨q, h⟩ then g ⟨q, h⟩ else []) :
    ((allRefs.filter P).filter (fun a => a.port == q)).flatMap g = s.eventsFor q k := by
  rw [List.filter_filter]
  simp only [Bool.and_comm _ (P _)]
  rw [← List.filter_filter, filter_port_allRefs, State.eventsFor]
  induction List.finRange 8 with
  | nil => rfl
  | cons h rest ih =>
    have hh := hk h
    by_cases hp : P ⟨q, h⟩ = true
    · rw [if_pos hp] at hh
      rw [List.map_cons, List.filter_cons_of_pos hp, List.flatMap_cons, ih, ← hh, List.filterMap_cons]
      cases (s.att ⟨q, h⟩).bind (k h) <;> rfl
    · rw [if_neg hp, Option.toList_eq_nil_iff] at hh
      rw [List.map_cons, List.filter_cons_of_neg hp, ih, List.filterMap_cons, hh]

/-- What an arrival queues for an attachment. -/
def State.arrivalOf (s : State) (c : ChanId) (urgent : Bool) (a : AttRef) : List Event :=
  match s.att a with
  | none => []
  | some u => if u.reports urgent then
      [⟨.arrival, (s.chan c).name, some a.handle, none, none, some (u.arrivals + 1)⟩] else []

section
variable (s : State) (c : ChanId) (urgent : Bool) (a : AttRef)

theorem arrive_of_none (h : s.att a = none) : arrive s c urgent a = s := by simp [arrive, h]

/-- The state after one arrival: the attachment has counted it, and reports it at the threshold or for an urgent record. -/
theorem arrive_of_some {u : Attachment} (h : s.att a = some u) : arrive s c urgent a =
    if u.reports urgent then queueEvent (s.modAtt a (fun v => v.afterArrival urgent)) a.port
      (handleEvent .arrival (s.chan c).name a.handle (some (u.arrivals + 1)))
    else if u.threshold = 0 then s else s.modAtt a (fun v => v.afterArrival urgent) := by
  unfold arrive
  rw [h]
  dsimp only
  by_cases h0 : u.threshold = 0
  · simp [h0, Attachment.reports]
  · by_cases hr : u.reports urgent = true
    · have hr' : (urgent || u.arrivals + 1 == u.threshold) = true := by
        simpa [Attachment.reports, h0] using hr
      rw [if_neg h0, if_pos hr', if_pos hr, State.modAtt, State.modAtt, h, Option.map_some, Option.map_some,
        Attachment.afterArrival, if_neg h0, if_pos hr]
    · have hr' : ¬ (urgent || u.arrivals + 1 == u.threshold) = true := by
        simpa [Attachment.reports, h0] using hr
      rw [if_neg h0, if_neg hr', if_neg hr, if_neg h0, State.modAtt, State.modAtt, h, Option.map_some, Option.map_some,
        Attachment.afterArrival, if_neg h0, if_neg hr]
      simp

theorem att_arrive (b : AttRef) : (arrive s c urgent a).att b =
    if b = a then (s.att a).map (fun v => v.afterArrival urgent) else s.att b := by
  cases h : s.att a with
  | none =>
    rw [arrive_of_none s c urgent a h]
    split_ifs with hb
    · rw [hb, h]; rfl
    · rfl
  | some u =>
    rw [arrive_of_some s c urgent a h]
    by_cases hr : u.reports urgent = true
    · rw [if_pos hr, (queueEvent_sameHands _ _ _).att, att_modAtt, h]
    · rw [if_neg hr]
      by_cases h0 : u.threshold = 0
      · rw [if_pos h0, Option.map_some, Attachment.afterArrival, if_pos h0, ← h]
        split_ifs with hb
        · rw [hb]
        · rfl
      · rw [if_neg h0, att_modAtt, h]

theorem arrive_moves : Moves c s (arrive s c urgent a)
    (.ofEvents (fun q => if q = a.port then s.arrivalOf c urgent a else [])) := by
  cases h : s.att a with
  | none =>
    rw [arrive_of_none s c urgent a h]
    simpa [State.arrivalOf, h, ofEvents_nil] using Moves.refl c s
  | some u =>
    rw [arrive_of_some s c urgent a h]
    split_ifs with hr h0
    · refine ((setAtt_moves c s a _).trans (queueEvent_moves c _ a.port _)).congr ?_
      simp [State.arrivalOf, h, hr, handleEvent]
    · simpa [State.arrivalOf, h, hr, ofEvents_nil] using Moves.refl c s
    · simp only [State.arrivalOf, h, if_neg hr, ite_self, ofEvents_nil]
      exact setAtt_moves c s a _

/-- From `s` to `t` every hand slot, parked take, channel and message record is the same. -/
structure SameStores (s t : State) : Prop where
  slot : ∀ q i, t.slot q i = s.slot q i
  parked : ∀ q, (t.port q).parked = (s.port q).parked
  chan : ∀ d, t.chan d = s.chan d
  msg : ∀ r, t.msg r = s.msg r

theorem SameStores.refl : SameStores s s := ⟨fun _ _ => rfl, fun _ => rfl, fun _ => rfl, fun _ => rfl⟩

theorem SameStores.trans {s t v : State} (h : SameStores s t) (g : SameStores t v) : SameStores s v :=
  ⟨fun q i => (g.slot q i).trans (h.slot q i), fun q => (g.parked q).trans (h.parked q),
   fun d => (g.chan d).trans (h.chan d), fun r => (g.msg r).trans (h.msg r)⟩

theorem modPort_sameStores (p : Port) (f : PortState → PortState)
    (hf : (f (s.port p)).slots = (s.port p).slots ∧ (f (s.port p)).parked = (s.port p).parked) :
    SameStores s (s.modPort p f) := by
  refine ⟨fun q i => ?_, fun q => ?_, fun _ => rfl, fun _ => rfl⟩
  · rw [slot_modPort, hf.1]
    split_ifs with h
    · rw [State.slot, h]
    · rfl
  · rw [port_modPort]
    split_ifs with h
    · rw [hf.2, h]
    · rfl

theorem setAtt_sameStores (x : Option Attachment) : SameStores s (s.setAtt a x) :=
  modPort_sameStores s a.port (fun q => { q with attachments := q.attachments.set a.handle x }) ⟨rfl, rfl⟩

theorem queueEvent_sameStores (p : Port) (e : Event) : SameStores s (queueEvent s p e) :=
  modPort_sameStores s p (fun q => { q with events := placeEvent q.events e }) ⟨rfl, rfl⟩

theorem arrive_sameStores : SameStores s (arrive s c urgent a) := by
  cases h : s.att a with
  | none =>
    rw [arrive_of_none s c urgent a h]
    exact .refl s
  | some u =>
    rw [arrive_of_some s c urgent a h]
    split_ifs
    · exact (setAtt_sameStores s a _).trans (queueEvent_sameStores _ _ _)
    · exact .refl s
    · exact setAtt_sameStores s a _

theorem arriveAll_sameStores (refs : List AttRef) : SameStores s (arriveAll s c urgent refs) := by
  induction refs generalizing s with
  | nil => exact .refl s
  | cons a rest ih => exact (arrive_sameStores s c urgent a).trans (ih _)

theorem att_arriveAll {refs : List AttRef} (hn : refs.Nodup) (b : AttRef) : (arriveAll s c urgent refs).att b =
    if b ∈ refs then (s.att b).map (fun v => v.afterArrival urgent) else s.att b := by
  induction refs generalizing s with
  | nil => rfl
  | cons a rest ih =>
    obtain ⟨hna, hnr⟩ := List.nodup_cons.mp hn
    have hih := ih (arrive s c urgent a) hnr
    rw [att_arrive] at hih
    rw [show arriveAll s c urgent (a :: rest) = arriveAll (arrive s c urgent a) c urgent rest from rfl, hih]
    by_cases hb : b = a
    · subst hb; simp [hna]
    · simp [hb]

theorem arriveAll_moves {refs : List AttRef} (hn : refs.Nodup) : Moves c s (arriveAll s c urgent refs)
    (.ofEvents (fun q => (refs.filter (fun a => a.port == q)).flatMap (s.arrivalOf c urgent))) := by
  induction refs generalizing s with
  | nil => exact Moves.refl c s
  | cons a rest ih =>
    obtain ⟨hna, hnr⟩ := List.nodup_cons.mp hn
    have hsame : ∀ b ∈ rest, (arrive s c urgent a).arrivalOf c urgent b = s.arrivalOf c urgent b := by
      intro b hb
      have hne : b ≠ a := fun e => hna (e ▸ hb)
      simp only [State.arrivalOf, att_arrive, if_neg hne, (arrive_sameStores s c urgent a).chan]
    refine ((arrive_moves s c urgent a).trans (ih (arrive s c urgent a) hnr)).congr ?_
    rw [ofEvents_append]
    refine congrArg Toll.ofEvents (funext fun q => ?_)
    have hrest : (rest.filter (fun a => a.port == q)).flatMap ((arrive s c urgent a).arrivalOf c urgent) =
        (rest.filter (fun a => a.port == q)).flatMap (s.arrivalOf c urgent) :=
      List.flatMap_congr (fun b hb => hsame b (List.mem_filter.mp hb).1)
    rw [hrest]
    by_cases hq : q = a.port
    · simp [hq]
    · simp [hq, Ne.symm hq]

end

theorem nodup_allRefs : allRefs.Nodup := by decide

theorem nodup_withRole (s : State) (c : ChanId) (x : Role) : (s.withRole c x).Nodup := nodup_allRefs.filter _

theorem mem_withRole_iff (s : State) (c : ChanId) (x : Role) (a : AttRef) :
    a ∈ s.withRole c x ↔ ∃ u, s.att a = some u ∧ u.channel = c ∧ u.role = x := by
  unfold State.withRole
  rw [List.mem_filter]
  cases s.att a <;> simp [mem_allRefs]

/-- The ARRIVAL events of an arrival that comes to the consumers of a channel. -/
theorem withRole_arrivals (s : State) (c : ChanId) (urgent : Bool) (q : Port) :
    ((s.withRole c .consumer).filter (fun a => a.port == q)).flatMap (s.arrivalOf c urgent) =
      s.arrivalAfter c [] urgent q := by
  refine eventsFor_flatMap s q _ _ _ (fun h => ?_)
  unfold State.arrivalOf
  cases s.att ⟨q, h⟩ with
  | none => rfl
  | some u =>
    cases hi : (u.channel == c && u.role == .consumer)
    · simp only [Option.bind_some, Attachment.isIn, hi, Bool.false_and, Bool.false_eq_true, if_false, Option.toList_none]
    · simp only [Option.bind_some, Attachment.isIn, hi, Bool.true_and, if_true, Attachment.afterArrivals, List.foldl_nil]
      split <;> rfl

end Sys2Proof.Machine
end

section
/-! SUPPORT. DETACH (O19): binds and the hand-back of a POINT record (R84, R85, R87, R99). -/

namespace Sys2Proof.Machine

/-- From `s` to `t` the record `r` has become `m` and the channel `c`, but for its counters, `ch`; no other record and no
other channel has changed. -/
structure Writes (c : ChanId) (r : RecId) (s t : State) (ch : Channel) (m : MsgRecord) : Prop where
  chan : ∀ d, t.chan d = if d = c then { ch with stats := (t.chan c).stats } else s.chan d
  msg : ∀ q, t.msg q = if q = r then m else s.msg q

theorem Writes.chan_self {c : ChanId} {r : RecId} {s t : State} {ch : Channel} {m : MsgRecord} (h : Writes c r s t ch m) :
    t.chan c = { ch with stats := (t.chan c).stats } := (h.chan c).trans (if_pos rfl)

theorem Writes.msg_self {c : ChanId} {r : RecId} {s t : State} {ch : Channel} {m : MsgRecord} (h : Writes c r s t ch m) :
    t.msg r = m := (h.msg r).trans (if_pos rfl)

theorem Writes.trans {c : ChanId} {r : RecId} {s t v : State} {ch ch' : Channel} {m m' : MsgRecord}
    (h : Writes c r s t ch m) (g : Writes c r t v ch' m') : Writes c r s v ch' m' := by
  refine ⟨fun d => ?_, fun q => ?_⟩
  · rw [g.chan, h.chan]
    by_cases hd : d = c
    · rw [if_pos hd, if_pos hd]
    · rw [if_neg hd, if_neg hd, if_neg hd]
  · rw [g.msg, h.msg]
    by_cases hq : q = r
    · rw [if_pos hq, if_pos hq]
    · rw [if_neg hq, if_neg hq, if_neg hq]

/-- What follows a write and changes no channel and no record. -/
theorem Writes.then_same {c : ChanId} {r : RecId} {s t v : State} {ch : Channel} {m : MsgRecord} (h : Writes c r s t ch m)
    (hchan : ∀ d, v.chan d = t.chan d) (hmsg : ∀ q, v.msg q = t.msg q) : Writes c r s v ch m :=
  ⟨fun d => by rw [hchan, hchan, h.chan], fun q => by rw [hmsg, h.msg]⟩

/-- What precedes a write and changes no channel and no record. -/
theorem Writes.after_same {c : ChanId} {r : RecId} {s t v : State} {ch : Channel} {m : MsgRecord} (h : Writes c r t v ch m)
    (hchan : ∀ d, t.chan d = s.chan d) (hmsg : ∀ q, t.msg q = s.msg q) : Writes c r s v ch m :=
  ⟨fun d => by rw [h.chan, hchan], fun q => by rw [h.msg, hmsg]⟩

section
variable (s : State) (c : ChanId) (r : RecId)

theorem bump_writes (k : Counter) : Writes c r s (bump s c k) (s.chan c) (s.msg r) := by
  refine ⟨fun d => ?_, fun q => ?_⟩
  · rw [chan_bump, chan_bump, if_pos rfl]
  · rw [bump_msg]
    split_ifs with hq
    · rw [hq]
    · rfl

theorem modMsg_writes (f : MsgRecord → MsgRecord) : Writes c r s (s.modMsg r f) (s.chan c) (f (s.msg r)) := by
  refine ⟨fun d => ?_, fun q => msg_modMsg s r f q⟩
  rw [chan_modMsg, chan_modMsg]
  split_ifs with hd
  · rw [hd]
  · rfl

theorem modChan_writes (f : Channel → Channel) : Writes c r s (s.modChan c f) (f (s.chan c)) (s.msg r) := by
  refine ⟨fun d => ?_, fun q => ?_⟩
  · rw [chan_modChan, chan_modChan_self]
  · rw [msg_modChan]
    split_ifs with hq
    · rw [hq]
    · rfl

theorem freeRecord_writes (o : MsgOutcome) (n : Nat) : Writes c r s (freeRecord s c r o n)
    { s.chan c with list := (s.chan c).list.filter (fun x => x != r) } MsgRecord.free :=
  ⟨chan_freeRecord s c r o n, msg_freeRecord s c r o n⟩

/-! ## Binds (R99) -/

variable (p : Port) (w : ParkedTake)

/-- The event of a bind at the port of the parked take (R99). -/
def State.bindEvents (q : Port) : List Event :=
  if q = p then [slotEvent .waitDone (s.chan c).name w.handle w.slot (s.msg r).ticket] else []

/-- What a bind writes in the hands and in the waiter list, before its attachment and its queue hear of it. -/
def bindHands : State :=
  ((fillSlot s p w.slot r w.handle).modChan c (fun ch => { ch with waiters := ch.waiters.filter (fun x => x != p) })).modPort p
    (fun q => { q with parked := none })

theorem bindSlot_eq : bindSlot s c r p w = queueEvent (clearLagReported (bindHands s c r p w) ⟨p, w.handle⟩) p
    (slotEvent .waitDone (s.chan c).name w.handle w.slot (s.msg r).ticket) := by
  have hname : ((bindHands s c r p w).chan c).name = (s.chan c).name := by
    rw [bindHands, chan_modPort, chan_modChan_self]; rfl
  rw [← hname]
  rfl

theorem bindSlot_sameStores : SameStores (bindHands s c r p w) (bindSlot s c r p w) := by
  rw [bindSlot_eq]
  exact (setAtt_sameStores _ ⟨p, w.handle⟩ _).trans (queueEvent_sameStores _ p _)

theorem bindSlot_writes : Writes c r s (bindSlot s c r p w)
    { s.chan c with waiters := (s.chan c).waiters.filter (fun x => x != p) } (s.msg r) := by
  have hsame := bindSlot_sameStores s c r p w
  have hhands : Writes c r s (bindHands s c r p w)
      { s.chan c with waiters := (s.chan c).waiters.filter (fun x => x != p) } (s.msg r) :=
    ((modChan_writes (fillSlot s p w.slot r w.handle) c r
      (fun ch => { ch with waiters := ch.waiters.filter (fun x => x != p) })).after_same (s := s) (fun _ => rfl)
        (fun _ => rfl)).then_same (v := bindHands s c r p w) (fun _ => rfl) (fun _ => rfl)
  exact hhands.then_same hsame.chan hsame.msg

theorem slot_bindSlot (q : Port) (i : Slot) : (bindSlot s c r p w).slot q i =
    if q = p ∧ i = w.slot then .holding r w.handle (s.msg r).ticket (s.freshLease p) else s.slot q i := by
  rw [(bindSlot_sameStores s c r p w).slot, bindHands, slot_modPort]
  by_cases hq : q = p
  · subst hq
    rw [if_pos rfl]
    exact slot_setSlot s q w.slot _ q i
  · rw [if_neg hq, slot_modChan, fillSlot, slot_setSlot, if_neg (fun h => hq h.1), if_neg (fun h => hq h.1)]

theorem parked_bindSlot (q : Port) : ((bindSlot s c r p w).port q).parked = if q = p then none else (s.port q).parked := by
  rw [(bindSlot_sameStores s c r p w).parked, bindHands, port_modPort]
  split_ifs with hq
  · rfl
  · rw [port_modChan, fillSlot, port_setSlot, if_neg hq]

theorem att_bindHands (b : AttRef) : (bindHands s c r p w).att b = s.att b := by
  rw [bindHands, (modPort_att_of_same _ p _ rfl)]
  exact att_setSlot s p w.slot _ b

/-- A bind leaves every attachment but a SUBSCRIBER that it tells (R99). -/
theorem att_bindSlot (h : ∀ u ∈ s.att ⟨p, w.handle⟩, u.role ≠ .subscriber) (b : AttRef) :
    (bindSlot s c r p w).att b = s.att b := by
  rw [bindSlot_eq, (queueEvent_sameHands _ _ _).att, clearLagReported, att_modAtt, att_bindHands]
  split_ifs with hb
  · rw [hb]
    cases hu : s.att ⟨p, w.handle⟩ with
    | none => rfl
    | some u => rw [Option.map_some, if_neg (h u hu)]
  · exact att_bindHands s c r p w b

theorem bindSlot_moves : Moves c s (bindSlot s c r p w) (.ofEvents (s.bindEvents c r p w)) := by
  rw [bindSlot_eq]
  exact (((((setSlot_moves c s p w.slot _).trans (modChan_moves c _ c _ rfl)).trans
    (modPort_moves c _ p (fun q => { q with parked := none }) ⟨rfl, rfl, rfl, rfl⟩)).trans
    (setAtt_moves c (bindHands s c r p w) ⟨p, w.handle⟩ _)).trans (queueEvent_moves c _ p _)).congr (by simp; rfl)

end

/-! ## The hand-back of a POINT record (R84, R85, R87) -/

section
variable {s : State} {c : ChanId} {r : RecId}

/-- A record back at the head of its list, before it is bound or announced (R85). -/
def requeued (s : State) (c : ChanId) (r : RecId) : State :=
  (s.modMsg r (fun m => { m with state := .queued, redelivery := m.redelivery + 1, expiring := false })).modChan c
    (fun ch => { ch with list := r :: ch.list })

theorem requeued_writes (s : State) (c : ChanId) (r : RecId) : Writes c r s (requeued s c r)
    { s.chan c with list := r :: (s.chan c).list }
    { s.msg r with state := .queued, redelivery := (s.msg r).redelivery + 1, expiring := false } := by
  refine ⟨fun d => ?_, fun q => msg_modMsg s r
    (fun m => { m with state := .queued, redelivery := m.redelivery + 1, expiring := false }) q⟩
  rw [requeued, chan_modChan, chan_modChan_self]
  split_ifs <;> rfl

theorem requeued_moves (s : State) (c : ChanId) (r : RecId) : Moves c s (requeued s c r) .zero :=
  (modMsg_moves c s r _).trans (modChan_moves c _ c (fun ch => { ch with list := r :: ch.list }) rfl)

theorem requeued_sameHands (s : State) (c : ChanId) (r : RecId) : SameHands s (requeued s c r) := sameHands_of_ports rfl

/-- A record that comes back to a waiter goes into its hand (R101). -/
theorem requeue_of_waiter {q : Port} {rest : List Port} {w : ParkedTake} (hheld : (s.chan c).held = false)
    (hw : (s.chan c).waiters = q :: rest) (hparked : (s.port q).parked = some w) :
    requeue s c r = bindSlot (takeIntoHand (requeued s c r) c r) c r q w := by
  have h1 : ((requeued s c r).chan c).held = false := by rw [(requeued_writes s c r).chan_self]; exact hheld
  have h2 : ((requeued s c r).chan c).waiters = q :: rest := by rw [(requeued_writes s c r).chan_self]; exact hw
  have h3 : ((requeued s c r).port q).parked = some w := hparked
  rw [show requeue s c r = (match ((requeued s c r).chan c).held, ((requeued s c r).chan c).waiters with
    | false, p :: _ => bindPoint (requeued s c r) c r p
    | _, _ => arriveAll (requeued s c r) c ((requeued s c r).msg r).urgent ((requeued s c r).withRole c .consumer)) from rfl,
    h1, h2]
  simp only [bindPoint, h3]

/-- A record that comes back where nobody waits, or to a held channel, is an arrival (R61). -/
theorem requeue_of_nobody (h : (s.chan c).held = true ∨ (s.chan c).waiters = []) : requeue s c r =
    arriveAll (requeued s c r) c (s.msg r).urgent ((requeued s c r).withRole c .consumer) := by
  have hurgent : ((requeued s c r).msg r).urgent = (s.msg r).urgent := by rw [(requeued_writes s c r).msg_self]
  rw [show requeue s c r = (match ((requeued s c r).chan c).held, ((requeued s c r).chan c).waiters with
    | false, p :: _ => bindPoint (requeued s c r) c r p
    | _, _ => arriveAll (requeued s c r) c ((requeued s c r).msg r).urgent ((requeued s c r).withRole c .consumer)) from rfl,
    (requeued_writes s c r).chan_self, hurgent]
  rcases h with h | h
  · simp only [h]
  · cases hh : (s.chan c).held <;> simp only [h]

/-- What RETURNED's rise adds (R87). -/
def State.returnToll (s : State) (c : ChanId) : Toll :=
  ⟨[], fun j => if j = .returned then 1 else 0, fun _ => [], s.wrapAfter c .returned 0⟩

/-- What the hand-back of a record finds where it may come back: the counter raised, and nothing else changed. -/
theorem handBackPoint_of_requeues (hopen : (s.chan c).state = .opened) (hred : (s.msg r).redelivery < 7) :
    (handBackPoint s c r).1 = requeue (bump s c .returned) c r := by
  have h1 : ((bump s c .returned).chan c).state = .opened := by rw [chan_bump, if_pos rfl]; exact hopen
  have h2 : ((bump s c .returned).msg r).redelivery < Config.poisonLimit := by rw [bump_msg]; exact hred
  simp only [handBackPoint, if_pos h1, if_pos h2]

theorem handBackPoint_of_not_requeues (h : ¬ ((s.chan c).state = .opened ∧ (s.msg r).redelivery < 7)) :
    (handBackPoint s c r).1 = freeRecord (bump s c .returned) c r
      (if (s.chan c).state = .opened then .poisoned else .discarded) 0 := by
  have h1 : ((bump s c .returned).chan c).state = (s.chan c).state := by rw [chan_bump, if_pos rfl]
  have h2 : ((bump s c .returned).msg r).redelivery = (s.msg r).redelivery := by rw [bump_msg]
  simp only [handBackPoint, h1, h2]
  by_cases ho : (s.chan c).state = .opened
  · rw [if_pos ho, if_pos ho, if_neg (fun hr : (s.msg r).redelivery < Config.poisonLimit => h ⟨ho, hr⟩)]
  · rw [if_neg ho, if_neg ho]

end

/-- A record back at the head of its list, and taken from there into a hand (R85, R76). -/
def handed (s : State) (c : ChanId) (r : RecId) : State := takeIntoHand (requeued s c r) c r

theorem handed_writes (s : State) (c : ChanId) (r : RecId) : Writes c r s (handed s c r)
    { s.chan c with list := (r :: (s.chan c).list).filter (fun x => x != r) }
    { s.msg r with state := .inHand, redelivery := (s.msg r).redelivery + 1, expiring := false } := by
  have hw := requeued_writes s c r
  have hleave := hw.trans (modChan_writes (requeued s c r) c r (fun ch => { ch with list := ch.list.filter (fun x => x != r) }))
  have htake := hleave.trans (modMsg_writes (leaveList (requeued s c r) c r) c r
    (fun m => { m with state := .inHand, expiring := false }))
  rw [leaveList, msg_modChan, hw.msg_self, chan_modChan_self, hw.chan_self] at htake
  exact ⟨htake.chan, htake.msg⟩

theorem handed_sameHands (s : State) (c : ChanId) (r : RecId) : SameHands s (handed s c r) := sameHands_of_ports rfl

theorem handed_moves (s : State) (c : ChanId) (r : RecId) : Moves c s (handed s c r) .zero :=
  (requeued_moves s c r).trans ((modChan_moves c (requeued s c r) c
    (fun ch => { ch with list := ch.list.filter (fun x => x != r) }) rfl).trans
      (modMsg_moves c (leaveList (requeued s c r) c r) r (fun m => { m with state := .inHand, expiring := false })))

/-- A record that comes back to the first waiter of a channel (R101). -/
theorem requeue_bound {s : State} {c : ChanId} {r : RecId} {q : Port} {rest : List Port} {w : ParkedTake}
    (hheld : (s.chan c).held = false) (hw : (s.chan c).waiters = q :: rest) (hparked : (s.port q).parked = some w)
    (hrole : ∀ u ∈ s.att ⟨q, w.handle⟩, u.role ≠ .subscriber) :
    Writes c r s (requeue s c r)
        { s.chan c with list := (r :: (s.chan c).list).filter (fun x => x != r)
                        waiters := (s.chan c).waiters.filter (fun x => x != q) }
        { s.msg r with state := .inHand, redelivery := (s.msg r).redelivery + 1, expiring := false } ∧
      (∀ b, (requeue s c r).att b = s.att b) ∧
      (∀ p, ((requeue s c r).port p).parked = if p = q then none else (s.port p).parked) ∧
      (∀ p i, (requeue s c r).slot p i =
        if p = q ∧ i = w.slot then .holding r w.handle (s.msg r).ticket (s.freshLease q) else s.slot p i) ∧
      Moves c s (requeue s c r) (.ofEvents (s.bindEvents c r q w)) := by
  have ht := handed_sameHands s c r
  have htw := handed_writes s c r
  have hx : requeue s c r = bindSlot (handed s c r) c r q w := requeue_of_waiter hheld hw hparked
  rw [hx]
  refine ⟨?writes, fun b => ?_, fun p => ?_, fun p i => ?_, ?moves⟩
  case writes =>
    have h := htw.trans (bindSlot_writes (handed s c r) c r q w)
    rw [htw.msg_self, htw.chan_self] at h
    exact ⟨h.chan, h.msg⟩
  · rw [att_bindSlot _ _ _ _ _ (by rw [ht.att]; exact hrole), ht.att]
  · rw [parked_bindSlot, ht.parked]
  · rw [slot_bindSlot, ht.slot, htw.msg_self]
    rfl
  case moves =>
    refine ((handed_moves s c r).trans (bindSlot_moves (handed s c r) c r q w)).congr ?_
    rw [Toll.zero_append]
    refine congrArg Toll.ofEvents (funext fun p => ?_)
    rw [State.bindEvents, htw.msg_self, htw.chan_self, State.bindEvents]

/-- A record that comes back where nobody waits (R61). -/
theorem requeue_arrives {s : State} {c : ChanId} {r : RecId} (h : (s.chan c).held = true ∨ (s.chan c).waiters = []) :
    Writes c r s (requeue s c r) { s.chan c with list := r :: (s.chan c).list }
        { s.msg r with state := .queued, redelivery := (s.msg r).redelivery + 1, expiring := false } ∧
      (∀ b, (requeue s c r).att b =
        (s.att b).map (fun u => if u.isIn c .consumer then u.afterArrival (s.msg r).urgent else u)) ∧
      (∀ p, ((requeue s c r).port p).parked = (s.port p).parked) ∧
      (∀ p i, (requeue s c r).slot p i = s.slot p i) ∧
      Moves c s (requeue s c r) (.ofEvents (s.arrivalAfter c [] (s.msg r).urgent)) := by
  have hq := requeued_sameHands s c r
  have hrw := requeued_writes s c r
  have hs := arriveAll_sameStores (requeued s c r) c (s.msg r).urgent ((requeued s c r).withRole c .consumer)
  rw [requeue_of_nobody h]
  refine ⟨hrw.then_same hs.chan hs.msg, fun b => ?_, fun p => ?_, fun p i => ?_, ?moves⟩
  · rw [att_arriveAll _ _ _ (nodup_withRole _ _ _), hq.att]
    simp only [mem_withRole_iff, hq.att]
    cases s.att b with
    | none => simp
    | some u => by_cases hi : u.channel = c ∧ u.role = .consumer <;> simp [Attachment.isIn, hi]
  · rw [hs.parked, hq.parked]
  · rw [hs.slot, hq.slot]
  case moves =>
    refine ((requeued_moves s c r).trans
      (arriveAll_moves (requeued s c r) c (s.msg r).urgent (nodup_withRole _ c .consumer))).congr ?_
    rw [Toll.zero_append]
    refine congrArg Toll.ofEvents (funext fun p => ?_)
    have hname : ((requeued s c r).chan c).name = (s.chan c).name := by rw [hrw.chan_self]
    rw [withRole_arrivals]
    simp only [State.arrivalAfter, State.eventsFor, hq.att, hname]

/-- A hand-back that binds its record to the first waiter (R101). -/
theorem handBackPoint_bound {s : State} {c : ChanId} {r : RecId} {q : Port} {rest : List Port} {w : ParkedTake}
    (hopen : (s.chan c).state = .opened) (hred : (s.msg r).redelivery < 7) (hheld : (s.chan c).held = false)
    (hw : (s.chan c).waiters = q :: rest) (hparked : (s.port q).parked = some w)
    (hrole : ∀ u ∈ s.att ⟨q, w.handle⟩, u.role ≠ .subscriber) :
    Writes c r s (handBackPoint s c r).1
        { s.chan c with list := (r :: (s.chan c).list).filter (fun x => x != r)
                        waiters := (s.chan c).waiters.filter (fun x => x != q) }
        { s.msg r with state := .inHand, redelivery := (s.msg r).redelivery + 1, expiring := false } ∧
      (∀ b, (handBackPoint s c r).1.att b = s.att b) ∧
      (∀ p, ((handBackPoint s c r).1.port p).parked = if p = q then none else (s.port p).parked) ∧
      (∀ p i, (handBackPoint s c r).1.slot p i =
        if p = q ∧ i = w.slot then .holding r w.handle (s.msg r).ticket (s.freshLease q) else s.slot p i) ∧
      Moves c s (handBackPoint s c r).1 ((s.returnToll c).append (.ofEvents (s.bindEvents c r q w))) := by
  have hb := bump_sameHands s c .returned
  have hbw := bump_writes s c r .returned
  have hlease : (bump s c .returned).freshLease q = s.freshLease q := by
    rw [State.freshLease, ((bump_work s c .returned).ports q).lease, State.freshLease]
  obtain ⟨hwrites, hatt, hpark, hslot, hmoves⟩ := requeue_bound (s := bump s c .returned) (r := r)
    (by rw [hbw.chan_self]; exact hheld) (by rw [hbw.chan_self]; exact hw) (by rw [hb.parked]; exact hparked)
    (by rw [hb.att]; exact hrole)
  have hevents : (bump s c .returned).bindEvents c r q w = s.bindEvents c r q w := by
    funext p
    rw [State.bindEvents, hbw.msg_self, hbw.chan_self, State.bindEvents]
  have hall := hbw.trans hwrites
  rw [hbw.msg_self, hbw.chan_self] at hall
  rw [hevents] at hmoves
  rw [handBackPoint_of_requeues hopen hred]
  refine ⟨⟨hall.chan, hall.msg⟩, fun b => ?_, fun p => ?_, fun p i => ?_, (bump_moves s c .returned).trans hmoves⟩
  · rw [hatt, hb.att]
  · rw [hpark, hb.parked]
  · rw [hslot, hb.slot, hlease, hbw.msg_self]

/-- A hand-back that nobody waits for (R61). -/
theorem handBackPoint_arrives {s : State} {c : ChanId} {r : RecId} (hopen : (s.chan c).state = .opened)
    (hred : (s.msg r).redelivery < 7) (h : (s.chan c).held = true ∨ (s.chan c).waiters = []) :
    Writes c r s (handBackPoint s c r).1 { s.chan c with list := r :: (s.chan c).list }
        { s.msg r with state := .queued, redelivery := (s.msg r).redelivery + 1, expiring := false } ∧
      (∀ b, (handBackPoint s c r).1.att b =
        (s.att b).map (fun u => if u.isIn c .consumer then u.afterArrival (s.msg r).urgent else u)) ∧
      (∀ p, ((handBackPoint s c r).1.port p).parked = (s.port p).parked) ∧
      (∀ p i, (handBackPoint s c r).1.slot p i = s.slot p i) ∧
      Moves c s (handBackPoint s c r).1
        ((s.returnToll c).append (.ofEvents (s.arrivalAfter c [] (s.msg r).urgent))) := by
  have hb := bump_sameHands s c .returned
  have hbw := bump_writes s c r .returned
  obtain ⟨hwrites, hatt, hpark, hslot, hmoves⟩ := requeue_arrives (s := bump s c .returned) (r := r)
    (by rw [hbw.chan_self]; exact h)
  have hevents : (bump s c .returned).arrivalAfter c [] (s.msg r).urgent = s.arrivalAfter c [] (s.msg r).urgent := by
    funext p
    have hname : ((bump s c .returned).chan c).name = (s.chan c).name := by rw [hbw.chan_self]
    simp only [State.arrivalAfter, State.eventsFor, hb.att, hname]
  have hall := hbw.trans hwrites
  rw [hbw.msg_self, hbw.chan_self] at hall
  rw [hbw.msg_self, hevents] at hmoves
  rw [handBackPoint_of_requeues hopen hred]
  refine ⟨⟨hall.chan, hall.msg⟩, fun b => ?_, fun p => ?_, fun p i => ?_, (bump_moves s c .returned).trans hmoves⟩
  · rw [hatt, hb.att, hbw.msg_self]
  · rw [hpark, hb.parked]
  · rw [hslot, hb.slot]

/-- A hand-back of a record that has been handed back too often, or to a channel that is not OPEN (R84, R48). -/
theorem handBackPoint_freed {s : State} {c : ChanId} {r : RecId}
    (h : ¬ ((s.chan c).state = .opened ∧ (s.msg r).redelivery < 7)) :
    Writes c r s (handBackPoint s c r).1
        { s.chan c with list := (s.chan c).list.filter (fun x => x != r) } MsgRecord.free ∧
      SameHands s (handBackPoint s c r).1 ∧
      Moves c s (handBackPoint s c r).1 ((s.returnToll c).append ((bump s c .returned).freeToll c r
        (if (s.chan c).state = .opened then .poisoned else .discarded) 0)) := by
  rw [handBackPoint_of_not_requeues h]
  have hbw := bump_writes s c r .returned
  have hw := hbw.trans (freeRecord_writes (bump s c .returned) c r
    (if (s.chan c).state = .opened then .poisoned else .discarded) 0)
  rw [hbw.chan_self] at hw
  exact ⟨⟨hw.chan, hw.msg⟩, (bump_sameHands s c .returned).trans (freeRecord_sameHands _ _ _ _ _),
    (bump_moves s c .returned).trans (freeRecord_moves _ _ _ _ _)⟩

end Sys2Proof.Machine
end

section
/-! SUPPORT. DETACH (O19): what the laws say of one attachment that goes. -/

namespace Sys2Proof.Machine

/-! ## One attachment that goes -/

/-- The handles that go at a DETACH: one. -/
def oneHandle (h : Handle) : Handle → Bool := fun k => k == h

@[simp] theorem leaves_oneHandle (p : Port) (h : Handle) (b : AttRef) : leaves p (oneHandle h) b = (b == ⟨p, h⟩) := by
  obtain ⟨q, k⟩ := b
  rw [Bool.eq_iff_iff]
  simp [leaves, oneHandle]

/-- The record of a hand slot whose attachment goes. -/
def State.goingAt (s : State) (p : Port) (hs : Handle → Bool) (i : Slot) : Option RecId :=
  match s.slot p i with
  | .holding r h _ _ => if hs h then some r else none
  | _ => none

theorem lettingGo_eq (s : State) (p : Port) (hs : Handle → Bool) :
    s.lettingGo p hs = (List.finRange 4).filterMap (s.goingAt p hs) := rfl

theorem goingAt_eq_some_iff {s : State} {p : Port} {hs : Handle → Bool} {i : Slot} {r : RecId} :
    s.goingAt p hs i = some r ↔ ∃ k t lease, s.slot p i = .holding r k t lease ∧ hs k = true := by
  unfold State.goingAt
  split
  · next q k t lease hq => simp [hq, and_comm]
  · next hq =>
    refine ⟨fun h => absurd h (by simp), fun ⟨k, t, lease, h, _⟩ => absurd h (hq _ _ _ _)⟩

theorem mem_lettingGo_iff {s : State} {p : Port} {hs : Handle → Bool} {r : RecId} :
    r ∈ s.lettingGo p hs ↔ ∃ i, s.goingAt p hs i = some r := by
  simp [lettingGo_eq, List.mem_filterMap]

/-- What a sound HOLDING slot says of its record (R30, R71). -/
theorem slotSound_holding {s : State} {p : Port} {i : Slot} {r : RecId} {k : Handle} {t : Ticket} {lease : Option Nat}
    (hs : s.slotSound p i = true) (hi : s.slot p i = .holding r k t lease) :
    ∃ v, s.att ⟨p, k⟩ = some v ∧ (s.msg r).ticket = t ∧ (s.msg r).channel = some v.channel ∧
      ((s.chan v.channel).kind = .point → v.role = .consumer ∧ (s.msg r).state = .inHand) ∧
      ((s.chan v.channel).kind = .fanout → v.role = .subscriber ∧ ⟨p, k⟩ ∈ (s.msg r).holders) := by
  unfold State.slotSound at hs
  rw [hi] at hs
  dsimp only at hs
  cases hv : s.att ⟨p, k⟩ with
  | none => rw [hv] at hs; exact absurd hs (by simp)
  | some v =>
    rw [hv] at hs
    dsimp only at hs
    simp only [Bool.and_eq_true, beq_iff_eq] at hs
    obtain ⟨⟨hticket, hchannel⟩, hkind⟩ := hs
    refine ⟨v, rfl, hticket, hchannel, fun hk => ?_, fun hk => ?_⟩
    · rw [hk] at hkind
      simpa using hkind
    · rw [hk] at hkind
      simpa using hkind

/-- The attachment `u` stands at handle `h` of port `p` in a lawful state: what the laws say that a DETACH of it needs. -/
structure Leaving (s : State) (p : Port) (h : Handle) (u : Attachment) : Prop where
  att : s.att ⟨p, h⟩ = some u
  opens : s.attachedOpen
  roles : s.rolesFit
  waiting : s.waitersParked
  nobody : s.nobodyWaits
  hands : s.handsAgree
  work : s.reclaimAgrees
  lists : s.listsSound
  slots : s.slotsSound
  holders : s.holdersSound
  pending : s.pendingSound
  states : s.statesSound

theorem leaving_of_lawful {s : State} {p : Port} {h : Handle} {u : Attachment} (hu : s.att ⟨p, h⟩ = some u)
    (hl : s.lawful) : Leaving s p h u := by
  obtain ⟨⟨hopens, hroles, hwaiting, hnobody⟩, -, hhands, hwork, ⟨hlists, hslots, hholders, hpending, hstates⟩, -, -⟩ := hl
  exact ⟨hu, hopens, hroles, hwaiting, hnobody, hhands, hwork, hlists, hslots, hholders, hpending, hstates⟩

namespace Leaving

variable {s : State} {p : Port} {h : Handle} {u : Attachment} (L : Leaving s p h u)
include L

theorem channel_open : (s.chan u.channel).state = .opened ∨ (s.chan u.channel).state = .purging :=
  L.opens.1 p h u L.att

/-- The records that go are those of the attachment's channel, in the hands of its consumer or subscriber. -/
theorem going {r : RecId} (hr : r ∈ s.lettingGo p (oneHandle h)) : (s.msg r).channel = some u.channel ∧
    ((s.chan u.channel).kind = .point → u.role = .consumer ∧ (s.msg r).state = .inHand) ∧
    ((s.chan u.channel).kind = .fanout → u.role = .subscriber ∧ ⟨p, h⟩ ∈ (s.msg r).holders) := by
  obtain ⟨i, hi⟩ := mem_lettingGo_iff.mp hr
  obtain ⟨k, t, lease, hslot, hk⟩ := goingAt_eq_some_iff.mp hi
  have hkh : k = h := by simpa [oneHandle] using hk
  subst hkh
  obtain ⟨v, hv, -, hchannel, hpoint, hfanout⟩ := slotSound_holding (L.slots.1 p i) hslot
  rw [L.att] at hv
  cases hv
  exact ⟨hchannel, hpoint, hfanout⟩

/-- No record goes twice (R30, R71). -/
theorem nodup_going : (s.lettingGo p (oneHandle h)).Nodup := by
  rw [lettingGo_eq]
  refine (List.nodup_finRange 4).filterMap (fun i j r hi hj => ?_)
  obtain ⟨k, t, lease, hslot, -⟩ := goingAt_eq_some_iff.mp hi
  obtain ⟨k', t', lease', hslot', -⟩ := goingAt_eq_some_iff.mp hj
  have hmem : ∀ {i : Slot} {k : Handle} {t : Ticket} {lease : Option Nat}, s.slot p i = .holding r k t lease →
      (p, i, r) ∈ s.holdings := by
    intro i k t lease hs
    simp only [State.holdings, List.mem_flatMap, List.mem_finRange, true_and, List.mem_filterMap]
    exact ⟨p, i, by rw [hs]⟩
  have he := L.slots.2 _ (hmem hslot) _ (hmem hslot') rfl (Or.inr rfl)
  exact (Prod.mk.inj (Prod.mk.inj he).2).1

/-- A holder of a record has its slot: the attachment that goes holds records of its own channel alone. -/
theorem mem_going_of_holder {r : RecId} (hr : ⟨p, h⟩ ∈ (s.msg r).holders) : r ∈ s.lettingGo p (oneHandle h) := by
  obtain ⟨-, hany, -⟩ := (L.holders r).2.2 _ hr
  obtain ⟨i, -, hi⟩ := List.any_eq_true.mp hany
  refine mem_lettingGo_iff.mpr ⟨i, goingAt_eq_some_iff.mpr ?_⟩
  split at hi
  · next q k t lease hs =>
    simp only [Bool.and_eq_true, beq_iff_eq] at hi
    obtain ⟨rfl, rfl⟩ := hi
    exact ⟨_, _, _, hs, by simp [oneHandle]⟩
  · exact absurd hi (by simp)

/-- The attachment that goes is pending for records of its own channel alone, as its SUBSCRIBER. -/
theorem awaiting {r : RecId} (hr : ⟨p, h⟩ ∈ (s.msg r).pending) :
    u.role = .subscriber ∧ (s.msg r).channel = some u.channel ∧ (s.msg r).state = .listed ∧
      r ∈ (s.chan u.channel).list ∧ r ∉ s.lettingGo p (oneHandle h) := by
  obtain ⟨-, hlisted, hmem⟩ := L.pending r
  have hany := hmem _ hr
  rw [L.att] at hany
  simp only [Option.any_some, Bool.and_eq_true, beq_iff_eq] at hany
  obtain ⟨hrole, hchannel⟩ := hany
  have hstate := hlisted.mp (List.ne_nil_of_mem hr)
  have hplaced := (L.states r).1
  simp only [State.recordPlaced, hstate, hchannel, Option.any_some, List.contains_iff_mem] at hplaced
  refine ⟨hrole, hchannel, hstate, hplaced, fun hgo => ?_⟩
  obtain ⟨-, hpoint, hfanout⟩ := L.going hgo
  cases hk : (s.chan u.channel).kind with
  | point => rw [hrole] at hpoint; exact absurd (hpoint hk).1 (by simp)
  | fanout =>
    have := ((L.holders r).2.2 _ (hfanout hk).2).2.2
    simp [hr] at this

end Leaving

end Sys2Proof.Machine
end

section
/-! SUPPORT. DETACH (O19): the pairs of records that come back and waiters (R101). -/

namespace Sys2Proof.Machine

/-! ## Binding records that come back to waiters, in order (R101) -/

section
variable {α β : Type}

theorem map_fst_zip_eq_take (B : List α) (W : List β) : (B.zip W).map Prod.fst = B.take W.length := by
  induction B generalizing W with
  | nil => simp
  | cons b B ih =>
    cases W with
    | nil => simp
    | cons w W => simp [ih]

/-- The partner of an element of a list without repeats. -/
theorem mem_zip_split_iff {B C : List α} {b : α} {W : List β} {w : β} (hn : (B ++ b :: C).Nodup) :
    (b, w) ∈ (B ++ b :: C).zip W ↔ W[B.length]? = some w := by
  induction B generalizing W with
  | nil =>
    cases W with
    | nil => simp
    | cons v W =>
      have hb : ∀ x : β, (b, x) ∉ C.zip W := fun x hx => (List.nodup_cons.mp hn).1 (List.of_mem_zip hx).1
      simp [hb, eq_comm]
  | cons a B ih =>
    obtain ⟨ha, hn⟩ := List.nodup_cons.mp hn
    have hne : b ≠ a := fun e => ha (by simp [e])
    cases W with
    | nil => simp
    | cons v W => simp [hne, ih hn]

/-- Which elements of a list without repeats have a partner. -/
theorem mem_take_split_iff {B C : List α} {b : α} (hn : (B ++ b :: C).Nodup) (n : Nat) :
    b ∈ (B ++ b :: C).take n ↔ B.length < n := by
  have hb : b ∉ B.take n := fun h => (List.nodup_append.mp hn).2.2 b (List.mem_of_mem_take h) b (by simp) rfl
  rw [List.take_append, List.mem_append, or_iff_right hb]
  constructor
  · intro h
    by_contra hlt
    rw [Nat.sub_eq_zero_of_le (not_lt.mp hlt)] at h
    simp at h
  · intro h
    obtain ⟨m, hm⟩ := Nat.exists_eq_add_of_lt h
    rw [hm, show B.length + m + 1 - B.length = m + 1 by omega]
    simp

/-- What is left of a list without repeats when its first elements go. -/
theorem filter_not_mem_take [DecidableEq α] {B : List α} (hn : B.Nodup) (n : Nat) :
    B.filter (fun b => !(B.take n).contains b) = B.drop n := by
  have hdisj : ∀ b ∈ B.drop n, b ∉ B.take n := fun b hd ht =>
    (List.nodup_append.mp ((List.take_append_drop n B).symm ▸ hn)).2.2 b ht b hd rfl
  conv_lhs => rw [← List.take_append_drop n B, List.filter_append]
  rw [List.filter_eq_nil_iff.mpr (fun b hb => by simp [List.take_append_drop, hb]),
    List.filter_eq_self.mpr (fun b hb => by simpa [List.take_append_drop] using hdisj b hb), List.nil_append]

end

/-- A record that is handed back comes back to its list. -/
def State.comesBack (s : State) (c : ChanId) (r : RecId) : Bool :=
  (s.msg r).channel == some c && (s.chan c).kind == .point && s.requeues c r

theorem comingBack_eq (s : State) (p : Port) (hs : Handle → Bool) (c : ChanId) :
    s.comingBack p hs c = (s.lettingGo p hs).filter (s.comesBack c) := rfl

/-- A record that is bound as it comes back (R101). -/
def State.bindsAgain (s : State) (p : Port) (hs : Handle → Bool) (c : ChanId) (r : RecId) : Bool :=
  ((s.bindsBack p hs c).map Prod.fst).contains r

theorem arrivesBack_eq (s : State) (p : Port) (hs : Handle → Bool) (c : ChanId) (r : RecId) :
    s.arrivesBack p hs c r = ((s.comingBack p hs c).contains r && !s.bindsAgain p hs c r) := rfl

/-- The events of a bind name the record and the waiter that meet. -/
theorem bindsAgain_iff {s : State} {p : Port} {hs : Handle → Bool} {c : ChanId} {r : RecId} :
    s.bindsAgain p hs c r = true ↔ ∃ q, (r, q) ∈ s.bindsBack p hs c := by
  simp [State.bindsAgain]

section
variable {s : State} {p : Port} {hs : Handle → Bool} {c : ChanId} {D E : List RecId} {r : RecId}

theorem bindsBack_fst : (s.bindsBack p hs c).map Prod.fst =
    if (s.chan c).held then [] else (s.comingBack p hs c).take (s.waitersLeft p hs c).length := by
  unfold State.bindsBack
  split
  · rfl
  · exact map_fst_zip_eq_take _ _

/-- A bound record comes back. -/
theorem comingBack_of_bindsAgain (h : s.bindsAgain p hs c r = true) : r ∈ s.comingBack p hs c := by
  rw [State.bindsAgain, List.contains_iff_mem, bindsBack_fst] at h
  split at h
  · simp at h
  · exact List.mem_of_mem_take h

section
variable (hsplit : s.lettingGo p hs = D ++ r :: E) (hn : (s.lettingGo p hs).Nodup) (hr : s.comesBack c r = true)
include hsplit hn hr

theorem comingBack_split : s.comingBack p hs c = D.filter (s.comesBack c) ++ r :: E.filter (s.comesBack c) ∧
    (D.filter (s.comesBack c) ++ r :: E.filter (s.comesBack c)).Nodup := by
  have h : s.comingBack p hs c = D.filter (s.comesBack c) ++ r :: E.filter (s.comesBack c) := by
    rw [comingBack_eq, hsplit, List.filter_append, List.filter_cons_of_pos hr]
  exact ⟨h, h ▸ hn.filter _⟩

/-- A record binds to the waiter at the place that the records before it leave. -/
theorem mem_bindsBack_split_iff {q : Port} : (r, q) ∈ s.bindsBack p hs c ↔
    (s.chan c).held = false ∧ (s.waitersLeft p hs c)[(D.filter (s.comesBack c)).length]? = some q := by
  obtain ⟨hc, hnc⟩ := comingBack_split hsplit hn hr
  unfold State.bindsBack
  cases (s.chan c).held with
  | true => simp
  | false => simp only [Bool.false_eq_true, if_false, true_and]; rw [hc]; exact mem_zip_split_iff hnc

theorem bindsAgain_split_iff : s.bindsAgain p hs c r = true ↔
    (s.chan c).held = false ∧ (D.filter (s.comesBack c)).length < (s.waitersLeft p hs c).length := by
  obtain ⟨hc, hnc⟩ := comingBack_split hsplit hn hr
  rw [State.bindsAgain, List.contains_iff_mem, bindsBack_fst]
  cases (s.chan c).held with
  | true => simp
  | false => simp only [Bool.false_eq_true, if_false, true_and]; rw [hc]; exact mem_take_split_iff hnc _

theorem mem_comingBack_split : r ∈ s.comingBack p hs c := by
  rw [(comingBack_split hsplit hn hr).1]; simp

end

/-- The records that come back without being bound (R61). -/
theorem filter_arrivesBack (hn : (s.lettingGo p hs).Nodup) : (s.lettingGo p hs).filter (s.arrivesBack p hs c) =
    (s.comingBack p hs c).drop (s.bindsBack p hs c).length := by
  have hmem : ∀ r ∈ s.lettingGo p hs, s.arrivesBack p hs c r =
      (!s.bindsAgain p hs c r && s.comesBack c r) := by
    intro r hr
    rw [arrivesBack_eq, comingBack_eq, Bool.and_comm]
    congr 1
    rw [Bool.eq_iff_iff, List.contains_iff_mem, List.mem_filter]
    simp [hr]
  rw [List.filter_congr hmem, ← List.filter_filter, ← comingBack_eq, ← List.length_map (f := Prod.fst)]
  simp only [State.bindsAgain, bindsBack_fst]
  split
  · simp
  · have hnc : (s.comingBack p hs c).Nodup := hn.filter _
    rw [filter_not_mem_take hnc, List.length_take]
    rcases Nat.le_total (s.waitersLeft p hs c).length (s.comingBack p hs c).length with h | h
    · rw [Nat.min_eq_left h]
    · rw [Nat.min_eq_right h, List.drop_eq_nil_of_le h, List.drop_length]

end

end Sys2Proof.Machine
end

section
/-! SUPPORT. DETACH (O19): what the hand-backs leave and add, record by record. -/

namespace Sys2Proof.Machine

/-! ## What the hand-backs leave, record by record

`D` are the records handed back so far, slots rising; the hand-back of a record and what it adds depend on those before it. -/

/-- A hand-back that frees its record (R84, R86). -/
def State.handsFree (s : State) (p : Port) (hs : Handle → Bool) (r : RecId) : Bool :=
  s.freedBy p hs r && (s.msg r).state != .listed

theorem freedFromHands_eq (s : State) (p : Port) (hs : Handle → Bool) :
    s.freedFromHands p hs = (s.lettingGo p hs).filter (s.handsFree p hs) := rfl

/-- A record after its hand-back, before any subscriber leaves the pending sets. -/
def State.handedBack (s : State) (p : Port) (hs : Handle → Bool) (c : ChanId) (r : RecId) : MsgRecord :=
  let m := s.msg r
  if s.handsFree p hs r then MsgRecord.free
  else if s.bindsAgain p hs c r then { m with redelivery := m.redelivery + 1, expiring := false }
  else if (s.comingBack p hs c).contains r then
    { m with state := .queued, redelivery := m.redelivery + 1, expiring := false }
  else { m with holders := m.holders.filter (fun a => !leaves p hs a) }

/-- How often each counter of a channel rises when the records `D` are handed back and those of `freed` are freed. -/
def State.risesFor (s : State) (c : ChanId) (D freed : List RecId) (k : Counter) : Nat :=
  match (s.chan c).kind, k with
  | .point, .returned => D.countP (fun r => (s.msg r).channel == some c)
  | .point, .discarded => freed.countP (fun r => (s.msg r).channel == some c)
  | .fanout, .delivered => freed.countP (fun r => (s.msg r).channel == some c && !(s.msg r).receipted)
  | _, _ => 0

theorem risesBy_eq (s : State) (p : Port) (hs : Handle → Bool) (c : ChanId) :
    s.risesBy p hs c = s.risesFor c (s.lettingGo p hs) (s.freedInOrder p hs) := by
  funext k
  unfold State.risesBy State.risesFor
  cases (s.chan c).kind <;> cases k <;> rfl

theorem risesFor_append (s : State) (c : ChanId) (D D' F F' : List RecId) (k : Counter) :
    s.risesFor c (D ++ D') (F ++ F') k = s.risesFor c D F k + s.risesFor c D' F' k := by
  unfold State.risesFor
  cases (s.chan c).kind <;> cases k <;> simp

/-- The chains and the posters of some records. -/
def State.chainsOf (s : State) (F : List RecId) : List (List CellId × Port) :=
  F.map (fun r => ((s.msg r).chain, (s.msg r).ticket.source))

/-- The receipts of some records that are freed, at a port. -/
def State.receiptsAt (s : State) (F : List RecId) (q : Port) : List Receipt :=
  (F.filter (fun r => (s.msg r).ticket.source == q)).flatMap s.farewell

/-- What the hand-backs of `D` add, and then the frees of `E` in the lists. -/
def State.goneToll (s : State) (p : Port) (hs : Handle → Bool) (c : ChanId) (D E : List RecId) : Toll where
  freed := s.chainsOf (D.filter (s.handsFree p hs) ++ E)
  rise := s.risesFor c D (D.filter (s.handsFree p hs) ++ E)
  receipts := s.receiptsAt (D.filter (s.handsFree p hs) ++ E)
  events q := (eachAfter [] D).flatMap (fun x => s.handBackEvents p hs q x.1 x.2) ++
    (eachAfter (s.freedFromHands p hs) E).flatMap (fun x => s.deliveredEvents p hs q x.1 x.2)

/-- What the hand-back of a record after those of `D` adds. -/
def State.handBackToll (s : State) (p : Port) (hs : Handle → Bool) (c : ChanId) (D : List RecId) (r : RecId) : Toll where
  freed := s.chainsOf ([r].filter (s.handsFree p hs))
  rise := s.risesFor c [r] ([r].filter (s.handsFree p hs))
  receipts := s.receiptsAt ([r].filter (s.handsFree p hs))
  events q := s.handBackEvents p hs q D r

/-- What the free of a record in a list adds after those of `E`. -/
def State.listFreeToll (s : State) (p : Port) (hs : Handle → Bool) (c : ChanId) (E : List RecId) (r : RecId) : Toll where
  freed := s.chainsOf [r]
  rise := s.risesFor c [] [r]
  receipts := s.receiptsAt [r]
  events q := s.deliveredEvents p hs q (s.freedFromHands p hs ++ E) r

theorem eachAfter_append {α : Type} (before l : List α) (x : α) :
    eachAfter before (l ++ [x]) = eachAfter before l ++ [(before ++ l, x)] := by
  induction l generalizing before with
  | nil => simp [eachAfter]
  | cons y l ih => simp [eachAfter, ih]

theorem chainsOf_append (s : State) (F F' : List RecId) : s.chainsOf (F ++ F') = s.chainsOf F ++ s.chainsOf F' :=
  List.map_append

theorem receiptsAt_append (s : State) (F F' : List RecId) (q : Port) :
    s.receiptsAt (F ++ F') q = s.receiptsAt F q ++ s.receiptsAt F' q := by
  simp [State.receiptsAt]

theorem goneToll_nil (s : State) (p : Port) (hs : Handle → Bool) (c : ChanId) : s.goneToll p hs c [] [] = .zero := by
  unfold State.goneToll Toll.zero
  congr 1
  funext k
  unfold State.risesFor
  cases (s.chan c).kind <;> cases k <;> rfl

theorem goneToll_handBack (s : State) (p : Port) (hs : Handle → Bool) (c : ChanId) (D : List RecId) (r : RecId) :
    s.goneToll p hs c (D ++ [r]) [] = (s.goneToll p hs c D []).append (s.handBackToll p hs c D r) := by
  refine Toll.ext_of ?_ (fun k => ?_) (fun q => ?_) (fun q => ?_)
  · simp [State.goneToll, State.handBackToll, Toll.append, chainsOf_append]
  · simp only [State.goneToll, State.handBackToll, Toll.append, List.filter_append, List.append_nil, risesFor_append]
  · simp only [State.goneToll, State.handBackToll, Toll.append, List.filter_append, List.append_nil, receiptsAt_append]
  · simp [State.goneToll, State.handBackToll, Toll.append, eachAfter_append, eachAfter]

theorem goneToll_listFree (s : State) (p : Port) (hs : Handle → Bool) (c : ChanId) (D E : List RecId) (r : RecId) :
    s.goneToll p hs c D (E ++ [r]) = (s.goneToll p hs c D E).append (s.listFreeToll p hs c E r) := by
  refine Toll.ext_of ?_ (fun k => ?_) (fun q => ?_) (fun q => ?_)
  · simp [State.goneToll, State.listFreeToll, Toll.append, chainsOf_append]
  · simp only [State.goneToll, State.listFreeToll, Toll.append, ← risesFor_append, List.append_nil, List.append_assoc]
  · simp only [State.goneToll, State.listFreeToll, Toll.append, receiptsAt_append, List.append_assoc]
  · simp [State.goneToll, State.listFreeToll, Toll.append, eachAfter_append]

/-! ## What an attachment keeps through arrivals -/

theorem afterArrival_keeps (v : Attachment) (b : Bool) : (v.afterArrival b).channel = v.channel ∧
    (v.afterArrival b).role = v.role ∧ (v.afterArrival b).statsNotify = v.statsNotify ∧
    (v.afterArrival b).roomWanted = v.roomWanted := by
  unfold Attachment.afterArrival
  split
  · exact ⟨rfl, rfl, rfl, rfl⟩
  · split <;> exact ⟨rfl, rfl, rfl, rfl⟩

theorem afterArrivals_keeps (v : Attachment) (l : List Bool) : (v.afterArrivals l).channel = v.channel ∧
    (v.afterArrivals l).role = v.role ∧ (v.afterArrivals l).statsNotify = v.statsNotify ∧
    (v.afterArrivals l).roomWanted = v.roomWanted := by
  induction l generalizing v with
  | nil => exact ⟨rfl, rfl, rfl, rfl⟩
  | cons b l ih =>
    obtain ⟨hc, hr, hs, hw⟩ := ih (v.afterArrival b)
    obtain ⟨hc', hr', hs', hw'⟩ := afterArrival_keeps v b
    exact ⟨hc.trans hc', hr.trans hr', hs.trans hs', hw.trans hw'⟩

theorem afterArrivals_append (v : Attachment) (l : List Bool) (b : Bool) :
    v.afterArrivals (l ++ [b]) = (v.afterArrivals l).afterArrival b := by
  simp [Attachment.afterArrivals]

/-- A consumer once some records of its channel have come back; any other attachment as it was. -/
def State.heard (s : State) (p : Port) (hs : Handle → Bool) (D : List RecId) (v : Attachment) : Attachment :=
  if v.role = .consumer then v.afterArrivals (s.urgentsBack p hs v.channel D) else v

theorem heard_keeps (s : State) (p : Port) (hs : Handle → Bool) (D : List RecId) (v : Attachment) :
    (s.heard p hs D v).channel = v.channel ∧ (s.heard p hs D v).role = v.role ∧
      (s.heard p hs D v).statsNotify = v.statsNotify ∧ (s.heard p hs D v).roomWanted = v.roomWanted := by
  unfold State.heard
  split
  · exact afterArrivals_keeps v _
  · exact ⟨rfl, rfl, rfl, rfl⟩

theorem urgentsBack_append (s : State) (p : Port) (hs : Handle → Bool) (c : ChanId) (D : List RecId) (r : RecId) :
    s.urgentsBack p hs c (D ++ [r]) =
      s.urgentsBack p hs c D ++ (if s.arrivesBack p hs c r then [(s.msg r).urgent] else []) := by
  unfold State.urgentsBack
  rw [List.filter_append, List.map_append]
  by_cases h : s.arrivesBack p hs c r = true <;> simp [h]

theorem heard_append (s : State) (p : Port) (hs : Handle → Bool) (D : List RecId) (r : RecId) (v : Attachment) :
    s.heard p hs (D ++ [r]) v = if v.role = .consumer ∧ s.arrivesBack p hs v.channel r = true
      then (s.heard p hs D v).afterArrival (s.msg r).urgent else s.heard p hs D v := by
  unfold State.heard
  rw [urgentsBack_append]
  by_cases hr : v.role = .consumer
  · by_cases ha : s.arrivesBack p hs v.channel r = true
    · simp [hr, ha, afterArrivals_append]
    · simp [hr, ha]
  · simp [hr]

/-! ## The state without the attachments that go -/

theorem att_without (s : State) (p : Port) (hs : Handle → Bool) (b : AttRef) :
    (s.without p hs).att b = if leaves p hs b then none else s.att b := by
  obtain ⟨q, k⟩ := b
  rw [State.without, att_modPort]
  by_cases hq : q = p
  · subst hq
    by_cases hk : hs k = true
    · simp [leaves, hk]
    · simp [leaves, hk, State.att]
  · simp [leaves, hq]

@[simp] theorem chan_without (s : State) (p : Port) (hs : Handle → Bool) (c : ChanId) : (s.without p hs).chan c = s.chan c := rfl
@[simp] theorem msg_without (s : State) (p : Port) (hs : Handle → Bool) (r : RecId) : (s.without p hs).msg r = s.msg r := rfl

/-- What is queued for the attachments of two states that correspond. -/
theorem eventsFor_congr {s t : State} {g : Attachment → Attachment} (h : ∀ b, t.att b = (s.att b).map g) (q : Port)
    {k k' : Handle → Attachment → Option Event} (hk : ∀ j v, k j (g v) = k' j v) : t.eventsFor q k = s.eventsFor q k' := by
  unfold State.eventsFor
  congr 1
  funext j
  rw [h]
  cases s.att ⟨q, j⟩ with
  | none => rfl
  | some v => exact hk j v

end Sys2Proof.Machine
end

section
/-! SUPPORT. DETACH (O19): the stages of the hand-backs, and their beginning. -/

namespace Sys2Proof.Machine

/-! ## The hand-backs in order -/

/-- The list of a channel once some records have been handed back. -/
def State.listAfter (s : State) (p : Port) (hs : Handle → Bool) (c : ChanId) (D : List RecId) : List RecId :=
  (D.filter (s.arrivesBack p hs c)).reverse ++ (s.chan c).list

/-- The waiters of a channel once some records have been handed back. -/
def State.waitersAfter (s : State) (p : Port) (hs : Handle → Bool) (c : ChanId) (D : List RecId) : List Port :=
  if (s.chan c).held then s.waitersLeft p hs c else (s.waitersLeft p hs c).drop (D.filter (s.comesBack c)).length

/-- A hand slot once the attachments have gone, where nothing is bound. -/
def State.slotLeft (s : State) (p : Port) (hs : Handle → Bool) (q : Port) (i : Slot) : HandSlot :=
  match s.slot q i with
  | .holding r h tk lease => if leaves p hs ⟨q, h⟩ then .empty else .holding r h tk lease
  | .reserved => if (s.waiterOf q).any (leaves p hs) then .empty else .reserved
  | .empty => .empty

/-- A parked take once the attachments have gone, where nothing is bound. -/
def State.parkedLeft (s : State) (p : Port) (hs : Handle → Bool) (q : Port) : Option ParkedTake :=
  if (s.waiterOf q).any (leaves p hs) then none else (s.port q).parked

/-- From `s` to `x` the attachment ⟨p, h⟩ of channel `c` has gone, its parked take has ended, the records `D` have been
handed back, and the hand slots `rem` are still to be looked at. -/
structure Stage (s x : State) (p : Port) (h : Handle) (c : ChanId) (D : List RecId) (rem : List Slot) : Prop where
  chan : ∀ d, x.chan d = if d = c then { s.chan c with
    list := s.listAfter p (oneHandle h) c D, waiters := s.waitersAfter p (oneHandle h) c D, stats := (x.chan c).stats }
    else s.chan d
  msg : ∀ r, x.msg r = if r ∈ D then s.handedBack p (oneHandle h) c r else s.msg r
  att : ∀ b, x.att b = if b = ⟨p, h⟩ then none else (s.att b).map (s.heard p (oneHandle h) D)
  bound : ∀ q, ∀ r ∈ D, (r, q) ∈ s.bindsBack p (oneHandle h) c → s.bound x q r (s.msg r).ticket
  unbound : ∀ q, (∀ r ∈ D, (r, q) ∉ s.bindsBack p (oneHandle h) c) →
    (x.port q).parked = s.parkedLeft p (oneHandle h) q ∧
    ∀ i, x.slot q i = if q = p ∧ i ∈ rem ∧ (s.goingAt p (oneHandle h) i).isSome = true then s.slot q i
      else s.slotLeft p (oneHandle h) q i
  lease : ∀ q, x.freshLease q = s.freshLease q
  moves : Moves c s x (s.goneToll p (oneHandle h) c D [])

theorem urgentsBack_nil (s : State) (p : Port) (hs : Handle → Bool) (c : ChanId) : s.urgentsBack p hs c [] = [] := rfl

theorem heard_nil (s : State) (p : Port) (hs : Handle → Bool) : s.heard p hs [] = id := by
  funext v
  unfold State.heard
  split <;> rfl

/-- A record arrives back at its own channel alone. -/
theorem channel_of_arrivesBack {s : State} {p : Port} {hs : Handle → Bool} {c : ChanId} {r : RecId}
    (h : s.arrivesBack p hs c r = true) : (s.msg r).channel = some c := by
  rw [arrivesBack_eq, Bool.and_eq_true, List.contains_iff_mem, comingBack_eq, List.mem_filter, State.comesBack] at h
  have := h.1.2
  simp only [Bool.and_eq_true, beq_iff_eq] at this
  exact this.1.1

namespace Stage

variable {s x y : State} {p : Port} {h : Handle} {c : ChanId} {D : List RecId} {rem : List Slot} {r : RecId}
  (S : Stage s x p h c D rem)
include S

theorem chan_self : x.chan c = { s.chan c with
    list := s.listAfter p (oneHandle h) c D, waiters := s.waitersAfter p (oneHandle h) c D, stats := (x.chan c).stats } :=
  (S.chan c).trans (if_pos rfl)

theorem state : (x.chan c).state = (s.chan c).state := by rw [S.chan_self]
theorem kind : (x.chan c).kind = (s.chan c).kind := by rw [S.chan_self]
theorem held : (x.chan c).held = (s.chan c).held := by rw [S.chan_self]
theorem name : (x.chan c).name = (s.chan c).name := by rw [S.chan_self]

/-- The attachments as those that stay have heard of the records that have come back. -/
theorem att_eq_without (b : AttRef) :
    x.att b = ((s.without p (oneHandle h)).att b).map (s.heard p (oneHandle h) D) := by
  rw [S.att, att_without, leaves_oneHandle]
  by_cases hb : b = ⟨p, h⟩
  · simp [hb]
  · simp [hb]

/-- One record more has been handed back. -/
theorem next (hchan : (s.msg r).channel = some c)
    (hw : Writes c r x y { x.chan c with list := s.listAfter p (oneHandle h) c (D ++ [r])
                                         waiters := s.waitersAfter p (oneHandle h) c (D ++ [r]) }
      (s.handedBack p (oneHandle h) c r))
    (hatt : ∀ b, y.att b = (x.att b).map (fun v => if v.isIn c .consumer && s.arrivesBack p (oneHandle h) c r
      then v.afterArrival (s.msg r).urgent else v))
    (hbound : ∀ q, (r, q) ∈ s.bindsBack p (oneHandle h) c → s.bound y q r (s.msg r).ticket)
    (hunbound : ∀ q, (r, q) ∉ s.bindsBack p (oneHandle h) c →
      (y.port q).parked = (x.port q).parked ∧ ∀ i, y.slot q i = x.slot q i)
    (hone : ∀ q, (r, q) ∈ s.bindsBack p (oneHandle h) c → ∀ r' ∈ D, (r', q) ∉ s.bindsBack p (oneHandle h) c)
    (hlease : ∀ q, y.freshLease q = x.freshLease q)
    (hmoves : Moves c x y (s.handBackToll p (oneHandle h) c D r)) : Stage s y p h c (D ++ [r]) rem where
  chan d := by
    rw [hw.chan]
    by_cases hd : d = c
    · rw [if_pos hd, if_pos hd, S.chan_self]
    · rw [if_neg hd, if_neg hd, S.chan, if_neg hd]
  msg q := by
    rw [hw.msg, S.msg]
    by_cases hq : q = r
    · simp [hq]
    · simp [hq]
  att b := by
    rw [hatt, S.att]
    by_cases hb : b = ⟨p, h⟩
    · simp [hb]
    · rw [if_neg hb, if_neg hb, Option.map_map]
      refine Option.map_congr (fun v hv => ?_)
      rw [Function.comp, heard_append]
      obtain ⟨hchannel, hrole, -, -⟩ := heard_keeps s p (oneHandle h) D v
      refine if_congr ?_ rfl rfl
      rw [Attachment.isIn, hchannel, hrole]
      simp only [Bool.and_eq_true, beq_iff_eq]
      constructor
      · rintro ⟨⟨rfl, hr⟩, ha⟩
        exact ⟨hr, ha⟩
      · rintro ⟨hr, ha⟩
        have hvc : v.channel = c := Option.some.inj ((channel_of_arrivesBack ha).symm.trans hchan)
        exact ⟨⟨hvc, hr⟩, hvc ▸ ha⟩
  bound q r' hr' hq := by
    rcases List.mem_append.mp hr' with hD | hr
    · intro w hwq
      obtain ⟨hpark, hslot⟩ := S.bound q r' hD hq w hwq
      have hnot : (r, q) ∉ s.bindsBack p (oneHandle h) c := fun hrq => hone q hrq r' hD hq
      obtain ⟨hp, hs⟩ := hunbound q hnot
      exact ⟨hp.trans hpark, fun i => (hs i).trans (hslot i)⟩
    · rw [List.mem_singleton] at hr
      subst hr
      exact hbound q hq
  unbound q hq := by
    obtain ⟨hp, hs⟩ := hunbound q (hq r (by simp))
    obtain ⟨hpark, hslot⟩ := S.unbound q (fun r' hr' => hq r' (by simp [hr']))
    exact ⟨hp.trans hpark, fun i => (hs i).trans (hslot i)⟩
  lease q := (hlease q).trans (S.lease q)
  moves := (S.moves.trans hmoves).congr (goneToll_handBack _ _ _ _ _ _).symm

end Stage

/-! ### The beginning -/

/-- A state in which a command does its work: all that its work may read or add to is as it was before the frame. -/
structure Alike (c : ChanId) (s x : State) : Prop extends SameHands s x where
  chan : ∀ d, x.chan d = s.chan d
  msg : ∀ r, x.msg r = s.msg r
  lease : ∀ q, x.freshLease q = s.freshLease q
  moves : Moves c s x .zero

theorem onFrame_alike (c : ChanId) (s : State) (f : CommandFrame) : Alike c s (s.onFrame f) where
  att := att_onFrame s f
  slot := slot_onFrame s f
  parked := parked_onFrame s f
  chan := chan_onFrame s f
  msg := msg_onFrame s f
  lease q := by rw [State.freshLease, port_onFrame]; rfl
  moves := moves_of_same c (cells_onFrame s f) (fun d k => by rw [State.counter, chan_onFrame, State.counter])
    (fun q => by rw [port_onFrame]; exact ⟨rfl, rfl, rfl, rfl⟩)

section
variable (s : State) (c : ChanId) (p : Port) (w : ParkedTake)

theorem chan_dropParked (d : ChanId) : (dropParked s c p w).chan d =
    if d = c then { s.chan c with waiters := (s.chan c).waiters.filter (fun x => x != p) } else s.chan d :=
  chan_modChan s c (fun ch => { ch with waiters := ch.waiters.filter (fun x => x != p) }) d

theorem msg_dropParked (r : RecId) : (dropParked s c p w).msg r = s.msg r := rfl

theorem att_dropParked (b : AttRef) : (dropParked s c p w).att b = s.att b := by
  rw [dropParked, modPort_att_of_same _ p _ rfl, att_setSlot, att_modChan]

theorem slot_dropParked (q : Port) (i : Slot) : (dropParked s c p w).slot q i =
    if q = p ∧ i = w.slot then .empty else s.slot q i := by
  rw [dropParked, (modPort_slot_of_same _ p _ rfl), slot_setSlot, slot_modChan]

theorem parked_dropParked (q : Port) : ((dropParked s c p w).port q).parked = if q = p then none else (s.port q).parked := by
  rw [dropParked, port_modPort]
  split_ifs with hq
  · rfl
  · rw [port_setSlot, if_neg hq, port_modChan]

theorem dropParked_moves : Moves c s (dropParked s c p w) .zero :=
  ((modChan_moves c s c (fun ch => { ch with waiters := ch.waiters.filter (fun x => x != p) }) rfl).trans
    (setSlot_moves c _ p w.slot .empty)).trans
      (modPort_moves c _ p (fun q => { q with parked := none }) ⟨rfl, rfl, rfl, rfl⟩)

end

/-- The lease that a port gives its hands does not change within an event. -/
theorem freshLease_of_work {s t : State} (h : Work s t) (q : Port) : t.freshLease q = s.freshLease q := by
  rw [State.freshLease, (h.ports q).lease, State.freshLease]

/-- An attachment goes, and with it the parked take sent through it (R18 steps 1 and 2). -/
def letGo (x : State) (c : ChanId) (a : AttRef) : State :=
  match (x.port a.port).parked with
  | some w => if w.handle = a.handle then dropParked (x.setAtt a none) c a.port w else x.setAtt a none
  | none => x.setAtt a none

theorem waiter_leaves_iff {s : State} {p q : Port} {h : Handle} : (s.waiterOf q).any (leaves p (oneHandle h)) = true ↔
    q = p ∧ ∃ w, (s.port p).parked = some w ∧ w.handle = h := by
  unfold State.waiterOf
  constructor
  · intro hw
    cases hp : (s.port q).parked with
    | none => rw [hp] at hw; simp at hw
    | some w =>
      rw [hp] at hw
      simp only [Option.map_some, Option.any_some, leaves_oneHandle, beq_iff_eq, AttRef.mk.injEq] at hw
      obtain ⟨rfl, hh⟩ := hw
      exact ⟨rfl, w, hp, hh⟩
  · rintro ⟨rfl, w, hp, rfl⟩
    simp [hp]

/-- A slot that the end of a parked take does not empty keeps what it has, unless its attachment goes. -/
theorem slotLeft_of_parked {s : State} {p q : Port} {h : Handle} {i : Slot}
    (hr : s.slot q i = .reserved → (s.waiterOf q).any (leaves p (oneHandle h)) = false) :
    s.slot q i = if q = p ∧ i ∈ List.finRange 4 ∧ (s.goingAt p (oneHandle h) i).isSome = true then s.slot q i
      else s.slotLeft p (oneHandle h) q i := by
  split
  · rfl
  · next hgo =>
    unfold State.slotLeft
    cases hs : s.slot q i with
    | empty => rfl
    | reserved => simp [hr hs]
    | holding r k t lease =>
      have hk : leaves p (oneHandle h) ⟨q, k⟩ = false := by
        rw [leaves_oneHandle, beq_eq_false_iff_ne]
        rintro e
        cases e
        exact hgo ⟨rfl, List.mem_finRange i, by simp [State.goingAt, hs, oneHandle]⟩
      simp [hk]

section
variable {s x : State} {p : Port} {h : Handle} {u : Attachment} (L : Leaving s p h u) (A : Alike u.channel s x)
include L A

/-- The beginning of the hand-backs. -/
theorem stage_letGo : Stage s (letGo x u.channel ⟨p, h⟩) p h u.channel [] (List.finRange 4) := by
  have hatt : ∀ b, (x.setAtt ⟨p, h⟩ none).att b =
      if b = ⟨p, h⟩ then none else (s.att b).map (s.heard p (oneHandle h) []) := by
    intro b
    rw [att_setAtt, A.att, heard_nil, Option.map_id, id]
  have hmoves : Moves u.channel s (x.setAtt ⟨p, h⟩ none) (s.goneToll p (oneHandle h) u.channel [] []) := by
    rw [goneToll_nil]
    exact A.moves.trans (setAtt_moves _ _ _ _)
  have hlease : ∀ q, (x.setAtt ⟨p, h⟩ none).freshLease q = s.freshLease q :=
    fun q => (freshLease_of_work (setAtt_work x ⟨p, h⟩ none) q).trans (A.lease q)
  by_cases hw : ∃ w, (s.port p).parked = some w ∧ w.handle = h
  · obtain ⟨w, hw, hh⟩ := hw
    have hx : letGo x u.channel ⟨p, h⟩ = dropParked (x.setAtt ⟨p, h⟩ none) u.channel p w := by
      simp [letGo, A.parked, hw, hh]
    have hleft : ∀ q, (s.waiterOf q).any (leaves p (oneHandle h)) = decide (q = p) := by
      intro q
      rw [Bool.eq_iff_iff, waiter_leaves_iff, decide_eq_true_iff]
      exact and_iff_left ⟨w, hw, hh⟩
    have hreserved : ∀ i, s.slot p i = .reserved ↔ i = w.slot := by
      intro i
      have := (L.hands p).1 i
      rw [hw, Option.map_some, Option.some.injEq] at this
      exact this.trans eq_comm
    have hwaiters : s.waitersLeft p (oneHandle h) u.channel = (s.chan u.channel).waiters.filter (fun q => q != p) := by
      rw [State.waitersLeft]
      refine List.filter_congr (fun q _ => ?_)
      rw [hleft]
      by_cases hq : q = p <;> simp [hq]
    rw [hx]
    refine ⟨fun d => ?chan, fun r => ?msg, fun b => ?att, fun q r hr => absurd hr (by simp), fun q _ => ⟨?parked, fun i => ?slot⟩,
      fun q => ?lease, ?moves⟩
    case chan =>
      rw [chan_dropParked, chan_dropParked, if_pos rfl, chan_setAtt, A.chan, chan_setAtt, A.chan]
      by_cases hd : d = u.channel
      · rw [if_pos hd, if_pos hd, State.waitersAfter, State.listAfter, hwaiters]
        simp
      · rw [if_neg hd, if_neg hd]
    case msg => exact A.msg r
    case att => rw [att_dropParked, hatt]
    case parked =>
      rw [parked_dropParked, (setAtt_sameStores x ⟨p, h⟩ none).parked, A.parked, State.parkedLeft, hleft]
      by_cases hq : q = p <;> simp [hq]
    case slot =>
      rw [slot_dropParked, slot_setAtt, A.slot]
      by_cases hi : q = p ∧ i = w.slot
      · obtain ⟨rfl, rfl⟩ := hi
        have hr := (hreserved w.slot).mpr rfl
        simp [State.goingAt, State.slotLeft, hr, hleft]
      · rw [if_neg hi]
        refine slotLeft_of_parked (fun hr => ?_)
        rw [hleft, decide_eq_false_iff_not]
        rintro rfl
        exact hi ⟨rfl, (hreserved i).mp hr⟩
    case lease => exact (freshLease_of_work (dropParked_work _ _ _ _) q).trans (hlease q)
    case moves => exact hmoves.trans (dropParked_moves _ _ _ _)
  · have hx : letGo x u.channel ⟨p, h⟩ = x.setAtt ⟨p, h⟩ none := by
      unfold letGo
      rw [A.parked]
      split
      · next w he => exact if_neg (fun hh => hw ⟨w, he, hh⟩)
      · rfl
    have hleft : ∀ q, (s.waiterOf q).any (leaves p (oneHandle h)) = false := fun q =>
      Bool.eq_false_iff.mpr (fun hany => hw (waiter_leaves_iff.mp hany).2)
    have hwaiters : s.waitersLeft p (oneHandle h) u.channel = (s.chan u.channel).waiters := by
      simp [State.waitersLeft, hleft]
    rw [hx]
    refine ⟨fun d => ?chan, fun r => ?msg, hatt, fun q r hr => absurd hr (by simp), fun q _ => ⟨?parked, fun i => ?slot⟩,
      hlease, hmoves⟩
    case chan =>
      rw [chan_setAtt, chan_setAtt, A.chan, A.chan, State.waitersAfter, State.listAfter, hwaiters]
      split_ifs with hd <;> simp [hd]
    case msg => exact A.msg r
    case parked => rw [(setAtt_sameStores x ⟨p, h⟩ none).parked, A.parked, State.parkedLeft, hleft]; rfl
    case slot =>
      rw [slot_setAtt, A.slot]
      exact slotLeft_of_parked (fun _ => hleft q)

end

end Sys2Proof.Machine
end

section
/-! SUPPORT. DETACH (O19): the hand-back of one record. -/

namespace Sys2Proof.Machine

/-! ## The hand-back of one record -/

theorem requeues_iff {s : State} {c : ChanId} {r : RecId} :
    s.requeues c r = true ↔ (s.chan c).state = .opened ∧ (s.msg r).redelivery < 7 := by
  simp [State.requeues]

theorem unique_partner {α β : Type} {B : List α} {W : List β} (hW : W.Nodup) {a b : α} {w : β} (ha : (a, w) ∈ B.zip W)
    (hb : (b, w) ∈ B.zip W) : a = b := by
  induction B generalizing W with
  | nil => simp at ha
  | cons x B ih =>
    cases W with
    | nil => simp at ha
    | cons v W =>
      obtain ⟨hv, hW⟩ := List.nodup_cons.mp hW
      rw [List.zip_cons_cons, List.mem_cons] at ha hb
      rcases ha with ha | ha <;> rcases hb with hb | hb
      · rw [(Prod.mk.inj ha).1, (Prod.mk.inj hb).1]
      · exact absurd ((Prod.mk.inj ha).2 ▸ (List.of_mem_zip hb).2) hv
      · exact absurd ((Prod.mk.inj hb).2 ▸ (List.of_mem_zip ha).2) hv
      · exact ih hW ha hb

theorem comesBack_of_fanout {s : State} {c : ChanId} (hk : (s.chan c).kind = .fanout) (r : RecId) : s.comesBack c r = false := by
  simp [State.comesBack, hk]

theorem nothing_comes_back {s : State} {p : Port} {hs : Handle → Bool} {c : ChanId} (hk : (s.chan c).kind = .fanout) :
    s.comingBack p hs c = [] ∧ s.bindsBack p hs c = [] ∧ (∀ r, s.bindsAgain p hs c r = false) ∧
      ∀ r, s.arrivesBack p hs c r = false := by
  have hc : s.comingBack p hs c = [] := by
    rw [comingBack_eq, List.filter_eq_nil_iff]
    exact fun r _ => by simp [comesBack_of_fanout hk r]
  have hb : s.bindsBack p hs c = [] := by simp [State.bindsBack, hc]
  exact ⟨hc, hb, fun r => by simp [State.bindsAgain, hb], fun r => by simp [arrivesBack_eq, hc]⟩

namespace Leaving

variable {s : State} {p : Port} {h : Handle} {u : Attachment} (L : Leaving s p h u)
include L

theorem nodup_waitersLeft : (s.waitersLeft p (oneHandle h) u.channel).Nodup := (L.waiting.1 u.channel).1.filter _

/-- A waiter binds once. -/
theorem bindsBack_unique {r r' : RecId} {q : Port} (hr : (r, q) ∈ s.bindsBack p (oneHandle h) u.channel)
    (hr' : (r', q) ∈ s.bindsBack p (oneHandle h) u.channel) : r = r' := by
  unfold State.bindsBack at hr hr'
  split at hr
  · simp at hr
  · next hh =>
    rw [if_neg hh] at hr'
    exact unique_partner L.nodup_waitersLeft hr hr'

/-- A waiter that stays is parked through a CONSUMER or SUBSCRIBER of the channel, another than the one that goes. -/
theorem waiter_parked {q : Port} (hq : q ∈ s.waitersLeft p (oneHandle h) u.channel) : ∃ w v, (s.port q).parked = some w ∧
    s.att ⟨q, w.handle⟩ = some v ∧ v.channel = u.channel ∧ v.role ≠ .producer ∧
      (s.waiterOf q).any (leaves p (oneHandle h)) = false := by
  obtain ⟨hwait, hstays⟩ := List.mem_filter.mp hq
  have hon := (L.waiting.1 u.channel).2 q hwait
  unfold State.parkedOn at hon
  cases hw : (s.port q).parked with
  | none => rw [hw] at hon; simp at hon
  | some w =>
    rw [hw] at hon
    cases hv : s.att ⟨q, w.handle⟩ with
    | none => simp [hv] at hon
    | some v =>
      simp only [hv, Option.map_some, Option.some.injEq] at hon
      refine ⟨w, v, rfl, hv, hon, ?_, by simpa using hstays⟩
      have hany := (L.hands q).2 w (by rw [hw]; rfl)
      have hv' : (s.port q).attachments[w.handle] = some v := hv
      rw [hv'] at hany
      simpa using hany

section
variable {r : RecId} (hr : r ∈ s.lettingGo p (oneHandle h)) (hk : (s.chan u.channel).kind = .point)
include hr hk

theorem inHand_of_point : (s.msg r).state = .inHand := ((L.going hr).2.1 hk).2

theorem consumer_of_point : u.role = .consumer := ((L.going hr).2.1 hk).1

theorem handsFree_of_point : s.handsFree p (oneHandle h) r = !s.requeues u.channel r := by
  unfold State.handsFree State.freedBy
  rw [(L.going hr).1, L.inHand_of_point hr hk]
  dsimp only
  rw [hk]
  simp [hr]

theorem comesBack_of_point : s.comesBack u.channel r = s.requeues u.channel r := by
  simp [State.comesBack, (L.going hr).1, hk]

theorem notMem_list_of_point : r ∉ (s.chan u.channel).list := by
  intro hlist
  obtain ⟨-, hstate⟩ := (L.lists u.channel).2 r hlist
  rw [L.inHand_of_point hr hk] at hstate
  unfold listState at hstate
  split at hstate <;> exact absurd hstate (by simp)

/-- No outcome of a record in hand has been issued (R38). -/
theorem not_receipted_of_point : (s.msg r).receipted = false := by
  rw [← Bool.not_eq_true]
  intro hrec
  have := (L.states r).2 hrec
  rw [L.inHand_of_point hr hk] at this
  exact absurd this (by simp)

/-- The waiters of a POINT channel are its consumers at other ports. -/
theorem waiter_consumer {q : Port} (hq : q ∈ s.waitersLeft p (oneHandle h) u.channel) : q ≠ p ∧ ∃ w v,
    (s.port q).parked = some w ∧ s.att ⟨q, w.handle⟩ = some v ∧ v.role = .consumer ∧
      (s.waiterOf q).any (leaves p (oneHandle h)) = false := by
  obtain ⟨w, v, hw, hv, hchannel, hprod, hstays⟩ := L.waiter_parked hq
  have hsuit := L.roles.2 q w.handle v hv
  rw [hchannel, hk] at hsuit
  have hrole : v.role = .consumer := by
    cases hx : v.role with
    | producer => exact absurd hx hprod
    | consumer => rfl
    | subscriber => rw [hx] at hsuit; exact absurd hsuit (by decide)
  refine ⟨?_, w, v, hw, hv, hrole, hstays⟩
  rintro rfl
  have hsame := L.roles.1 q w.handle h v hv u L.att hchannel (hrole.trans (L.consumer_of_point hr hk).symm)
  have hany : (s.waiterOf q).any (leaves q (oneHandle h)) = true := waiter_leaves_iff.mpr ⟨rfl, w, hw, hsame⟩
  rw [hstays] at hany
  exact absurd hany (by simp)

end

section
variable {r : RecId} (hr : r ∈ s.lettingGo p (oneHandle h)) (hk : (s.chan u.channel).kind = .fanout)
include hr hk

theorem holder_of_fanout : ⟨p, h⟩ ∈ (s.msg r).holders := ((L.going hr).2.2 hk).2

theorem handsFree_of_fanout : s.handsFree p (oneHandle h) r = true ↔
    (s.msg r).state = .unlisted ∧ eraseRef ⟨p, h⟩ (s.msg r).holders = [] := by
  have hhold := L.holder_of_fanout hr hk
  obtain ⟨-, -, hmem⟩ := L.holders r
  obtain ⟨hstate, -⟩ := hmem _ hhold
  have hpend : (s.msg r).state ≠ .listed → (s.msg r).pending = [] := fun hne => by
    by_contra hp
    exact hne ((L.pending r).2.1.mp hp)
  unfold State.handsFree State.freedBy
  rw [(L.going hr).1]
  dsimp only
  rw [hk]
  simp only [leaves_oneHandle, List.any_append, Bool.and_eq_true, Bool.or_eq_true, bne_iff_ne, ne_eq, List.all_append,
    List.all_eq_true, beq_iff_eq, List.any_eq_true, eraseRef, List.filter_eq_nil_iff, not_not]
  constructor
  · rintro ⟨⟨⟨-, hdoomed⟩, hall, -⟩, hlisted⟩
    exact ⟨by tauto, hall⟩
  · rintro ⟨hun, hall⟩
    have hp := hpend (by simp [hun])
    exact ⟨⟨⟨Or.inl ⟨_, hhold, rfl⟩, by simp [hun]⟩, hall, by simp [hp]⟩, by simp [hun]⟩

end

theorem notMem_list_of_unlisted {r : RecId} (hun : (s.msg r).state = .unlisted) : r ∉ (s.chan u.channel).list := by
  intro hlist
  obtain ⟨-, hstate⟩ := (L.lists u.channel).2 r hlist
  rw [hun] at hstate
  unfold listState at hstate
  split at hstate <;> exact absurd hstate (by simp)

end Leaving

end Sys2Proof.Machine
end

section
/-! SUPPORT. DETACH (O19): from one stage of the hand-backs to the next. -/

namespace Sys2Proof.Machine

/-! ## One hand-back more -/

/-- At another port the slots stay. -/
theorem slotLeft_of_ne {s : State} {p q : Port} {h : Handle} {i : Slot} (hq : q ≠ p)
    (hw : (s.waiterOf q).any (leaves p (oneHandle h)) = false) : s.slotLeft p (oneHandle h) q i = s.slot q i := by
  unfold State.slotLeft
  cases s.slot q i with
  | empty => rfl
  | reserved => simp [hw]
  | holding r k t lease => simp [hq]

section
variable {s x : State} {p : Port} {h : Handle} {u : Attachment} {D E : List RecId} {rem : List Slot} {r : RecId}
  (L : Leaving s p h u) (S : Stage s x p h u.channel D rem) (hsplit : s.lettingGo p (oneHandle h) = D ++ r :: E)

include L hsplit in
theorem next_going : r ∈ s.lettingGo p (oneHandle h) ∧ r ∉ D ∧ ∀ q ∈ D, q ∈ s.lettingGo p (oneHandle h) := by
  have hn := L.nodup_going
  rw [hsplit] at hn
  refine ⟨by simp [hsplit], fun hD => ?_, fun q hq => by simp [hsplit, hq]⟩
  exact (List.nodup_append.mp hn).2.2 r hD r (by simp) rfl

include L S hsplit in
theorem Stage.msg_next : x.msg r = s.msg r := by
  rw [S.msg, if_neg (next_going L hsplit).2.1]

omit L S hsplit in
/-- A counter's mark in a state whose attachments have heard of the records that have come back (R148). -/
theorem wrapAfter_of_heard (hatt : ∀ b, x.att b = ((s.without p (oneHandle h)).att b).map (s.heard p (oneHandle h) D))
    {c : ChanId} (hname : (x.chan c).name = (s.chan c).name) {k : Counter} {n : Nat}
    (hk : x.counter c k = s.counter c k + BitVec.ofNat 16 n) (q : Port) :
    x.wrapAfter c k 0 q = (s.without p (oneHandle h)).wrapAfter c k n q := by
  have hevents : x.nearWrapEvents c k q = (s.without p (oneHandle h)).nearWrapEvents c k q := by
    refine eventsFor_congr hatt q (fun j v => ?_)
    obtain ⟨hchannel, -, hstats, -⟩ := heard_keeps s p (oneHandle h) D v
    rw [hchannel, hstats, hname, chan_without]
  have hcounter : (s.without p (oneHandle h)).counter c k = s.counter c k := rfl
  rw [State.wrapAfter, State.wrapAfter, hevents, hk, hcounter]
  simp

include S in
theorem Stage.wrapAfter {k : Counter} {n : Nat} (hk : x.counter u.channel k = s.counter u.channel k + BitVec.ofNat 16 n)
    (q : Port) : x.wrapAfter u.channel k 0 q = (s.without p (oneHandle h)).wrapAfter u.channel k n q :=
  wrapAfter_of_heard S.att_eq_without S.name hk q

include S in
theorem Stage.counter {k : Counter} : x.counter u.channel k = s.counter u.channel k +
    BitVec.ofNat 16 (s.risesFor u.channel D (D.filter (s.handsFree p (oneHandle h))) k) := by
  rw [S.moves.counters, if_pos rfl]
  simp [State.goneToll]

include S in
/-- What RETURNED's rise adds after the hand-backs before (R87, R148). -/
theorem Stage.returned_wrap (hk : (s.chan u.channel).kind = .point) (q : Port) : x.wrapAfter u.channel .returned 0 q =
    (s.without p (oneHandle h)).wrapAfter u.channel .returned (s.countOf u.channel D (fun _ => true)) q := by
  refine S.wrapAfter (S.counter.trans ?_) q
  simp [State.risesFor, hk, State.countOf]

section
variable (hk : (s.chan u.channel).kind = .point)
include L S hsplit hk

theorem Stage.discarded_wrap (q : Port) : (bump x u.channel .returned).wrapAfter u.channel .discarded 0 q =
    (s.without p (oneHandle h)).wrapAfter u.channel .discarded (s.countOf u.channel D (fun y => !s.requeues u.channel y)) q := by
  have hbump : (bump x u.channel .returned).wrapAfter u.channel .discarded 0 q = x.wrapAfter u.channel .discarded 0 q := by
    have hname : ((bump x u.channel .returned).chan u.channel).name = (x.chan u.channel).name := by
      rw [chan_bump, if_pos rfl]
    simp only [State.wrapAfter, counter_bump, State.nearWrapEvents, State.eventsFor, (bump_sameHands x _ _).att, hname]
    simp
  rw [hbump]
  refine S.wrapAfter (S.counter.trans ?_) q
  have hcount : (D.filter (s.handsFree p (oneHandle h))).countP (fun y => (s.msg y).channel == some u.channel) =
      s.countOf u.channel D (fun y => !s.requeues u.channel y) := by
    rw [List.countP_filter, State.countOf]
    refine List.countP_congr (fun y hy => ?_)
    rw [L.handsFree_of_point ((next_going L hsplit).2.2 y hy) hk]
  simp only [State.risesFor, hk, hcount]

theorem point_toll_freed (hq : ¬ s.requeues u.channel r = true) :
    (x.returnToll u.channel).append ((bump x u.channel .returned).freeToll u.channel r
      (if (x.chan u.channel).state = .opened then .poisoned else .discarded) 0) =
      s.handBackToll p (oneHandle h) u.channel D r := by
  obtain ⟨hr, -, -⟩ := next_going L hsplit
  have hchannel := (L.going hr).1
  have hrec := L.not_receipted_of_point hr hk
  have hfree : s.handsFree p (oneHandle h) r = true := by rw [L.handsFree_of_point hr hk]; simpa using hq
  have hmsg := S.msg_next L hsplit
  have hname : ((bump x u.channel .returned).chan u.channel).name = (s.chan u.channel).name := by
    rw [chan_bump, if_pos rfl]; exact S.name
  have hcounter : counterOf (if (x.chan u.channel).state = .opened then .poisoned else .discarded) = .discarded := by
    split <;> rfl
  refine Toll.ext_of ?_ (fun k => ?_) (fun q => ?_) (fun q => ?_)
  · simp [State.returnToll, State.freeToll, State.issueToll, Toll.append, State.handBackToll, bump_msg, hmsg, hrec, hfree,
      State.chainsOf]
  · simp only [State.returnToll, State.freeToll, State.issueToll, Toll.append, State.handBackToll, bump_msg, hmsg, hrec,
      hcounter, State.risesFor, hk]
    cases k <;> simp [hfree, hchannel]
  · simp only [State.returnToll, State.freeToll, State.issueToll, Toll.append, State.handBackToll, bump_msg, hmsg, hrec,
      State.receiptsAt, State.receiptOf, hname, S.state]
    by_cases hsrc : (s.msg r).ticket.source = q
    · have hfare : s.farewell r = s.receiptOf u.channel
          (if (s.chan u.channel).state = .opened then .poisoned else .discarded) 0 r := by
        unfold State.farewell
        rw [hchannel, hrec]
        dsimp only
        rw [hk]
        cases (s.chan u.channel).state <;> rfl
      simp [hfree, hsrc, hfare, State.receiptOf]
    · simp [hfree, hsrc, Ne.symm hsrc]
  · have hevents : s.handBackEvents p (oneHandle h) q D r =
        (s.without p (oneHandle h)).wrapAfter u.channel .returned (s.countOf u.channel D (fun _ => true)) q ++
        (s.without p (oneHandle h)).wrapAfter u.channel .discarded
          (s.countOf u.channel D (fun y => !s.requeues u.channel y)) q := by
      unfold State.handBackEvents
      rw [hchannel]
      dsimp only
      rw [hk]
      dsimp only
      rw [if_neg hq]
    simp [State.returnToll, State.freeToll, State.issueToll, Toll.append, State.handBackToll, bump_msg, hmsg, hrec,
      hcounter, hevents, S.returned_wrap hk, S.discarded_wrap L hsplit hk]

/-- What a hand-back adds where its record comes back: RETURNED's rise, and the events of the bind or the arrival. -/
theorem point_toll_back (hq : s.requeues u.channel r = true) {es : Port → List Event}
    (hes : ∀ q, es q = if s.arrivesBack p (oneHandle h) u.channel r then
        (s.without p (oneHandle h)).arrivalAfter u.channel (s.urgentsBack p (oneHandle h) u.channel D) (s.msg r).urgent q
      else if (s.bindsBack p (oneHandle h) u.channel).contains (r, q) then s.doneEvent u.channel q (s.msg r).ticket else []) :
    (x.returnToll u.channel).append (.ofEvents es) = s.handBackToll p (oneHandle h) u.channel D r := by
  obtain ⟨hr, -, -⟩ := next_going L hsplit
  have hchannel := (L.going hr).1
  have hfree : s.handsFree p (oneHandle h) r = false := by rw [L.handsFree_of_point hr hk, hq]; rfl
  refine Toll.ext_of ?_ (fun k => ?_) (fun q => ?_) (fun q => ?_)
  · simp [State.returnToll, Toll.ofEvents, Toll.append, State.handBackToll, hfree, State.chainsOf]
  · simp only [State.returnToll, Toll.ofEvents, Toll.append, State.handBackToll, State.risesFor, hk]
    cases k <;> simp [hfree, hchannel]
  · simp [State.returnToll, Toll.ofEvents, Toll.append, State.handBackToll, hfree, State.receiptsAt]
  · have hevents : s.handBackEvents p (oneHandle h) q D r =
        (s.without p (oneHandle h)).wrapAfter u.channel .returned (s.countOf u.channel D (fun _ => true)) q ++ es q := by
      unfold State.handBackEvents
      rw [hchannel, hes]
      dsimp only
      rw [hk]
      dsimp only
      rw [if_pos hq]
    simp [State.returnToll, Toll.ofEvents, Toll.append, State.handBackToll, hevents, S.returned_wrap hk]

/-- The record of a hand slot of a POINT channel is handed back. -/
theorem handBackRecord_of_point (a : AttRef) : handBackRecord x r a = (handBackPoint x u.channel r).1 := by
  obtain ⟨hr, -, -⟩ := next_going L hsplit
  unfold handBackRecord
  rw [S.msg_next L hsplit, (L.going hr).1]
  dsimp only
  rw [S.kind, hk]

omit S in
theorem notMem_listAfter_of_point : r ∉ s.listAfter p (oneHandle h) u.channel D := by
  obtain ⟨hr, hD, -⟩ := next_going L hsplit
  simp [State.listAfter, hD, L.notMem_list_of_point hr hk]

/-- A record that may not come back is freed (R84, R48). -/
theorem stage_point_freed (hq : ¬ s.requeues u.channel r = true) :
    Stage s (handBackRecord x r ⟨p, h⟩) p h u.channel (D ++ [r]) rem := by
  obtain ⟨hr, -, -⟩ := next_going L hsplit
  have hback : s.comesBack u.channel r = false := by
    rw [L.comesBack_of_point hr hk]; simpa using hq
  have hnotBack : r ∉ s.comingBack p (oneHandle h) u.channel := by
    rw [comingBack_eq, List.mem_filter, hback]; simp
  have harrive : s.arrivesBack p (oneHandle h) u.channel r = false := by simp [arrivesBack_eq, hnotBack]
  have hbind : ∀ q, (r, q) ∉ s.bindsBack p (oneHandle h) u.channel := fun q hb =>
    hnotBack (comingBack_of_bindsAgain (bindsAgain_iff.mpr ⟨q, hb⟩))
  have hno : ¬ ((x.chan u.channel).state = .opened ∧ (x.msg r).redelivery < 7) := by
    rw [S.state, S.msg_next L hsplit, ← requeues_iff]; exact hq
  obtain ⟨hw, hands, hm⟩ := handBackPoint_freed hno
  rw [point_toll_freed L S hsplit hk hq] at hm
  rw [handBackRecord_of_point L S hsplit hk]
  have hfree : s.handedBack p (oneHandle h) u.channel r = MsgRecord.free := by
    have : s.handsFree p (oneHandle h) r = true := by rw [L.handsFree_of_point hr hk]; simpa using hq
    simp [State.handedBack, this]
  have hlist : (x.chan u.channel).list.filter (fun y => y != r) = s.listAfter p (oneHandle h) u.channel (D ++ [r]) := by
    have hlist' : s.listAfter p (oneHandle h) u.channel (D ++ [r]) = s.listAfter p (oneHandle h) u.channel D := by
      simp [State.listAfter, harrive]
    rw [hlist', S.chan_self, List.filter_eq_self]
    rintro y hy
    rw [bne_iff_ne]
    rintro rfl
    exact notMem_listAfter_of_point L hsplit hk hy
  have hwaiters : (x.chan u.channel).waiters = s.waitersAfter p (oneHandle h) u.channel (D ++ [r]) := by
    rw [S.chan_self]
    simp [State.waitersAfter, hback]
  rw [hlist, ← hfree] at hw
  refine S.next (L.going hr).1 ⟨?_, hw.msg⟩ (fun b => ?_) (fun q hb => absurd hb (hbind q))
    (fun q _ => ⟨hands.parked q, hands.slot q⟩) (fun q hb => absurd hb (hbind q))
    (freshLease_of_work (handBackPoint_work x _ r)) hm
  · rw [← hwaiters]; exact hw.chan
  · rw [hands.att]; simp [harrive]

/-- A record that comes back to a waiter is bound to it (R101). -/
theorem stage_point_bound (hq : s.requeues u.channel r = true) (hheld : (s.chan u.channel).held = false)
    (hlt : (D.filter (s.comesBack u.channel)).length < (s.waitersLeft p (oneHandle h) u.channel).length) :
    Stage s (handBackRecord x r ⟨p, h⟩) p h u.channel (D ++ [r]) rem := by
  obtain ⟨hr, hD, -⟩ := next_going L hsplit
  have hback : s.comesBack u.channel r = true := by rw [L.comesBack_of_point hr hk]; exact hq
  obtain ⟨hopen, hred⟩ := requeues_iff.mp hq
  have hagain : s.bindsAgain p (oneHandle h) u.channel r = true :=
    (bindsAgain_split_iff hsplit L.nodup_going hback).mpr ⟨hheld, hlt⟩
  have harrive : s.arrivesBack p (oneHandle h) u.channel r = false := by simp [arrivesBack_eq, hagain]
  obtain ⟨q, hget⟩ : ∃ q, (s.waitersLeft p (oneHandle h) u.channel)[(D.filter (s.comesBack u.channel)).length]? = some q :=
    ⟨_, List.getElem?_eq_getElem hlt⟩
  have hpair : ∀ q', (r, q') ∈ s.bindsBack p (oneHandle h) u.channel ↔ q' = q := by
    intro q'
    rw [mem_bindsBack_split_iff hsplit L.nodup_going hback, hget, Option.some.injEq]
    simp [hheld, eq_comm]
  have hone : ∀ r' ∈ D, (r', q) ∉ s.bindsBack p (oneHandle h) u.channel := fun r' hr' hb =>
    hD (L.bindsBack_unique hb ((hpair q).mpr rfl) ▸ hr')
  obtain ⟨hqp, w, v, hw, hv, hrole, hstays⟩ := L.waiter_consumer hr hk (List.mem_of_getElem? hget)
  have hwaiters : (x.chan u.channel).waiters = q :: (s.waitersLeft p (oneHandle h) u.channel).drop
      ((D.filter (s.comesBack u.channel)).length + 1) := by
    rw [S.chan_self]
    show s.waitersAfter p (oneHandle h) u.channel D = _
    rw [State.waitersAfter, hheld, if_neg (by simp), List.drop_eq_getElem_cons hlt]
    rw [List.getElem?_eq_getElem hlt, Option.some.injEq] at hget
    rw [hget]
  obtain ⟨hpark, hslot⟩ := S.unbound q hone
  have hpark' : (x.port q).parked = some w := by rw [hpark, State.parkedLeft, hstays, if_neg (by simp), hw]
  have hmsg := S.msg_next L hsplit
  obtain ⟨hwrites, hatt, hparked, hslots, hm⟩ := handBackPoint_bound (s := x) (c := u.channel) (r := r)
    (by rw [S.state]; exact hopen) (by rw [hmsg]; exact hred) (by rw [S.held]; exact hheld) hwaiters hpark' (by
      intro v' hv'
      rw [S.att, if_neg (by rintro e; cases e; exact hqp rfl), hv] at hv'
      cases hv'
      rw [(heard_keeps s p (oneHandle h) D v).2.1, hrole]
      simp)
  rw [point_toll_back L S hsplit hk hq (fun q' => by
    rw [harrive, if_neg (by simp)]
    by_cases hqq : q' = q
    · subst hqq
      simp [State.bindEvents, (hpair q').mpr rfl, State.doneEvent, hw, hmsg, S.name, slotEvent]
    · have : (r, q') ∉ s.bindsBack p (oneHandle h) u.channel := fun hb => hqq ((hpair q').mp hb)
      simp [State.bindEvents, hqq, this])] at hm
  rw [handBackRecord_of_point L S hsplit hk]
  have hhanded : s.handedBack p (oneHandle h) u.channel r =
      { x.msg r with state := .inHand, redelivery := (x.msg r).redelivery + 1, expiring := false } := by
    have hfree : s.handsFree p (oneHandle h) r = false := by rw [L.handsFree_of_point hr hk, hq]; rfl
    have hstate := L.inHand_of_point hr hk
    rw [State.handedBack, hfree, hagain, hmsg, ← hstate]
    rfl
  have hlist : (r :: (x.chan u.channel).list).filter (fun y => y != r) =
      s.listAfter p (oneHandle h) u.channel (D ++ [r]) := by
    have hlist' : s.listAfter p (oneHandle h) u.channel (D ++ [r]) = s.listAfter p (oneHandle h) u.channel D := by
      simp [State.listAfter, harrive]
    rw [hlist', S.chan_self, List.filter_cons_of_neg (by simp), List.filter_eq_self]
    rintro y hy
    rw [bne_iff_ne]
    rintro rfl
    exact notMem_listAfter_of_point L hsplit hk hy
  have hwait : (x.chan u.channel).waiters.filter (fun y => y != q) =
      s.waitersAfter p (oneHandle h) u.channel (D ++ [r]) := by
    have hn : (q :: (s.waitersLeft p (oneHandle h) u.channel).drop
        ((D.filter (s.comesBack u.channel)).length + 1)).Nodup := by
      rw [← hwaiters, S.chan_self]
      show (s.waitersAfter p (oneHandle h) u.channel D).Nodup
      rw [State.waitersAfter, hheld, if_neg (by simp)]
      exact L.nodup_waitersLeft.drop
    rw [hwaiters, List.filter_cons_of_neg (by simp), List.filter_eq_self.mpr]
    · rw [State.waitersAfter, hheld, if_neg (by simp), List.filter_append, List.length_append]
      simp [hback]
    · rintro y hy
      rw [bne_iff_ne]
      rintro rfl
      exact (List.nodup_cons.mp hn).1 hy
  rw [hlist, hwait, ← hhanded] at hwrites
  refine S.next (L.going hr).1 hwrites (fun b => ?_) (fun q' hb w' hw' => ?_) (fun q' hb => ?_) (fun q' hb => ?_)
    (freshLease_of_work (handBackPoint_work x _ r)) hm
  · rw [hatt]; simp [harrive]
  · have hqq := (hpair q').mp hb
    subst hqq
    rw [hw] at hw'
    cases hw'
    refine ⟨by rw [hparked, if_pos rfl], fun i => ?_⟩
    rw [hslots, hmsg, S.lease]
    by_cases hi : i = w.slot
    · rw [if_pos ⟨rfl, hi⟩, if_pos hi]
    · rw [if_neg (fun h => hi h.2), if_neg hi, hslot, if_neg (fun h => hqp h.1)]
      exact slotLeft_of_ne hqp hstays
  · have hqq : q' ≠ q := fun e => hb ((hpair q').mpr e)
    exact ⟨by rw [hparked, if_neg hqq], fun i => by rw [hslots, if_neg (fun h => hqq h.1)]⟩
  · have hqq := (hpair q').mp hb
    subst hqq
    exact hone

/-- A record that nobody waits for is an arrival (R61). -/
theorem stage_point_arrives (hq : s.requeues u.channel r = true) (hno : ¬ ((s.chan u.channel).held = false ∧
      (D.filter (s.comesBack u.channel)).length < (s.waitersLeft p (oneHandle h) u.channel).length)) :
    Stage s (handBackRecord x r ⟨p, h⟩) p h u.channel (D ++ [r]) rem := by
  obtain ⟨hr, -, -⟩ := next_going L hsplit
  have hback : s.comesBack u.channel r = true := by rw [L.comesBack_of_point hr hk]; exact hq
  obtain ⟨hopen, hred⟩ := requeues_iff.mp hq
  have hagain : s.bindsAgain p (oneHandle h) u.channel r = false := by
    rw [← Bool.not_eq_true, bindsAgain_split_iff hsplit L.nodup_going hback]; exact hno
  have hmem := mem_comingBack_split hsplit L.nodup_going hback
  have harrive : s.arrivesBack p (oneHandle h) u.channel r = true := by simp [arrivesBack_eq, hagain, hmem]
  have hbind : ∀ q, (r, q) ∉ s.bindsBack p (oneHandle h) u.channel := fun q hb => by
    rw [bindsAgain_iff.mpr ⟨q, hb⟩] at hagain; exact absurd hagain (by simp)
  have hwaiters : (x.chan u.channel).waiters = s.waitersAfter p (oneHandle h) u.channel D := by rw [S.chan_self]
  have hnobody : (x.chan u.channel).held = true ∨ (x.chan u.channel).waiters = [] := by
    rw [S.held, hwaiters, State.waitersAfter]
    cases hheld : (s.chan u.channel).held with
    | true => exact Or.inl rfl
    | false =>
      right
      rw [if_neg (by simp), List.drop_eq_nil_iff]
      exact not_lt.mp (fun hlt => hno ⟨hheld, hlt⟩)
  have hmsg := S.msg_next L hsplit
  obtain ⟨hwrites, hatt, hparked, hslots, hm⟩ := handBackPoint_arrives (s := x) (c := u.channel) (r := r)
    (by rw [S.state]; exact hopen) (by rw [hmsg]; exact hred) hnobody
  rw [point_toll_back L S hsplit hk hq (fun q => by
    rw [harrive, if_pos rfl, hmsg]
    refine eventsFor_congr S.att_eq_without q (fun j v => ?_)
    obtain ⟨hchannel, hrole, -, -⟩ := heard_keeps s p (oneHandle h) D v
    have hin : (s.heard p (oneHandle h) D v).isIn u.channel .consumer = v.isIn u.channel .consumer := by
      rw [Attachment.isIn, hchannel, hrole, Attachment.isIn]
    rw [hin, S.name, chan_without]
    by_cases hi : v.isIn u.channel .consumer = true
    · have hv : s.heard p (oneHandle h) D v = v.afterArrivals (s.urgentsBack p (oneHandle h) u.channel D) := by
        simp only [Attachment.isIn, Bool.and_eq_true, beq_iff_eq] at hi
        rw [State.heard, if_pos hi.2, hi.1]
      rw [hv]
      rfl
    · simp [hi])] at hm
  rw [handBackRecord_of_point L S hsplit hk]
  have hhanded : s.handedBack p (oneHandle h) u.channel r =
      { x.msg r with state := .queued, redelivery := (x.msg r).redelivery + 1, expiring := false } := by
    have hfree : s.handsFree p (oneHandle h) r = false := by rw [L.handsFree_of_point hr hk, hq]; rfl
    rw [State.handedBack, hfree, hagain, hmsg]
    simp [hmem]
  have hlist : r :: (x.chan u.channel).list = s.listAfter p (oneHandle h) u.channel (D ++ [r]) := by
    rw [S.chan_self]
    simp [State.listAfter, harrive]
  have hwait : (x.chan u.channel).waiters = s.waitersAfter p (oneHandle h) u.channel (D ++ [r]) := by
    rcases hnobody with hh | hh
    · rw [S.held] at hh
      rw [hwaiters, State.waitersAfter, hh, if_pos rfl, State.waitersAfter, hh, if_pos rfl]
    · rw [hh]
      rw [hwaiters, State.waitersAfter] at hh
      rw [State.waitersAfter]
      split_ifs at hh ⊢
      · exact hh.symm
      · rw [List.drop_eq_nil_iff] at hh
        rw [eq_comm, List.drop_eq_nil_iff, List.filter_append, List.length_append]
        omega
  rw [hlist, ← hhanded] at hwrites
  refine S.next (L.going hr).1 ⟨?_, hwrites.msg⟩ (fun b => ?_) (fun q hb => absurd hb (hbind q))
    (fun q _ => ⟨hparked q, hslots q⟩) (fun q hb => absurd hb (hbind q))
    (freshLease_of_work (handBackPoint_work x _ r)) hm
  · rw [← hwait]; exact hwrites.chan
  · rw [hatt, hmsg]; simp [harrive]

/-- The hand-back of the next record of a POINT channel. -/
theorem stage_point : Stage s (handBackRecord x r ⟨p, h⟩) p h u.channel (D ++ [r]) rem := by
  by_cases hq : s.requeues u.channel r = true
  · by_cases hb : (s.chan u.channel).held = false ∧
        (D.filter (s.comesBack u.channel)).length < (s.waitersLeft p (oneHandle h) u.channel).length
    · exact stage_point_bound L S hsplit hk hq hb.1 hb.2
    · exact stage_point_arrives L S hsplit hk hq hb
  · exact stage_point_freed L S hsplit hk hq

end

end

end Sys2Proof.Machine
end

section
/-! SUPPORT. DETACH (O19): the free of a FANOUT record, and the hand-backs of one attachment (R19). -/

namespace Sys2Proof.Machine

/-! ## Frees of FANOUT records (R86, R121) -/

/-- What the free of a FANOUT record adds, however its holders and its pending set stand. -/
theorem freeToll_fanout {s z : State} {c : ChanId} {r : RecId} {holders pending : List AttRef}
    (hk : (s.chan c).kind = .fanout) (hchannel : (s.msg r).channel = some c)
    (hmsg : z.msg r = { s.msg r with holders := holders, pending := pending })
    (hname : (z.chan c).name = (s.chan c).name) : z.freeToll c r .delivered (s.msg r).taken =
      ⟨s.chainsOf [r], s.risesFor c [] [r], s.receiptsAt [r],
       fun q => if (s.msg r).receipted then [] else z.wrapAfter c .delivered 0 q⟩ := by
  have hfare : s.farewell r = if (s.msg r).receipted then [] else s.receiptOf c .delivered (s.msg r).taken r := by
    unfold State.farewell
    rw [hchannel]
    cases (s.msg r).receipted with
    | true => rfl
    | false => dsimp only; rw [hk]; rfl
  unfold State.freeToll State.issueToll
  rw [hmsg]
  cases hrec : (s.msg r).receipted with
  | true =>
    refine Toll.ext_of ?_ (fun k => ?_) (fun q => ?_) (fun q => ?_)
    · simp [Toll.append, Toll.zero, State.chainsOf]
    · simp only [if_true, Toll.append, Toll.zero, State.risesFor, hk]
      cases k <;> simp [hrec]
    · simp [Toll.append, Toll.zero, State.receiptsAt, List.filter_cons, hfare, hrec]
    · simp [Toll.append, Toll.zero]
  | false =>
    refine Toll.ext_of ?_ (fun k => ?_) (fun q => ?_) (fun q => ?_)
    · simp [Toll.append, State.chainsOf]
    · simp only [Toll.append, State.risesFor, hk, counterOf]
      cases k <;> simp [hrec, hchannel]
    · by_cases hq : (s.msg r).ticket.source = q
      · simp [Toll.append, State.receiptsAt, hfare, hrec, State.receiptOf, hmsg, hname, hq]
      · simp [Toll.append, State.receiptsAt, hq, Ne.symm hq]
    · simp [Toll.append, counterOf]

/-- What DELIVERED's rise queues, by the frees before it. -/
theorem deliveredEvents_eq {s : State} {p : Port} {hs : Handle → Bool} {q : Port} {before : List RecId} {r : RecId} {c : ChanId}
    (hchannel : (s.msg r).channel = some c) : s.deliveredEvents p hs q before r = if (s.msg r).receipted then [] else
      (s.without p hs).wrapAfter c .delivered (s.countOf c before (fun x => !(s.msg x).receipted)) q := by
  unfold State.deliveredEvents
  rw [hchannel]
  cases (s.msg r).receipted <;> rfl

section
variable {s x : State} {c : ChanId} {r : RecId} {a : AttRef}

/-- A record that a holder lets go. -/
def MsgRecord.letGo (m : MsgRecord) (a : AttRef) : MsgRecord := { m with holders := eraseRef a m.holders }

theorem releaseFanout_eq : releaseFanout x c r a =
    if (x.msg r).state = .unlisted ∧ eraseRef a (x.msg r).holders = [] then
      freeRecord (x.modMsg r (fun m => m.letGo a)) c r .delivered (x.msg r).taken
    else x.modMsg r (fun m => m.letGo a) := by
  have hm : (x.modMsg r (fun m => m.letGo a)).msg r = (x.msg r).letGo a := msg_modMsg_self _ _ _
  rw [show releaseFanout x c r a =
    (if ((x.modMsg r (fun m => m.letGo a)).msg r).state = .unlisted ∧
        ((x.modMsg r (fun m => m.letGo a)).msg r).holders.isEmpty then
      freeRecord (x.modMsg r (fun m => m.letGo a)) c r .delivered ((x.modMsg r (fun m => m.letGo a)).msg r).taken
    else x.modMsg r (fun m => m.letGo a)) from rfl, hm]
  simp only [MsgRecord.letGo, List.isEmpty_iff]

end

section
variable {s x : State} {p : Port} {h : Handle} {u : Attachment} {D E : List RecId} {rem : List Slot} {r : RecId}
  (L : Leaving s p h u) (S : Stage s x p h u.channel D rem) (hsplit : s.lettingGo p (oneHandle h) = D ++ r :: E)
  (hk : (s.chan u.channel).kind = .fanout)
include L S hsplit hk

/-- What the hand-back that frees the next record of a FANOUT channel adds. -/
theorem fanout_toll_freed (hfree : s.handsFree p (oneHandle h) r = true) :
    (x.modMsg r (fun m => m.letGo ⟨p, h⟩)).freeToll u.channel r .delivered (s.msg r).taken =
      s.handBackToll p (oneHandle h) u.channel D r := by
  obtain ⟨hr, -, hD⟩ := next_going L hsplit
  have hchannel := (L.going hr).1
  have hmsg := S.msg_next L hsplit
  have hz : (x.modMsg r (fun m => m.letGo ⟨p, h⟩)).msg r =
      { s.msg r with holders := eraseRef ⟨p, h⟩ (s.msg r).holders, pending := (s.msg r).pending } := by
    rw [msg_modMsg_self, hmsg]; rfl
  rw [freeToll_fanout hk hchannel hz (by rw [chan_modMsg]; exact S.name)]
  refine Toll.ext_of ?_ (fun k => ?_) (fun q => ?_) (fun q => ?_)
  · simp [State.handBackToll, hfree]
  · simp only [State.handBackToll, hfree, List.filter_cons_of_pos, List.filter_nil, State.risesFor, hk]
    cases k <;> rfl
  · simp [State.handBackToll, hfree]
  · have hin : r ∈ s.freedFromHands p (oneHandle h) := by
      rw [freedFromHands_eq, List.mem_filter]; exact ⟨hr, hfree⟩
    have hevents : s.handBackEvents p (oneHandle h) q D r = s.deliveredEvents p (oneHandle h) q
        (D.filter (s.freedFromHands p (oneHandle h)).contains) r := by
      unfold State.handBackEvents
      rw [hchannel]
      dsimp only
      rw [hk]
      dsimp only
      rw [if_pos (by simpa using hin)]
    have hD' : D.filter (s.freedFromHands p (oneHandle h)).contains = D.filter (s.handsFree p (oneHandle h)) := by
      refine List.filter_congr (fun y hy => ?_)
      rw [Bool.eq_iff_iff, List.contains_iff_mem, freedFromHands_eq, List.mem_filter]
      simp [hD y hy]
    have hwrap : (x.modMsg r (fun m => m.letGo ⟨p, h⟩)).wrapAfter u.channel .delivered 0 q =
        (s.without p (oneHandle h)).wrapAfter u.channel .delivered
          (s.countOf u.channel (D.filter (s.handsFree p (oneHandle h))) (fun y => !(s.msg y).receipted)) q := by
      refine (S.wrapAfter (S.counter.trans ?_) q)
      simp only [State.risesFor, hk]
      rfl
    simp only [State.handBackToll, hevents, hD', deliveredEvents_eq hchannel, hwrap]

/-- The hand-back of the next record of a FANOUT channel. -/
theorem stage_fanout : Stage s (handBackRecord x r ⟨p, h⟩) p h u.channel (D ++ [r]) rem := by
  obtain ⟨hr, -, -⟩ := next_going L hsplit
  obtain ⟨-, hbinds, hagain, harrives⟩ := nothing_comes_back (p := p) (hs := oneHandle h) hk
  have hchannel := (L.going hr).1
  have hmsg := S.msg_next L hsplit
  have hbody : handBackRecord x r ⟨p, h⟩ = releaseFanout x u.channel r ⟨p, h⟩ := by
    unfold handBackRecord
    rw [hmsg, hchannel]
    dsimp only
    rw [S.kind, hk]
  have hlist : s.listAfter p (oneHandle h) u.channel (D ++ [r]) = (x.chan u.channel).list := by
    rw [S.chan_self]
    simp [State.listAfter, harrives]
  have hwaiters : s.waitersAfter p (oneHandle h) u.channel (D ++ [r]) = (x.chan u.channel).waiters := by
    rw [S.chan_self]
    simp [State.waitersAfter, comesBack_of_fanout hk]
  have hgo := modMsg_writes x u.channel r (fun m => m.letGo ⟨p, h⟩)
  have hgoHands := modMsg_sameHands x r (fun m => m.letGo ⟨p, h⟩)
  have hfreeIff := L.handsFree_of_fanout hr hk
  rw [hbody]
  suffices hmain : Writes u.channel r x (releaseFanout x u.channel r ⟨p, h⟩) (x.chan u.channel)
      (s.handedBack p (oneHandle h) u.channel r) ∧ SameHands x (releaseFanout x u.channel r ⟨p, h⟩) ∧
      Moves u.channel x (releaseFanout x u.channel r ⟨p, h⟩) (s.handBackToll p (oneHandle h) u.channel D r) by
    obtain ⟨hw, hands, hm⟩ := hmain
    refine S.next hchannel ?_ (fun b => ?_) (fun q hb => absurd hb (by simp [hbinds]))
      (fun q _ => ⟨hands.parked q, hands.slot q⟩) (fun q hb => absurd hb (by simp [hbinds]))
      (freshLease_of_work (releaseFanout_work x _ r _)) hm
    · rw [hlist, hwaiters]; exact hw
    · rw [hands.att]; simp [harrives]
  rw [releaseFanout_eq, hmsg]
  by_cases hfree : s.handsFree p (oneHandle h) r = true
  · rw [if_pos (hfreeIff.mp hfree)]
    have htoll := fanout_toll_freed L S hsplit hk hfree
    have hw := hgo.trans (freeRecord_writes (x.modMsg r (fun m => m.letGo ⟨p, h⟩)) u.channel r .delivered (s.msg r).taken)
    have hsame : (x.chan u.channel).list.filter (fun y => y != r) = (x.chan u.channel).list := by
      rw [List.filter_eq_self, ← hlist]
      intro y hy
      rw [bne_iff_ne]
      rintro rfl
      have hy' : y ∈ (s.chan u.channel).list := by simpa [State.listAfter, harrives] using hy
      exact L.notMem_list_of_unlisted (hfreeIff.mp hfree).1 hy'
    rw [chan_modMsg, hsame] at hw
    have hhanded : s.handedBack p (oneHandle h) u.channel r = MsgRecord.free := by simp [State.handedBack, hfree]
    refine ⟨?_, hgoHands.trans (freeRecord_sameHands _ _ _ _ _), ?_⟩
    · rw [hhanded]; exact ⟨hw.chan, hw.msg⟩
    · exact ((modMsg_moves _ _ _ _).trans (freeRecord_moves _ _ _ _ _)).congr (by rw [Toll.zero_append, htoll])
  · rw [if_neg (fun hf => hfree (hfreeIff.mpr hf))]
    have hhanded : s.handedBack p (oneHandle h) u.channel r = (x.msg r).letGo ⟨p, h⟩ := by
      simp [State.handedBack, hfree, hagain, nothing_comes_back (p := p) (hs := oneHandle h) hk, hmsg, MsgRecord.letGo,
        eraseRef, bne]
    have htoll : s.handBackToll p (oneHandle h) u.channel D r = .zero := by
      have hnot : r ∉ s.freedFromHands p (oneHandle h) := by
        rw [freedFromHands_eq, List.mem_filter]; exact fun hf => hfree hf.2
      refine Toll.ext_of ?_ (fun k => ?_) (fun q => ?_) (fun q => ?_)
      · simp [State.handBackToll, hfree, State.chainsOf, Toll.zero]
      · simp only [State.handBackToll, State.risesFor, hk, Toll.zero]
        cases k <;> simp [hfree]
      · simp [State.handBackToll, hfree, State.receiptsAt, Toll.zero]
      · simp only [State.handBackToll, State.handBackEvents, hchannel, hk, Toll.zero]
        rw [if_neg (by simpa using hnot)]
    refine ⟨?_, hgoHands, ?_⟩
    · rw [hhanded]; exact hgo
    · rw [htoll]; exact modMsg_moves _ _ _ _

end

/-! ## The hand-backs of one attachment (R19) -/

section
variable {s x : State} {p : Port} {h : Handle} {u : Attachment} {D : List RecId} {rem : List Slot} {i : Slot}

/-- A hand slot that is looked at and whose attachment stays. -/
theorem Stage.skip (S : Stage s x p h u.channel D (i :: rem)) (hi : s.goingAt p (oneHandle h) i = none) :
    Stage s x p h u.channel D rem :=
  { S with
    unbound := fun q hq => by
      obtain ⟨hp, hs⟩ := S.unbound q hq
      refine ⟨hp, fun j => (hs j).trans (if_congr ?_ rfl rfl)⟩
      refine and_congr_right (fun _ => and_congr_left (fun hj => ?_))
      have hji : j ≠ i := by rintro rfl; simp [hi] at hj
      simp [hji] }

/-- A hand slot whose attachment goes is emptied. -/
theorem Stage.emptied (S : Stage s x p h u.channel D (i :: rem)) (hn : i ∉ rem)
    {r : RecId} (hi : s.goingAt p (oneHandle h) i = some r)
    (hfree : ∀ q, ∀ r' ∈ D, (r', q) ∈ s.bindsBack p (oneHandle h) u.channel → q ≠ p) :
    Stage s (x.setSlot p i .empty) p h u.channel D rem :=
  { S with
    chan := fun d => by rw [chan_setSlot, chan_setSlot]; exact S.chan d
    msg := fun r => S.msg r
    att := fun b => by rw [att_setSlot]; exact S.att b
    bound := fun q r' hr' hb w hw => by
      obtain ⟨hp, hs⟩ := S.bound q r' hr' hb w hw
      have hqp := hfree q r' hr' hb
      refine ⟨by rw [port_setSlot, if_neg hqp]; exact hp, fun j => ?_⟩
      rw [slot_setSlot, if_neg (fun e => hqp e.1)]
      exact hs j
    unbound := fun q hq => by
      obtain ⟨hp, hs⟩ := S.unbound q hq
      refine ⟨?_, fun j => ?_⟩
      · rw [← hp, port_setSlot]
        split_ifs with hqp
        · rw [hqp]
        · rfl
      · rw [slot_setSlot]
        by_cases hij : q = p ∧ j = i
        · obtain ⟨rfl, rfl⟩ := hij
          obtain ⟨k, t, lease, hslot, hk⟩ := goingAt_eq_some_iff.mp hi
          have hkh : k = h := by simpa [oneHandle] using hk
          rw [if_pos ⟨rfl, rfl⟩, if_neg (fun e => hn e.2.1), State.slotLeft, hslot]
          simp [hkh]
        · rw [if_neg hij, hs]
          refine if_congr (and_congr_right (fun hqp => and_congr_left (fun _ => ?_))) rfl rfl
          have hji : j ≠ i := fun e => hij ⟨hqp, e⟩
          simp [hji]
    lease := fun q => (freshLease_of_work (setSlot_work x p i .empty) q).trans (S.lease q)
    moves := (S.moves.trans (setSlot_moves _ _ _ _ _)).congr (Toll.append_zero _) }

/-- A record is bound at another port than the one that lets go. -/
theorem Leaving.bindsBack_ne (L : Leaving s p h u) {r : RecId} {q : Port}
    (hb : (r, q) ∈ s.bindsBack p (oneHandle h) u.channel) : q ≠ p := by
  have hcoming := comingBack_of_bindsAgain (bindsAgain_iff.mpr ⟨q, hb⟩)
  rw [comingBack_eq, List.mem_filter] at hcoming
  obtain ⟨hr, hback⟩ := hcoming
  have hk : (s.chan u.channel).kind = .point := by
    simp only [State.comesBack, Bool.and_eq_true, beq_iff_eq] at hback
    exact hback.1.2
  unfold State.bindsBack at hb
  split at hb
  · simp at hb
  · exact (L.waiter_consumer hr hk (List.of_mem_zip hb).2).1

/-- The next slot that is looked at (R19). -/
def lookAt (x : State) (a : AttRef) (i : Slot) : State :=
  match x.slot a.port i with
  | .holding _ h _ _ => if h = a.handle then handBackSlot x a.port i else x
  | _ => x

theorem handBackThrough_eq (x : State) (a : AttRef) : handBackThrough x a = (List.finRange 4).foldl (fun s i => lookAt s a i) x :=
  rfl

section
variable (L : Leaving s p h u)
include L

theorem stage_lookAt (S : Stage s x p h u.channel D (i :: rem)) (hn : i ∉ rem)
    (hsplit : s.lettingGo p (oneHandle h) = D ++ (i :: rem).filterMap (s.goingAt p (oneHandle h))) :
    Stage s (lookAt x ⟨p, h⟩ i) p h u.channel (D ++ (s.goingAt p (oneHandle h) i).toList) rem := by
  obtain ⟨-, hslots⟩ := S.unbound p (fun r _ hb => L.bindsBack_ne hb rfl)
  have hslot := hslots i
  cases hi : s.goingAt p (oneHandle h) i with
  | none =>
    have hstay : lookAt x ⟨p, h⟩ i = x := by
      rw [if_neg (by simp [hi])] at hslot
      unfold lookAt
      rw [hslot]
      unfold State.slotLeft
      cases hs : s.slot p i with
      | empty => rfl
      | reserved => by_cases hw : (s.waiterOf p).any (leaves p (oneHandle h)) = true <;> simp [hw]
      | holding r k t lease =>
        have hk : k ≠ h := by
          rintro rfl
          simp [State.goingAt, hs, oneHandle] at hi
        simp [hk]
    rw [hstay, Option.toList_none, List.append_nil]
    exact S.skip hi
  | some r =>
    have hs' : x.slot p i = s.slot p i := by
      rw [if_pos ⟨rfl, by simp, by simp [hi]⟩] at hslot
      exact hslot
    obtain ⟨k, t, lease, hs, hk⟩ := goingAt_eq_some_iff.mp hi
    have hkh : k = h := by simpa [oneHandle] using hk
    subst hkh
    have hback : lookAt x ⟨p, k⟩ i = handBackRecord (x.setSlot p i .empty) r ⟨p, k⟩ := by
      unfold lookAt handBackSlot
      simp only [hs', hs, if_true]
    rw [List.filterMap_cons, hi] at hsplit
    rw [hback, Option.toList_some]
    have hE := S.emptied hn hi (fun q r' _ hb => L.bindsBack_ne hb)
    cases hkind : (s.chan u.channel).kind with
    | point => exact stage_point L hE hsplit hkind
    | fanout => exact stage_fanout L hE hsplit hkind

/-- All the hand-backs of an attachment (R19). -/
theorem stage_handBacks (S : Stage s x p h u.channel D rem) (hn : rem.Nodup)
    (hsplit : s.lettingGo p (oneHandle h) = D ++ rem.filterMap (s.goingAt p (oneHandle h))) :
    Stage s (rem.foldl (fun s i => lookAt s ⟨p, h⟩ i) x) p h u.channel (s.lettingGo p (oneHandle h)) [] := by
  induction rem generalizing x D with
  | nil =>
    rw [List.filterMap_nil, List.append_nil] at hsplit
    rw [hsplit]
    exact S
  | cons i rem ih =>
    obtain ⟨hi, hrem⟩ := List.nodup_cons.mp hn
    refine ih (stage_lookAt L S hi hsplit) hrem ?_
    rw [hsplit, List.filterMap_cons]
    cases s.goingAt p (oneHandle h) i <;> simp

theorem stage_handBackThrough {y : State} (A : Alike u.channel s y) :
    Stage s (handBackThrough (letGo y u.channel ⟨p, h⟩) ⟨p, h⟩) p h u.channel (s.lettingGo p (oneHandle h)) [] := by
  rw [handBackThrough_eq]
  exact stage_handBacks L (stage_letGo L A) (List.nodup_finRange 4) rfl

end

end

end Sys2Proof.Machine
end

section
/-! SUPPORT. DETACH (O19): the records once the pending sets have been left (R20). -/

namespace Sys2Proof.Machine

/-! ## The records once the pending sets have been left (R20) -/

/-- A message record once the attachments have gone, before its channel closes, if it does. -/
def State.recordMid (s : State) (p : Port) (hs : Handle → Bool) (r : RecId) : MsgRecord :=
  let m := s.msg r
  match m.channel with
  | none => m
  | some c =>
    if s.freedBy p hs r then MsgRecord.free
    else if s.bindsAgain p hs c r then { m with redelivery := m.redelivery + 1, expiring := false }
    else if (s.comingBack p hs c).contains r then
      { m with state := .queued, redelivery := m.redelivery + 1, expiring := false }
    else
      let holders := m.holders.filter (fun a => !leaves p hs a)
      let pending := m.pending.filter (fun a => !leaves p hs a)
      if m.state = .listed ∧ pending = [] then
        { m with state := .unlisted, holders := holders, pending := [], expiring := false }
      else { m with holders := holders, pending := pending }

/-- A record stays in its list when the attachments go (R20). -/
def State.stays (s : State) (p : Port) (hs : Handle → Bool) (r : RecId) : Bool :=
  (s.msg r).state != .listed || (s.msg r).pending.any (fun a => !leaves p hs a)

theorem filter_notLeaves (p : Port) (h : Handle) (l : List AttRef) :
    l.filter (fun a => !leaves p (oneHandle h) a) = eraseRef ⟨p, h⟩ l := by
  simp [eraseRef, bne]

theorem eraseRef_of_notMem {a : AttRef} {l : List AttRef} (h : a ∉ l) : eraseRef a l = l := by
  rw [eraseRef, List.filter_eq_self]
  intro b hb
  rw [bne_iff_ne]
  rintro rfl
  exact h hb

theorem stays_iff {s : State} {p : Port} {h : Handle} {r : RecId} : s.stays p (oneHandle h) r = true ↔
    ((s.msg r).state = .listed → eraseRef ⟨p, h⟩ (s.msg r).pending ≠ []) := by
  unfold State.stays
  rw [Bool.or_eq_true, bne_iff_ne, ← or_iff_not_imp_left.symm.trans Iff.rfl]
  simp [eraseRef, List.filter_eq_nil_iff]

theorem recordMid_of_channel {s : State} {p : Port} {h : Handle} {r : RecId} {c : ChanId}
    (hchannel : (s.msg r).channel = some c) : s.recordMid p (oneHandle h) r =
      if s.freedBy p (oneHandle h) r then MsgRecord.free
      else if s.bindsAgain p (oneHandle h) c r then { s.msg r with redelivery := (s.msg r).redelivery + 1, expiring := false }
      else if (s.comingBack p (oneHandle h) c).contains r then
        { s.msg r with state := .queued, redelivery := (s.msg r).redelivery + 1, expiring := false }
      else if (s.msg r).state = .listed ∧ eraseRef ⟨p, h⟩ (s.msg r).pending = [] then
        { s.msg r with state := .unlisted, holders := eraseRef ⟨p, h⟩ (s.msg r).holders, pending := [], expiring := false }
      else { s.msg r with holders := eraseRef ⟨p, h⟩ (s.msg r).holders, pending := eraseRef ⟨p, h⟩ (s.msg r).pending } := by
  unfold State.recordMid
  dsimp only
  rw [hchannel]
  dsimp only
  rw [filter_notLeaves, filter_notLeaves]

namespace Leaving

variable {s : State} {p : Port} {h : Handle} {u : Attachment} (L : Leaving s p h u) {r : RecId}
include L

/-- A record that the attachment neither holds nor awaits does not hear of its going. -/
theorem recordMid_of_absent (hgo : r ∉ s.lettingGo p (oneHandle h)) (hpend : ⟨p, h⟩ ∉ (s.msg r).pending) :
    s.recordMid p (oneHandle h) r = s.msg r := by
  have hhold : ⟨p, h⟩ ∉ (s.msg r).holders := fun hh => hgo (L.mem_going_of_holder hh)
  have hcoming : ∀ c, r ∉ s.comingBack p (oneHandle h) c := fun c hc => hgo (List.mem_filter.mp hc).1
  have hagain : ∀ c, s.bindsAgain p (oneHandle h) c r = false := fun c => by
    rw [← Bool.not_eq_true]; exact fun hb => hcoming c (comingBack_of_bindsAgain hb)
  have hfree : s.freedBy p (oneHandle h) r = false := by
    unfold State.freedBy
    split
    · rfl
    · split
      · simp [hgo]
      · rw [Bool.and_assoc, Bool.and_eq_false_iff]
        left
        rw [List.any_eq_false]
        intro b hb
        rw [leaves_oneHandle, beq_iff_eq]
        rintro rfl
        rcases List.mem_append.mp hb with hb | hb
        · exact hhold hb
        · exact hpend hb
  cases hchannel : (s.msg r).channel with
  | none => simp only [State.recordMid, hchannel]
  | some c =>
    rw [recordMid_of_channel hchannel, hfree, hagain, if_neg (by simp), if_neg (by simp), if_neg (by simpa using hcoming c),
      eraseRef_of_notMem hhold, eraseRef_of_notMem hpend, if_neg]
    rintro ⟨hlisted, hnil⟩
    exact ((L.pending r).2.1.mpr hlisted) hnil

/-- A record that the attachment lets go is as its hand-back leaves it. -/
theorem recordMid_of_going (hgo : r ∈ s.lettingGo p (oneHandle h)) :
    s.recordMid p (oneHandle h) r = s.handedBack p (oneHandle h) u.channel r := by
  have hchannel := (L.going hgo).1
  have hpend : ⟨p, h⟩ ∉ (s.msg r).pending := fun hp => (L.awaiting hp).2.2.2.2 hgo
  have hne : (s.msg r).state = .listed → (s.msg r).pending ≠ [] := (L.pending r).2.1.mpr
  have hfree : s.handsFree p (oneHandle h) r = s.freedBy p (oneHandle h) r := by
    unfold State.handsFree
    by_cases hlisted : (s.msg r).state = .listed
    · have hno : s.freedBy p (oneHandle h) r = false := by
        unfold State.freedBy
        rw [hchannel]
        dsimp only
        cases hk : (s.chan u.channel).kind with
        | point => rw [L.inHand_of_point hgo hk] at hlisted; exact absurd hlisted (by simp)
        | fanout =>
          obtain ⟨b, hb⟩ := List.exists_mem_of_ne_nil _ (hne hlisted)
          dsimp only
          rw [Bool.and_eq_false_iff]
          right
          rw [List.all_eq_false]
          refine ⟨b, List.mem_append_right _ hb, ?_⟩
          rw [leaves_oneHandle, beq_iff_eq]
          rintro rfl
          exact hpend hb
      simp [hno]
    · simp [hlisted]
  have hstay : ¬ ((s.msg r).state = .listed ∧ (s.msg r).pending = []) := fun hl => hne hl.1 hl.2
  rw [recordMid_of_channel hchannel, State.handedBack]
  dsimp only
  rw [hfree, filter_notLeaves, eraseRef_of_notMem hpend, if_neg hstay]

/-- A record that the attachment awaits stands in its channel's list, and nobody's hand brings it back. -/
theorem recordMid_of_awaited (hpend : ⟨p, h⟩ ∈ (s.msg r).pending) (hk : (s.chan u.channel).kind = .fanout) :
    (s.freedBy p (oneHandle h) r = true ↔ eraseRef ⟨p, h⟩ (s.msg r).pending = [] ∧ (s.msg r).holders = []) ∧
    s.recordMid p (oneHandle h) r =
      if eraseRef ⟨p, h⟩ (s.msg r).pending = [] then
        if (s.msg r).holders = [] then MsgRecord.free
        else { s.msg r with state := .unlisted, pending := [], expiring := false }
      else { s.msg r with pending := eraseRef ⟨p, h⟩ (s.msg r).pending } := by
  obtain ⟨-, hchannel, hlisted, -, hgo⟩ := L.awaiting hpend
  have hhold : ⟨p, h⟩ ∉ (s.msg r).holders := fun hh => hgo (L.mem_going_of_holder hh)
  obtain ⟨hcoming, -, hagain, -⟩ := nothing_comes_back (p := p) (hs := oneHandle h) hk
  have hfree : s.freedBy p (oneHandle h) r = true ↔
      eraseRef ⟨p, h⟩ (s.msg r).pending = [] ∧ (s.msg r).holders = [] := by
    unfold State.freedBy
    rw [hchannel]
    dsimp only
    rw [hk]
    simp only [leaves_oneHandle, hlisted, List.any_append, List.all_append, Bool.and_eq_true, List.all_eq_true, beq_iff_eq,
      eraseRef, List.filter_eq_nil_iff, bne_iff_ne, ne_eq, not_not]
    constructor
    · rintro ⟨-, hh, hp⟩
      exact ⟨hp, List.eq_nil_iff_forall_not_mem.mpr (fun b hb => hhold (hh b hb ▸ hb))⟩
    · rintro ⟨hp, hh⟩
      refine ⟨⟨?_, by simp⟩, by simp [hh], hp⟩
      rw [Bool.or_eq_true, List.any_eq_true, List.any_eq_true]
      exact Or.inr ⟨_, hpend, by simp⟩
  refine ⟨hfree, ?_⟩
  rw [recordMid_of_channel hchannel, hagain, hcoming, eraseRef_of_notMem hhold]
  by_cases he : eraseRef ⟨p, h⟩ (s.msg r).pending = []
  · by_cases hh : (s.msg r).holders = []
    · rw [if_pos (hfree.mpr ⟨he, hh⟩), if_pos he, if_pos hh]
    · rw [if_neg (fun hf => hh (hfree.mp hf).2)]
      simp [he, hh, hlisted]
  · rw [if_neg (fun hf => he (hfree.mp hf).1)]
    simp [he]

/-- Nothing of the attachment is left in the pending sets. -/
theorem notMem_pending_recordMid (hpend : ⟨p, h⟩ ∉ (s.msg r).pending) :
    ⟨p, h⟩ ∉ (s.recordMid p (oneHandle h) r).pending := by
  by_cases hgo : r ∈ s.lettingGo p (oneHandle h)
  · rw [L.recordMid_of_going hgo]
    unfold State.handedBack
    dsimp only
    split_ifs
    · simp [MsgRecord.free]
    · exact hpend
    · exact hpend
    · exact hpend
  · rw [L.recordMid_of_absent hgo hpend]
    exact hpend

theorem stays_of_notAwaited (hpend : ⟨p, h⟩ ∉ (s.msg r).pending) : s.stays p (oneHandle h) r = true := by
  rw [stays_iff, eraseRef_of_notMem hpend]
  exact (L.pending r).2.1.mpr

theorem fanout_of_subscriber (hu : u.role = .subscriber) : (s.chan u.channel).kind = .fanout := by
  have hsuit := L.roles.2 p h u L.att
  rw [hu] at hsuit
  cases hk : (s.chan u.channel).kind with
  | point => rw [hk] at hsuit; exact absurd hsuit (by decide)
  | fanout => rfl

end Leaving

end Sys2Proof.Machine
end

section
/-! SUPPORT. DETACH (O19): the leaving of the pending sets, in list order (R20). -/

namespace Sys2Proof.Machine

/-! ## Leaving the pending sets, in list order (R20) -/

/-- The attachment leaves the pending set of one record. -/
def settleWithout (c : ChanId) (a : AttRef) (x : State) (r : RecId) : State :=
  if (x.msg r).pending.contains a then
    settlePending (x.modMsg r (fun m => { m with pending := eraseRef a m.pending })) c r
  else x

theorem leavePending_eq (x : State) (c : ChanId) (a : AttRef) :
    leavePending x c a = (x.chan c).list.foldl (settleWithout c a) x := rfl

theorem settlePending_eq {z : State} {c : ChanId} {r : RecId} : settlePending z c r =
    if (z.msg r).pending = [] then
      if (z.msg r).holders = [] then freeRecord z c r .delivered (z.msg r).taken else unlist z c r
    else z := by
  simp only [settlePending, List.isEmpty_iff]

theorem unlist_writes (z : State) (c : ChanId) (r : RecId) : Writes c r z (unlist z c r)
    { z.chan c with list := (z.chan c).list.filter (fun y => y != r) }
    { z.msg r with state := .unlisted, pending := [], expiring := false } := by
  have h := (modChan_writes z c r (fun ch => { ch with list := ch.list.filter (fun y => y != r) })).trans
    (modMsg_writes (leaveList z c r) c r (fun m => { m with state := .unlisted, pending := [], expiring := false }))
  rw [leaveList, msg_modChan, chan_modChan_self] at h
  exact ⟨h.chan, h.msg⟩

theorem unlist_moves (z : State) (c : ChanId) (r : RecId) : Moves c z (unlist z c r) .zero :=
  (modChan_moves c z c (fun ch => { ch with list := ch.list.filter (fun y => y != r) }) rfl).trans
    (modMsg_moves c (leaveList z c r) r (fun m => { m with state := .unlisted, pending := [], expiring := false }))

theorem settleWithout_sameHands (c : ChanId) (a : AttRef) (x : State) (r : RecId) : SameHands x (settleWithout c a x r) := by
  unfold settleWithout
  split
  · rw [settlePending_eq]
    split
    · split
      · exact (modMsg_sameHands x r _).trans (freeRecord_sameHands _ _ _ _ _)
      · exact sameHands_of_ports rfl
    · exact modMsg_sameHands x r _
  · exact .refl x

/-- A record of a list is freed as the pending sets are left. -/
def State.listFrees (s : State) (p : Port) (h : Handle) (r : RecId) : Bool :=
  s.freedBy p (oneHandle h) r && (s.msg r).pending.contains ⟨p, h⟩

/-- From `s` to `x` the attachment ⟨p, h⟩ of channel `c` has gone, all it held has been handed back, which left `x₀`, and the
pending sets of the records `done` have been left. -/
structure Sweep (s x₀ x : State) (p : Port) (h : Handle) (c : ChanId) (done : List RecId) : Prop where
  hands : SameHands x₀ x
  chan : ∀ d, x.chan d = if d = c then { s.chan c with
    list := ((s.lettingGo p (oneHandle h)).filter (s.arrivesBack p (oneHandle h) c)).reverse ++
      (s.chan c).list.filter (fun r => !done.contains r || s.stays p (oneHandle h) r)
    waiters := s.waitersAfter p (oneHandle h) c (s.lettingGo p (oneHandle h)), stats := (x.chan c).stats }
    else s.chan d
  msg : ∀ r, x.msg r = if ⟨p, h⟩ ∈ (s.msg r).pending ∧ r ∉ done then s.msg r else s.recordMid p (oneHandle h) r
  moves : Moves c s x (s.goneToll p (oneHandle h) c (s.lettingGo p (oneHandle h)) (done.filter (s.listFrees p h)))

section
variable {s x₀ x : State} {p : Port} {h : Handle} {u : Attachment} (L : Leaving s p h u)
  (S : Stage s x₀ p h u.channel (s.lettingGo p (oneHandle h)) [])
include L S

theorem sweep_start : Sweep s x₀ x₀ p h u.channel [] where
  hands := .refl x₀
  chan d := by
    rw [S.chan d]
    simp only [State.listAfter, List.contains_nil, Bool.not_false, Bool.true_or, List.filter_true]
  msg r := by
    rw [S.msg]
    by_cases hgo : r ∈ s.lettingGo p (oneHandle h)
    · rw [if_pos hgo, if_neg (fun hp => (L.awaiting hp.1).2.2.2.2 hgo), L.recordMid_of_going hgo]
    · rw [if_neg hgo]
      split_ifs with hp
      · rfl
      · rw [L.recordMid_of_absent hgo (fun hp' => hp ⟨hp', by simp⟩)]
  moves := S.moves

variable {done : List RecId} {r : RecId} (W : Sweep s x₀ x p h u.channel done)
include W

omit L S in
theorem Sweep.chan_self : x.chan u.channel = { s.chan u.channel with
    list := ((s.lettingGo p (oneHandle h)).filter (s.arrivesBack p (oneHandle h) u.channel)).reverse ++
      (s.chan u.channel).list.filter (fun r => !done.contains r || s.stays p (oneHandle h) r)
    waiters := s.waitersAfter p (oneHandle h) u.channel (s.lettingGo p (oneHandle h)), stats := (x.chan u.channel).stats } :=
  (W.chan u.channel).trans (if_pos rfl)

omit S in
/-- A record whose pending set the attachment does not stand in is passed over. -/
theorem Sweep.skip (hpend : ⟨p, h⟩ ∉ (s.msg r).pending) :
    Sweep s x₀ (settleWithout u.channel ⟨p, h⟩ x r) p h u.channel (done ++ [r]) := by
  have hx : settleWithout u.channel ⟨p, h⟩ x r = x := by
    have hno : ⟨p, h⟩ ∉ (x.msg r).pending := by
      rw [W.msg, if_neg (fun hp => hpend hp.1)]
      exact L.notMem_pending_recordMid hpend
    rw [settleWithout, if_neg (by simpa using hno)]
  rw [hx]
  refine ⟨W.hands, fun d => ?_, fun q => ?_, ?_⟩
  · rw [W.chan]
    split
    · have hlist : ∀ y, (!(done ++ [r]).contains y || s.stays p (oneHandle h) y) =
          (!done.contains y || s.stays p (oneHandle h) y) := by
        intro y
        by_cases hy : y = r
        · subst hy; simp [L.stays_of_notAwaited hpend]
        · simp [hy]
      simp only [hlist]
    · rfl
  · rw [W.msg]
    refine if_congr (and_congr_right (fun hq => ?_)) rfl rfl
    have hqr : q ≠ r := by rintro rfl; exact hpend hq
    simp [hqr]
  · refine W.moves.congr ?_
    rw [List.filter_append]
    simp [State.listFrees, hpend]

/-- What the free of a record adds as its pending set is left. -/
theorem Sweep.toll (hk : (s.chan u.channel).kind = .fanout) (hpend : ⟨p, h⟩ ∈ (s.msg r).pending) (hr : r ∉ done) :
    (x.modMsg r (fun m => { m with pending := eraseRef ⟨p, h⟩ m.pending })).freeToll u.channel r .delivered (s.msg r).taken =
      s.listFreeToll p (oneHandle h) u.channel (done.filter (s.listFrees p h)) r := by
  obtain ⟨-, hchannel, -, -, -⟩ := L.awaiting hpend
  have hmsg : x.msg r = s.msg r := by rw [W.msg, if_pos ⟨hpend, hr⟩]
  have hname : (x.chan u.channel).name = (s.chan u.channel).name := by rw [Sweep.chan_self W]
  have hz : (x.modMsg r (fun m => { m with pending := eraseRef ⟨p, h⟩ m.pending })).msg r =
      { s.msg r with holders := (s.msg r).holders, pending := eraseRef ⟨p, h⟩ (s.msg r).pending } := by
    rw [msg_modMsg_self, hmsg]
  rw [freeToll_fanout hk hchannel hz (by rw [chan_modMsg]; exact hname)]
  refine Toll.ext_of rfl (fun k => rfl) (fun q => rfl) (fun q => ?_)
  have hwrap : (x.modMsg r (fun m => { m with pending := eraseRef ⟨p, h⟩ m.pending })).wrapAfter u.channel .delivered 0 q =
      (s.without p (oneHandle h)).wrapAfter u.channel .delivered (s.countOf u.channel
        (s.freedFromHands p (oneHandle h) ++ done.filter (s.listFrees p h)) (fun y => !(s.msg y).receipted)) q := by
    refine wrapAfter_of_heard (x := x) (D := s.lettingGo p (oneHandle h)) (fun b => ?_) hname ?_ q
    · rw [W.hands.att]; exact S.att_eq_without b
    · rw [W.moves.counters, if_pos rfl]
      simp only [State.goneToll, State.risesFor, hk]
      rfl
  simp only [State.listFreeToll, deliveredEvents_eq hchannel, hwrap]

/-- A record whose pending set the attachment leaves (R20). -/
theorem Sweep.settle (hk : (s.chan u.channel).kind = .fanout) (hpend : ⟨p, h⟩ ∈ (s.msg r).pending) (hr : r ∉ done) :
    Sweep s x₀ (settleWithout u.channel ⟨p, h⟩ x r) p h u.channel (done ++ [r]) := by
  obtain ⟨-, hchannel, hlisted, hlist, hgo⟩ := L.awaiting hpend
  obtain ⟨hfreeIff, hmid⟩ := L.recordMid_of_awaited hpend hk
  obtain ⟨-, -, -, harrives⟩ := nothing_comes_back (p := p) (hs := oneHandle h) hk
  have hmsg : x.msg r = s.msg r := by rw [W.msg, if_pos ⟨hpend, hr⟩]
  have hz := modMsg_writes x u.channel r (fun m => { m with pending := eraseRef ⟨p, h⟩ m.pending })
  rw [hmsg] at hz
  have hstays : s.stays p (oneHandle h) r = true ↔ eraseRef ⟨p, h⟩ (s.msg r).pending ≠ [] := by
    rw [stays_iff]; simp [hlisted]
  suffices hmain : Writes u.channel r x (settleWithout u.channel ⟨p, h⟩ x r)
      { x.chan u.channel with list := (x.chan u.channel).list.filter (fun y => y != r || s.stays p (oneHandle h) r) }
      (s.recordMid p (oneHandle h) r) ∧
      Moves u.channel x (settleWithout u.channel ⟨p, h⟩ x r) (if s.freedBy p (oneHandle h) r = true then
        s.listFreeToll p (oneHandle h) u.channel (done.filter (s.listFrees p h)) r else .zero) by
    obtain ⟨hw, hm⟩ := hmain
    refine ⟨W.hands.trans (settleWithout_sameHands _ _ x r), fun d => ?_, fun q => ?_, ?_⟩
    · rw [hw.chan]
      by_cases hd : d = u.channel
      · rw [if_pos hd, if_pos hd, Sweep.chan_self W]
        have hlists : (((s.lettingGo p (oneHandle h)).filter (s.arrivesBack p (oneHandle h) u.channel)).reverse ++
            (s.chan u.channel).list.filter (fun r => !done.contains r || s.stays p (oneHandle h) r)).filter
              (fun y => y != r || s.stays p (oneHandle h) r) =
            ((s.lettingGo p (oneHandle h)).filter (s.arrivesBack p (oneHandle h) u.channel)).reverse ++
            (s.chan u.channel).list.filter (fun y => !(done ++ [r]).contains y || s.stays p (oneHandle h) y) := by
          have hnone : (s.lettingGo p (oneHandle h)).filter (s.arrivesBack p (oneHandle h) u.channel) = [] :=
            List.filter_eq_nil_iff.mpr (fun y _ => by simp [harrives])
          rw [hnone, List.reverse_nil, List.nil_append, List.nil_append, List.filter_filter]
          refine List.filter_congr (fun y _ => ?_)
          by_cases hy : y = r
          · subst hy; cases s.stays p (oneHandle h) y <;> simp
          · simp [hy]
        rw [← hlists]
      · rw [if_neg hd, if_neg hd, W.chan, if_neg hd]
    · rw [hw.msg, W.msg]
      by_cases hq : q = r
      · subst hq; simp
      · simp [hq]
    · refine (W.moves.trans hm).congr ?_
      rw [List.filter_append]
      by_cases hf : s.freedBy p (oneHandle h) r = true
      · rw [if_pos hf, ← goneToll_listFree]
        simp [State.listFrees, hf, hpend]
      · rw [if_neg hf, Toll.append_zero]
        simp [State.listFrees, hf]
  have hzmsg : (x.modMsg r (fun m => { m with pending := eraseRef ⟨p, h⟩ m.pending })).msg r =
      { s.msg r with pending := eraseRef ⟨p, h⟩ (s.msg r).pending } := hz.msg_self
  have hbody : settleWithout u.channel ⟨p, h⟩ x r =
      if eraseRef ⟨p, h⟩ (s.msg r).pending = [] then
        if (s.msg r).holders = [] then
          freeRecord (x.modMsg r (fun m => { m with pending := eraseRef ⟨p, h⟩ m.pending })) u.channel r .delivered (s.msg r).taken
        else unlist (x.modMsg r (fun m => { m with pending := eraseRef ⟨p, h⟩ m.pending })) u.channel r
      else x.modMsg r (fun m => { m with pending := eraseRef ⟨p, h⟩ m.pending }) := by
    rw [settleWithout, if_pos (by rw [hmsg]; simpa using hpend), settlePending_eq, hzmsg]
  rw [hbody, hmid]
  by_cases he : eraseRef ⟨p, h⟩ (s.msg r).pending = []
  · have hs : s.stays p (oneHandle h) r = false := by
      rw [← Bool.not_eq_true, hstays]; exact not_not.mpr he
    simp only [if_pos he, hs, Bool.or_false]
    by_cases hh : (s.msg r).holders = []
    · rw [if_pos hh, if_pos hh, if_pos (hfreeIff.mpr ⟨he, hh⟩)]
      refine ⟨?_, ((modMsg_moves _ _ _ _).trans (freeRecord_moves _ _ _ _ _)).congr
        (by rw [Toll.zero_append, Sweep.toll L S W hk hpend hr])⟩
      have hw := hz.trans (freeRecord_writes _ u.channel r .delivered (s.msg r).taken)
      exact ⟨hw.chan, hw.msg⟩
    · rw [if_neg hh, if_neg hh, if_neg (fun hf => hh (hfreeIff.mp hf).2)]
      refine ⟨?_, (modMsg_moves _ _ _ _).trans (unlist_moves _ _ _)⟩
      have hw := hz.trans (unlist_writes _ u.channel r)
      rw [hzmsg] at hw
      exact ⟨hw.chan, hw.msg⟩
  · have hs : s.stays p (oneHandle h) r = true := hstays.mpr he
    simp only [if_neg he, hs, Bool.or_true, List.filter_true]
    rw [if_neg (fun hf => he (hfreeIff.mp hf).1)]
    exact ⟨⟨hz.chan, hz.msg⟩, modMsg_moves _ _ _ _⟩

/-- Every record of a list in turn. -/
theorem Sweep.all (hk : (s.chan u.channel).kind = .fanout) {todo : List RecId} (hn : (done ++ todo).Nodup) :
    Sweep s x₀ (todo.foldl (settleWithout u.channel ⟨p, h⟩) x) p h u.channel (done ++ todo) := by
  induction todo generalizing x done with
  | nil => simpa using W
  | cons r todo ih =>
    have hsplit : done ++ r :: todo = done ++ [r] ++ todo := by simp
    have hr : r ∉ done := fun hd => (List.nodup_append.mp hn).2.2 r hd r (by simp) rfl
    rw [hsplit] at hn ⊢
    by_cases hpend : ⟨p, h⟩ ∈ (s.msg r).pending
    · exact ih (Sweep.settle L S W hk hpend hr) hn
    · exact ih (Sweep.skip L W hpend) hn

end

end Sys2Proof.Machine
end

section
/-! SUPPORT. DETACH (O19): all that was held and awaited has been settled. -/

namespace Sys2Proof.Machine

/-! ## All that was held and awaited has been settled -/

/-- One element of a list without repeats. -/
theorem flatMap_ite_eq {α β : Type} [DecidableEq α] {l : List α} (hn : l.Nodup) {a : α} (ha : a ∈ l) (g : α → List β) :
    l.flatMap (fun k => if (k == a) = true then g k else []) = g a := by
  induction l with
  | nil => simp at ha
  | cons b l ih =>
    obtain ⟨hb, hn⟩ := List.nodup_cons.mp hn
    rw [List.flatMap_cons]
    by_cases hab : b = a
    · subst hab
      have hrest : l.flatMap (fun k => if (k == b) = true then g k else []) = [] := by
        rw [List.flatMap_eq_nil_iff]
        intro k hk
        rw [if_neg]
        rw [beq_iff_eq]
        rintro rfl
        exact hb hk
      rw [if_pos (by simp), hrest, List.append_nil]
    · rw [if_neg (by simpa using hab), List.nil_append, ih hn ((List.mem_cons.mp ha).resolve_left (Ne.symm hab))]

namespace Leaving

variable {s : State} {p : Port} {h : Handle} {u : Attachment} (L : Leaving s p h u)
include L

theorem freedFromLists_eq : s.freedFromLists p (oneHandle h) = (s.chan u.channel).list.filter (s.listFrees p h) := by
  have hf := flatMap_ite_eq (List.nodup_finRange 8) (List.mem_finRange h) (fun k => match s.att ⟨p, k⟩ with
    | some u => (s.chan u.channel).list.filter
        (fun r => s.freedBy p (oneHandle h) r && (s.msg r).pending.contains ⟨p, k⟩)
    | none => [])
  rw [L.att] at hf
  exact hf

/-- No record comes back to another channel. -/
theorem comingBack_of_ne {d : ChanId} (hd : d ≠ u.channel) : s.comingBack p (oneHandle h) d = [] := by
  rw [comingBack_eq, List.filter_eq_nil_iff]
  intro r hr
  rw [State.comesBack, (L.going hr).1]
  simp [Ne.symm hd]

theorem bindsBack_of_ne {d : ChanId} (hd : d ≠ u.channel) : s.bindsBack p (oneHandle h) d = [] := by
  simp [State.bindsBack, L.comingBack_of_ne hd]

end Leaving

/-- From `s` to `x` the attachment ⟨p, h⟩ of channel `c` has gone, and all it held and awaited has been settled. -/
structure Settled (s x : State) (p : Port) (h : Handle) (c : ChanId) : Prop where
  chan : ∀ d, x.chan d = if d = c then { s.chan c with
    list := s.listLeft p (oneHandle h) c
    waiters := (s.waitersLeft p (oneHandle h) c).drop (s.bindsBack p (oneHandle h) c).length
    stats := (x.chan c).stats } else s.chan d
  msg : ∀ r, x.msg r = s.recordMid p (oneHandle h) r
  att : ∀ b, x.att b = if b = ⟨p, h⟩ then none else
    (s.att b).map (s.heard p (oneHandle h) (s.lettingGo p (oneHandle h)))
  hands : ∀ q, s.handsLeft x p (oneHandle h) q
  moves : Moves c s x (s.goneToll p (oneHandle h) c (s.lettingGo p (oneHandle h)) (s.freedFromLists p (oneHandle h)))

theorem waitersAfter_going (s : State) (p : Port) (hs : Handle → Bool) (c : ChanId) :
    s.waitersAfter p hs c (s.lettingGo p hs) = (s.waitersLeft p hs c).drop (s.bindsBack p hs c).length := by
  unfold State.waitersAfter State.bindsBack
  split
  · rfl
  · rw [List.length_zip, comingBack_eq]
    rcases Nat.le_total ((s.lettingGo p hs).filter (s.comesBack c)).length
      (s.waitersLeft p hs c).length with hle | hle
    · rw [Nat.min_eq_left hle]
    · rw [Nat.min_eq_right hle, List.drop_length, List.drop_eq_nil_of_le hle]

section
variable {s x₀ x : State} {p : Port} {h : Handle} {u : Attachment} (L : Leaving s p h u)
  (S : Stage s x₀ p h u.channel (s.lettingGo p (oneHandle h)) [])
include L S

/-- The hands, once every record has been handed back. -/
theorem Stage.handsLeft (q : Port) : s.handsLeft x₀ p (oneHandle h) q := by
  have hgoing : ∀ y ∈ s.bindsBack p (oneHandle h) u.channel, y.1 ∈ s.lettingGo p (oneHandle h) := fun y hy =>
    (List.mem_filter.mp (comingBack_of_bindsAgain (bindsAgain_iff.mpr ⟨y.2, hy⟩))).1
  refine ⟨fun d y hy hyq => ?_, fun hnone => ?_⟩
  · by_cases hd : d = u.channel
    · subst hd
      exact S.bound q y.1 (hgoing y hy) (hyq ▸ hy)
    · rw [L.bindsBack_of_ne hd] at hy
      exact absurd hy (by simp)
  · obtain ⟨hpark, hslot⟩ := S.unbound q (fun r _ hb => hnone u.channel (r, q) hb rfl)
    refine ⟨hpark, fun i => ?_⟩
    rw [hslot, if_neg (by simp)]
    rfl

/-- The end of a sweep that has met every record that the attachment awaited. -/
theorem Sweep.settled {done : List RecId} (W : Sweep s x₀ x p h u.channel done)
    (hall : ∀ r, ⟨p, h⟩ ∈ (s.msg r).pending → r ∈ done)
    (hfreed : done.filter (s.listFrees p h) = s.freedFromLists p (oneHandle h)) : Settled s x p h u.channel where
  chan d := by
    rw [W.chan]
    have hstay : (s.chan u.channel).list.filter (fun r => !done.contains r || s.stays p (oneHandle h) r) =
        (s.chan u.channel).list.filter (s.stays p (oneHandle h)) := by
      refine List.filter_congr (fun r _ => ?_)
      by_cases hr : r ∈ done
      · simp [hr]
      · rw [L.stays_of_notAwaited (fun hp => hr (hall r hp)), Bool.or_true]
    rw [hstay, filter_arrivesBack L.nodup_going, waitersAfter_going]
    rfl
  msg r := by
    rw [W.msg, if_neg (fun hr => hr.2 (hall r hr.1))]
  att b := by rw [W.hands.att, S.att]
  hands q := by
    obtain ⟨hbound, hunbound⟩ := S.handsLeft L q
    refine ⟨fun d y hy hyq w hw => ?_, fun hnone => ?_⟩
    · obtain ⟨hp, hs⟩ := hbound d y hy hyq w hw
      exact ⟨(W.hands.parked q).trans hp, fun i => (W.hands.slot q i).trans (hs i)⟩
    · obtain ⟨hp, hs⟩ := hunbound hnone
      exact ⟨(W.hands.parked q).trans hp, fun i => (W.hands.slot q i).trans (hs i)⟩
  moves := hfreed ▸ W.moves

end

/-- The detach of an attachment up to R21: it goes with its parked take, its hands come back, and a SUBSCRIBER leaves the
pending sets. -/
def settleAll (y : State) (u : Attachment) (a : AttRef) : State :=
  if u.role = .subscriber then leavePending (handBackThrough (letGo y u.channel a) a) u.channel a
  else handBackThrough (letGo y u.channel a) a

theorem detach_eq {y : State} {a : AttRef} {u : Attachment} (hu : y.att a = some u) :
    detach y a = closeIfLast (forgetOwner (settleAll y u a) u.channel a) u.channel := by
  have hparked : ((y.setAtt a none).port a.port).parked = (y.port a.port).parked := (setAtt_sameStores y a none).parked a.port
  unfold detach settleAll letGo
  rw [hu]
  dsimp only
  rw [hparked] <;> rfl

theorem settled_settleAll {s y : State} {p : Port} {h : Handle} {u : Attachment} (L : Leaving s p h u)
    (A : Alike u.channel s y) : Settled s (settleAll y u ⟨p, h⟩) p h u.channel := by
  have S := stage_handBackThrough L A
  have W := sweep_start L S
  unfold settleAll
  split
  · next hsub =>
    have hk := L.fanout_of_subscriber hsub
    obtain ⟨-, -, -, harrives⟩ := nothing_comes_back (p := p) (hs := oneHandle h) hk
    have hlist : ((handBackThrough (letGo y u.channel ⟨p, h⟩) ⟨p, h⟩).chan u.channel).list = (s.chan u.channel).list := by
      rw [S.chan_self]
      simp [State.listAfter, harrives]
    rw [leavePending_eq, hlist]
    refine Sweep.settled L S (Sweep.all L S W hk (todo := (s.chan u.channel).list) (L.lists u.channel).1)
      (fun r hr => (L.awaiting hr).2.2.2.1) ?_
    rw [List.nil_append, L.freedFromLists_eq]
  · next hsub =>
    have hnone : ∀ r, ⟨p, h⟩ ∉ (s.msg r).pending := fun r hr => hsub (L.awaiting hr).1
    refine Sweep.settled L S W (fun r hr => absurd hr (hnone r)) ?_
    rw [L.freedFromLists_eq, List.filter_nil, eq_comm, List.filter_eq_nil_iff]
    intro r _
    simp [State.listFrees, hnone r]

end Sys2Proof.Machine
end

section
/-! SUPPORT. DETACH (O19): what the statement says of a channel that loses its last attachment (R21 to R23). -/

namespace Sys2Proof.Machine

/-! ## The channel closes, if its last attachment has gone (R21 to R23) -/

theorem mem_attachmentsOf_iff {s : State} {c : ChanId} {b : AttRef} :
    b ∈ s.attachmentsOf c ↔ ∃ v, s.att b = some v ∧ v.channel = c := by
  unfold State.attachmentsOf
  rw [List.mem_filter]
  cases s.att b <;> simp [mem_allRefs]

theorem lastGoes_iff {s : State} {p : Port} {h : Handle} {c : ChanId} : s.lastGoes p (oneHandle h) c = true ↔
    s.attachmentsOf c ≠ [] ∧ ∀ b ∈ s.attachmentsOf c, b = ⟨p, h⟩ := by
  simp [State.lastGoes]

theorem eq_singleton_of_forall_eq {α : Type} {l : List α} {a : α} (hn : l.Nodup) (hne : l ≠ [])
    (h : ∀ b ∈ l, b = a) : l = [a] := by
  cases l with
  | nil => exact absurd rfl hne
  | cons b l =>
    have hb := h b (by simp)
    subst hb
    cases l with
    | nil => rfl
    | cons b' l =>
      have hb' := h b' (by simp)
      subst hb'
      exact absurd (List.nodup_cons.mp hn).1 (by simp)

theorem filterMap_ite_eq {α β : Type} [DecidableEq α] {l : List α} (hn : l.Nodup) {a : α} (ha : a ∈ l)
    {f : α → Option β} {v : β}
    (hf : ∀ k, f k = if k = a then some v else none) : l.filterMap f = [v] := by
  induction l with
  | nil => simp at ha
  | cons b l ih =>
    obtain ⟨hb, hn⟩ := List.nodup_cons.mp hn
    rw [List.filterMap_cons, hf]
    by_cases hab : b = a
    · subst hab
      rw [if_pos rfl, List.filterMap_eq_nil_iff.mpr]
      intro k hk
      rw [hf, if_neg]
      rintro rfl
      exact hb hk
    · rw [if_neg hab]
      exact ih hn ((List.mem_cons.mp ha).resolve_left (Ne.symm hab))

theorem doom_of_state {m : MsgRecord} (h : m.state ≠ .queued ∧ m.state ≠ .listed) : m.doom = m :=
  if_neg (by tauto)

theorem doom_doom (m : MsgRecord) : m.doom.doom = m.doom := by
  by_cases h : m.state = .queued ∨ m.state = .listed
  · simp [MsgRecord.doom, h]
  · simp [MsgRecord.doom, h]

theorem attachmentsOf_of_last {s : State} {p : Port} {h : Handle} {c : ChanId} (hlast : s.lastGoes p (oneHandle h) c = true) :
    s.attachmentsOf c = [⟨p, h⟩] := by
  obtain ⟨hne, hall⟩ := lastGoes_iff.mp hlast
  exact eq_singleton_of_forall_eq (nodup_allRefs.filter _) hne hall

theorem recordLeft_of_stays {s : State} {p : Port} {h : Handle} {r : RecId} {d : ChanId}
    (hchannel : (s.msg r).channel = some d) (hlast : s.lastGoes p (oneHandle h) d = false) :
    s.recordLeft p (oneHandle h) r = s.recordMid p (oneHandle h) r := by
  unfold State.recordLeft State.recordMid
  dsimp only
  rw [hchannel]
  simp only [hlast]
  simp [State.bindsAgain]

theorem recordLeft_of_none {s : State} {p : Port} {h : Handle} {r : RecId} (hchannel : (s.msg r).channel = none) :
    s.recordLeft p (oneHandle h) r = s.recordMid p (oneHandle h) r := by
  unfold State.recordLeft State.recordMid
  dsimp only
  rw [hchannel]

namespace Leaving

variable {s : State} {p : Port} {h : Handle} {u : Attachment} (L : Leaving s p h u) {r : RecId}
include L

theorem mem_attachmentsOf : ⟨p, h⟩ ∈ s.attachmentsOf u.channel := mem_attachmentsOf_iff.mpr ⟨u, L.att, rfl⟩

/-- No other channel loses its last attachment. -/
theorem lastGoes_of_ne {d : ChanId} (hd : d ≠ u.channel) : s.lastGoes p (oneHandle h) d = false := by
  rw [← Bool.not_eq_true, lastGoes_iff]
  rintro ⟨hne, hall⟩
  obtain ⟨b, hb⟩ := List.exists_mem_of_ne_nil _ hne
  obtain ⟨v, hv, rfl⟩ := mem_attachmentsOf_iff.mp hb
  rw [hall b hb, L.att] at hv
  cases hv
  exact hd rfl

/-- The channel has no attachments left exactly if its last one has gone. -/
theorem isEmpty_attachmentsOf_iff {x : State} {g : Attachment → Attachment} (hg : ∀ v, (g v).channel = v.channel)
    (hatt : ∀ b, x.att b = if b = ⟨p, h⟩ then none else (s.att b).map g) :
    (x.attachmentsOf u.channel).isEmpty = true ↔ s.lastGoes p (oneHandle h) u.channel = true := by
  rw [List.isEmpty_iff, List.eq_nil_iff_forall_not_mem, lastGoes_iff,
    and_iff_right (List.ne_nil_of_mem L.mem_attachmentsOf)]
  refine forall_congr' (fun b => ?_)
  simp only [mem_attachmentsOf_iff, hatt]
  by_cases hb : b = ⟨p, h⟩
  · simp [hb]
  · simp [hb, hg]

theorem leavesChannel_eq (d : ChanId) (b : AttRef) :
    s.leavesChannel p (oneHandle h) d b = (decide (d = u.channel) && b == ⟨p, h⟩) := by
  unfold State.leavesChannel
  rw [leaves_oneHandle]
  by_cases hb : b = ⟨p, h⟩
  · subst hb
    rw [L.att]
    by_cases hd : d = u.channel
    · simp [hd]
    · simp [hd, Ne.symm hd]
  · have hne : (b == ⟨p, h⟩) = false := beq_eq_false_iff_ne.mpr hb
    rw [hne, Bool.false_and, Bool.and_false]

/-- The lists of the other channels stay. -/
theorem listLeft_of_ne {d : ChanId} (hd : d ≠ u.channel) : s.listLeft p (oneHandle h) d = (s.chan d).list := by
  unfold State.listLeft
  rw [L.comingBack_of_ne hd, List.drop_nil, List.reverse_nil, List.nil_append, List.filter_eq_self]
  intro r hr
  refine L.stays_of_notAwaited (fun hpend => hd ?_)
  have hchannel := (L.awaiting hpend).2.1
  rw [((L.lists d).2 r hr).1] at hchannel
  exact Option.some.inj hchannel

theorem waitersLeft_of_ne {d : ChanId} (hd : d ≠ u.channel) : s.waitersLeft p (oneHandle h) d = (s.chan d).waiters := by
  unfold State.waitersLeft
  rw [List.filter_eq_self]
  intro q hq
  rw [Bool.not_eq_true', ← Bool.not_eq_true, waiter_leaves_iff]
  rintro ⟨rfl, w, hw, rfl⟩
  have hon := (L.waiting.1 d).2 q hq
  simp only [State.parkedOn, hw, L.att, Option.map_some, Option.some.injEq] at hon
  exact hd hon.symm

theorem channelLeft_of_ne {d : ChanId} (hd : d ≠ u.channel) : s.channelLeft p (oneHandle h) d = s.chan d := by
  unfold State.channelLeft
  rw [L.lastGoes_of_ne hd, if_neg (by simp), L.listLeft_of_ne hd, L.waitersLeft_of_ne hd, L.bindsBack_of_ne hd,
    List.length_nil, List.drop_zero]
  have hw : (s.chan d).watch.filter (fun w => !s.leavesChannel p (oneHandle h) d w.owner) = (s.chan d).watch := by
    cases (s.chan d).watch <;> simp [L.leavesChannel_eq, hd]
  have hp : (s.chan d).purger.filter (fun b => !s.leavesChannel p (oneHandle h) d b) = (s.chan d).purger := by
    cases (s.chan d).purger <;> simp [L.leavesChannel_eq, hd]
  rw [hw, hp]

/-- A channel that loses its last attachment has no waiters left. -/
theorem waitersLeft_of_last (hlast : s.lastGoes p (oneHandle h) u.channel = true) :
    s.waitersLeft p (oneHandle h) u.channel = [] := by
  rw [List.eq_nil_iff_forall_not_mem]
  intro q hq
  obtain ⟨w, v, hw, hv, hchannel, -, hstays⟩ := L.waiter_parked hq
  have heq := (lastGoes_iff.mp hlast).2 _ (mem_attachmentsOf_iff.mpr ⟨v, hv, hchannel⟩)
  cases heq
  rw [waiter_leaves_iff.mpr ⟨rfl, w, hw, rfl⟩] at hstays
  exact absurd hstays (by simp)

theorem channel_of_mem_listLeft (hr : r ∈ s.listLeft p (oneHandle h) u.channel) : (s.msg r).channel = some u.channel := by
  rcases List.mem_append.mp hr with hr | hr
  · have hcoming := List.mem_of_mem_drop (List.mem_reverse.mp hr)
    exact (L.going (List.mem_filter.mp hcoming).1).1
  · exact ((L.lists u.channel).2 r (List.mem_filter.mp hr).1).1

/-- Every record that is QUEUED or LISTED when all is settled stands in its list. -/
theorem mem_listLeft (hchannel : (s.msg r).channel = some u.channel)
    (hstate : (s.recordMid p (oneHandle h) r).state = .queued ∨ (s.recordMid p (oneHandle h) r).state = .listed) :
    r ∈ s.listLeft p (oneHandle h) u.channel := by
  have hplaced : (s.msg r).state = .queued ∨ (s.msg r).state = .listed → r ∈ (s.chan u.channel).list := by
    intro hs
    have h := (L.states r).1
    unfold State.recordPlaced at h
    rcases hs with hs | hs <;> simpa [hs, hchannel] using h
  unfold State.listLeft
  rw [← filter_arrivesBack L.nodup_going, List.mem_append, List.mem_reverse, List.mem_filter, List.mem_filter]
  rw [recordMid_of_channel hchannel] at hstate
  split_ifs at hstate with hfree hagain hcoming hun
  · simp [MsgRecord.free] at hstate
  · have hgo := (List.mem_filter.mp (comingBack_of_bindsAgain hagain))
    have hk : (s.chan u.channel).kind = .point := by
      have hb := hgo.2
      simp only [Bool.and_eq_true, beq_iff_eq] at hb
      exact hb.1.2
    simp [L.inHand_of_point hgo.1 hk] at hstate
  · left
    have hmem : r ∈ s.comingBack p (oneHandle h) u.channel := by simpa using hcoming
    refine ⟨(List.mem_filter.mp hmem).1, ?_⟩
    rw [arrivesBack_eq]
    simp [hmem, hagain]
  · simp at hstate
  · right
    refine ⟨hplaced hstate, stays_iff.mpr (fun hl he => hun ⟨hl, he⟩)⟩

/-- A channel that closes dooms its records (R41). -/
theorem recordLeft_of_last (hlast : s.lastGoes p (oneHandle h) u.channel = true)
    (hchannel : (s.msg r).channel = some u.channel) :
    s.recordLeft p (oneHandle h) r = (s.recordMid p (oneHandle h) r).doom := by
  have hbind : s.bindsAgain p (oneHandle h) u.channel r = false := by
    rw [← Bool.not_eq_true, bindsAgain_iff]
    rintro ⟨q, hq⟩
    unfold State.bindsBack at hq
    rw [L.waitersLeft_of_last hlast] at hq
    split at hq <;> simp at hq
  have hpend : (s.msg r).state = .listed → eraseRef ⟨p, h⟩ (s.msg r).pending = [] := by
    intro _
    rw [eraseRef, List.filter_eq_nil_iff]
    intro b hb
    have hany := (L.pending r).2.2 b hb
    cases hv : s.att b with
    | none => rw [hv] at hany; simp at hany
    | some v =>
      rw [hv] at hany
      simp only [hchannel, Option.any_some, Bool.and_eq_true, beq_iff_eq, Option.some.injEq] at hany
      have hba := (lastGoes_iff.mp hlast).2 b (mem_attachmentsOf_iff.mpr ⟨v, hv, hany.2.symm⟩)
      simp [hba]
  have hhold : (s.msg r).state = .queued → (s.msg r).holders = [] := by
    intro hq
    rw [List.eq_nil_iff_forall_not_mem]
    intro b hb
    have := ((L.holders r).2.2 b hb).1
    simp [hq] at this
  have hbind' : ((s.bindsBack p (oneHandle h) u.channel).map Prod.fst).contains r = false := hbind
  rw [recordMid_of_channel hchannel, hbind]
  unfold State.recordLeft
  dsimp only
  rw [hchannel]
  dsimp only
  rw [hbind', hlast, filter_notLeaves, filter_notLeaves]
  by_cases hfree : s.freedBy p (oneHandle h) r = true
  · simp [hfree, MsgRecord.doom, MsgRecord.free]
  by_cases hcoming : (s.comingBack p (oneHandle h) u.channel).contains r = true
  · simp only [hfree, hcoming]
    simp [MsgRecord.doom]
  simp only [hfree, hcoming]
  by_cases hlisted : (s.msg r).state = .listed
  · simp [hlisted, hpend hlisted, MsgRecord.doom]
  by_cases hqueued : (s.msg r).state = .queued
  · simp [hqueued, hhold hqueued, MsgRecord.doom, eraseRef]
  · simp [hlisted, hqueued, MsgRecord.doom]

end Leaving

end Sys2Proof.Machine
end

section
/-! SUPPORT. DETACH (O19): the channel, the records and the work queue that a detach leaves. -/

namespace Sys2Proof.Machine

/-! ## The detach of one attachment -/

/-- The work queue and the engine's gap are the same. -/
abbrev State.engineSame (s t : State) : Prop := t.reclaim = s.reclaim ∧ t.engineGap = s.engineGap

theorem Calm.engineSame {s t : State} (h : Calm s t) : s.engineSame t := ⟨h.reclaim, h.engineGap⟩

theorem engineSame_trans {s t v : State} (h : s.engineSame t) (g : t.engineSame v) : s.engineSame v :=
  ⟨g.1.trans h.1, g.2.trans h.2⟩

theorem engineSame_foldl {α : Type} {f : State → α → State}
    (h : ∀ (s : State) (a : α), s.engineSame (f s a)) (l : List α) (s : State) :
    s.engineSame (l.foldl f s) := by
  induction l generalizing s with
  | nil => exact ⟨rfl, rfl⟩
  | cons a l ih => exact engineSame_trans (h s a) (ih _)

theorem letGo_engineSame (x : State) (c : ChanId) (a : AttRef) : x.engineSame (letGo x c a) := by
  unfold letGo
  split
  · split
    · exact (dropParked_calm (x.setAtt a none) c a.port _).engineSame
    · exact ⟨rfl, rfl⟩
  · exact ⟨rfl, rfl⟩

theorem lookAt_engineSame (x : State) (a : AttRef) (i : Slot) : x.engineSame (lookAt x a i) := by
  unfold lookAt
  split
  · split
    · unfold handBackSlot
      split
      · exact (handBackRecord_calm (x.setSlot a.port i .empty) _ _).engineSame
      · exact ⟨rfl, rfl⟩
    · exact ⟨rfl, rfl⟩
  · exact ⟨rfl, rfl⟩

theorem settleWithout_engineSame (c : ChanId) (a : AttRef) (x : State) (r : RecId) :
    x.engineSame (settleWithout c a x r) := by
  unfold settleWithout
  split
  · rw [settlePending_eq]
    split
    · split
      · exact (freeRecord_calm (x.modMsg r _) c r _ _).engineSame
      · exact ⟨rfl, rfl⟩
    · exact ⟨rfl, rfl⟩
  · exact ⟨rfl, rfl⟩

theorem settleAll_engineSame (y : State) (u : Attachment) (a : AttRef) : y.engineSame (settleAll y u a) := by
  have hback : y.engineSame (handBackThrough (letGo y u.channel a) a) :=
    engineSame_trans (letGo_engineSame y u.channel a) (engineSame_foldl (fun s i => lookAt_engineSame s a i) _ _)
  unfold settleAll
  split
  · exact engineSame_trans hback (engineSame_foldl (settleWithout_engineSame u.channel a) _ _)
  · exact hback

/-- From `s` to `z` the attachment ⟨p, h⟩ of channel `c` has been detached; `x` is the state in which all it held and awaited
had been settled. -/
structure Detached (s x z : State) (p : Port) (h : Handle) (c : ChanId) : Prop where
  chan : ∀ d, z.chan d = { s.channelLeft p (oneHandle h) d with stats := (z.chan d).stats }
  freed : s.lastGoes p (oneHandle h) c = true → s.listLeft p (oneHandle h) c = [] → z.chan c = Channel.free
  stats : ∀ d, s.lastGoes p (oneHandle h) d = false → (z.chan d).stats = (x.chan d).stats
  msg : ∀ r, z.msg r = s.recordLeft p (oneHandle h) r
  reclaim : z.reclaim = s.reclaimLeft p (oneHandle h)
  ports : z.ports = x.ports
  cells : z.cells = x.cells
  gap : z.engineGap = x.engineGap

section
variable {s x : State} {p : Port} {h : Handle} {u : Attachment} (L : Leaving s p h u) (M : Settled s x p h u.channel)

theorem chan_forgetOwner (x : State) (c : ChanId) (a : AttRef) (d : ChanId) : (forgetOwner x c a).chan d =
    if d = c then { x.chan c with watch := (x.chan c).watch.filter (fun w => w.owner != a)
                                  purger := (x.chan c).purger.filter (fun b => b != a) } else x.chan d :=
  chan_modChan x c (fun ch => { ch with watch := ch.watch.filter (fun w => w.owner != a)
                                        purger := ch.purger.filter (fun b => b != a) }) d

include M in
theorem Settled.chan_self : x.chan u.channel = { s.chan u.channel with
    list := s.listLeft p (oneHandle h) u.channel
    waiters := (s.waitersLeft p (oneHandle h) u.channel).drop (s.bindsBack p (oneHandle h) u.channel).length
    stats := (x.chan u.channel).stats } := (M.chan u.channel).trans (if_pos rfl)

include L in
/-- What the channel keeps of its watch and its purge. -/
theorem forgets (o : Option Watch) (b : Option AttRef) :
    o.filter (fun w => w.owner != ⟨p, h⟩) = o.filter (fun w => !s.leavesChannel p (oneHandle h) u.channel w.owner) ∧
    b.filter (fun x => x != ⟨p, h⟩) = b.filter (fun x => !s.leavesChannel p (oneHandle h) u.channel x) := by
  simp [L.leavesChannel_eq, bne]

include L M in
theorem chan_of_others {z : State} {d : ChanId} (hd : d ≠ u.channel) (hz : z.chan d = x.chan d) :
    z.chan d = { s.channelLeft p (oneHandle h) d with stats := (z.chan d).stats } := by
  rw [hz, M.chan, if_neg hd, L.channelLeft_of_ne hd]

include L in
/-- The work queue where no channel loses its last attachment. -/
theorem reclaimLeft_of_stays (hlast : s.lastGoes p (oneHandle h) u.channel = false) :
    s.reclaimLeft p (oneHandle h) = s.reclaim := by
  have hall : ∀ d, s.lastGoes p (oneHandle h) d = false := fun d => by
    by_cases hd : d = u.channel
    · rw [hd]; exact hlast
    · exact L.lastGoes_of_ne hd
  unfold State.reclaimLeft
  simp [hall]

include L M in
theorem detached_stays (hlast : s.lastGoes p (oneHandle h) u.channel = false) (hx : x.reclaim = s.reclaim) :
    Detached s x (forgetOwner x u.channel ⟨p, h⟩) p h u.channel where
  chan d := by
    by_cases hd : d = u.channel
    · subst hd
      rw [chan_forgetOwner, if_pos rfl, M.chan_self, State.channelLeft, hlast, if_neg (by simp)]
      obtain ⟨hw, hp⟩ := forgets L (s.chan u.channel).watch (s.chan u.channel).purger
      simp only [hw, hp]
    · exact chan_of_others L M hd (by rw [chan_forgetOwner, if_neg hd])
  freed hl := by rw [hlast] at hl; exact absurd hl (by simp)
  stats d _ := by
    rw [chan_forgetOwner]
    split_ifs with hd
    · rw [hd]
    · rfl
  msg r := by
    refine (M.msg r).trans ?_
    cases hchannel : (s.msg r).channel with
    | none => exact (recordLeft_of_none hchannel).symm
    | some d =>
      refine (recordLeft_of_stays hchannel ?_).symm
      by_cases hd : d = u.channel
      · rw [hd]; exact hlast
      · exact L.lastGoes_of_ne hd
  reclaim := hx.trans (reclaimLeft_of_stays L hlast).symm
  ports := rfl
  cells := rfl
  gap := rfl

section
variable (hlast : s.lastGoes p (oneHandle h) u.channel = true)
include L hlast

/-- The records once the channel has closed: those of its list are doomed. -/
theorem recordLeft_eq_doom (r : RecId) : s.recordLeft p (oneHandle h) r =
    if r ∈ s.listLeft p (oneHandle h) u.channel then (s.recordMid p (oneHandle h) r).doom
    else s.recordMid p (oneHandle h) r := by
  by_cases hin : r ∈ s.listLeft p (oneHandle h) u.channel
  · rw [if_pos hin, L.recordLeft_of_last hlast (L.channel_of_mem_listLeft hin)]
  · rw [if_neg hin]
    cases hchannel : (s.msg r).channel with
    | none => exact recordLeft_of_none hchannel
    | some d =>
      by_cases hd : d = u.channel
      · subst hd
        rw [L.recordLeft_of_last hlast hchannel, doom_of_state]
        exact ⟨fun hs => hin (L.mem_listLeft hchannel (Or.inl hs)), fun hs => hin (L.mem_listLeft hchannel (Or.inr hs))⟩
      · exact recordLeft_of_stays hchannel (L.lastGoes_of_ne hd)

/-- The only channel that loses its last attachment. -/
theorem lastGoes_eq (d : ChanId) : s.lastGoes p (oneHandle h) d = decide (d = u.channel) := by
  by_cases hd : d = u.channel
  · rw [hd, hlast]; simp
  · rw [L.lastGoes_of_ne hd]; simp [hd]

/-- The channel that joins the work queue, if it was OPEN and keeps records (R40). -/
theorem joins_eq : ((List.finRange 8).filterMap (fun k => (s.att ⟨p, k⟩).bind (fun v =>
      if s.lastGoes p (oneHandle h) v.channel && (s.attachmentsOf v.channel).getLast? == some ⟨p, k⟩ &&
        (s.chan v.channel).state == .opened && !(s.listLeft p (oneHandle h) v.channel).isEmpty
      then some (⟨v.channel, none⟩ : WorkEntry) else none))) =
    if (s.chan u.channel).state = .opened ∧ s.listLeft p (oneHandle h) u.channel ≠ [] then [⟨u.channel, none⟩]
    else [] := by
  have honly := attachmentsOf_of_last hlast
  have hcond : ∀ k : Handle, ∀ v, s.att ⟨p, k⟩ = some v → v.channel = u.channel → k = h := by
    intro k v hv hc
    have hmem : (⟨p, k⟩ : AttRef) ∈ s.attachmentsOf u.channel := mem_attachmentsOf_iff.mpr ⟨v, hv, hc⟩
    rw [honly, List.mem_singleton] at hmem
    cases hmem
    rfl
  by_cases hj : (s.chan u.channel).state = .opened ∧ s.listLeft p (oneHandle h) u.channel ≠ []
  · rw [if_pos hj]
    refine filterMap_ite_eq (List.nodup_finRange 8) (List.mem_finRange h) (fun k => ?_)
    by_cases hk : k = h
    · subst hk
      rw [L.att]
      simp [hlast, honly, hj.1, hj.2]
    · rw [if_neg hk]
      cases hv : s.att ⟨p, k⟩ with
      | none => rfl
      | some v =>
        have hne : v.channel ≠ u.channel := fun hc => hk (hcond k v hv hc)
        simp [L.lastGoes_of_ne hne]
  · rw [if_neg hj, List.filterMap_eq_nil_iff]
    intro k _
    cases hv : s.att ⟨p, k⟩ with
    | none => rfl
    | some v =>
      by_cases hc : v.channel = u.channel
      · rw [Option.bind_some, if_neg]
        rw [hc]
        simp only [Bool.and_eq_true, beq_iff_eq, Bool.not_eq_true', List.isEmpty_eq_false_iff]
        exact fun hall => hj ⟨hall.1.2, hall.2⟩
      · simp [L.lastGoes_of_ne hc]

include M

theorem detached_freed (hnil : s.listLeft p (oneHandle h) u.channel = []) (hx : x.reclaim = s.reclaim) :
    Detached s x (freeChannel (forgetOwner x u.channel ⟨p, h⟩) u.channel) p h u.channel := by
  have hchan : ∀ d, (freeChannel (forgetOwner x u.channel ⟨p, h⟩) u.channel).chan d =
      if d = u.channel then Channel.free else x.chan d := by
    intro d
    rw [show (freeChannel (forgetOwner x u.channel ⟨p, h⟩) u.channel).chan d =
      ((forgetOwner x u.channel ⟨p, h⟩).modChan u.channel (fun _ => Channel.free)).chan d from rfl, chan_modChan]
    split_ifs with hd
    · rfl
    · rw [chan_forgetOwner, if_neg hd]
  refine ⟨fun d => ?_, fun _ _ => (hchan _).trans (if_pos rfl), fun d hd => ?_, fun r => ?_, ?_, rfl, rfl, rfl⟩
  · by_cases hd : d = u.channel
    · subst hd
      rw [hchan, if_pos rfl, State.channelLeft, if_pos hlast, if_pos hnil]
    · exact chan_of_others L M hd (by rw [hchan, if_neg hd])
  · rw [hchan, if_neg (by rintro rfl; rw [hlast] at hd; exact absurd hd (by simp))]
  · rw [recordLeft_eq_doom L hlast, hnil, if_neg (by simp)]
    exact M.msg r
  · rw [show (freeChannel (forgetOwner x u.channel ⟨p, h⟩) u.channel).reclaim =
      x.reclaim.filter (fun e => e.channel != u.channel) from rfl, hx]
    unfold State.reclaimLeft
    rw [joins_eq L hlast, if_neg (fun hj => hj.2 hnil), List.append_nil]
    have hfilter : ∀ e : WorkEntry, (!(s.lastGoes p (oneHandle h) e.channel &&
        (s.listLeft p (oneHandle h) e.channel).isEmpty)) = (e.channel != u.channel) := by
      intro e
      by_cases he : e.channel = u.channel
      · simp [he, hlast, hnil]
      · simp [L.lastGoes_of_ne he, he]
    simp only [hfilter]
    rw [eq_comm, List.map_congr_left (g := id), List.map_id]
    intro e he
    have hne : e.channel ≠ u.channel := by simpa using (List.mem_filter.mp he).2
    simp [L.lastGoes_of_ne hne]

/-- The list of a channel that closes is doomed, and its record says so (R23). -/
theorem detached_closed (hne : s.listLeft p (oneHandle h) u.channel ≠ []) (hx : x.reclaim = s.reclaim) :
    Detached s x (closeChannel (forgetOwner x u.channel ⟨p, h⟩) u.channel) p h u.channel := by
  let shut : State := (doomList (forgetOwner x u.channel ⟨p, h⟩) u.channel).modChan u.channel
    (fun ch => { ch with state := .closing, held := false, watch := none, purger := none })
  have hstate : ((forgetOwner x u.channel ⟨p, h⟩).chan u.channel).state = (s.chan u.channel).state := by
    rw [chan_forgetOwner, if_pos rfl, M.chan_self]
  have hlist : ((forgetOwner x u.channel ⟨p, h⟩).chan u.channel).list = s.listLeft p (oneHandle h) u.channel := by
    rw [chan_forgetOwner, if_pos rfl, M.chan_self]
  have hdoom : doomList (forgetOwner x u.channel ⟨p, h⟩) u.channel = { forgetOwner x u.channel ⟨p, h⟩ with
      records := (doomList (forgetOwner x u.channel ⟨p, h⟩) u.channel).records } :=
    foldl_modMsg_eq MsgRecord.doom _ _
  have hz : closeChannel (forgetOwner x u.channel ⟨p, h⟩) u.channel =
      { shut with reclaim := s.reclaimLeft p (oneHandle h) } := by
    have hreclaim : shut.reclaim = s.reclaim := by
      rw [show shut.reclaim = (doomList (forgetOwner x u.channel ⟨p, h⟩) u.channel).reclaim from rfl, hdoom]
      exact hx
    have hfilter : ∀ e : WorkEntry, (!(s.lastGoes p (oneHandle h) e.channel &&
        (s.listLeft p (oneHandle h) e.channel).isEmpty)) = true := by
      intro e
      by_cases he : e.channel = u.channel
      · simp [he, hne]
      · simp [L.lastGoes_of_ne he]
    unfold State.reclaimLeft
    rw [joins_eq L hlast, ← hreclaim]
    rw [List.filter_eq_self.mpr (fun e _ => hfilter e)]
    simp only [lastGoes_eq L hlast, decide_eq_true_eq]
    rw [show closeChannel (forgetOwner x u.channel ⟨p, h⟩) u.channel =
      (if ((forgetOwner x u.channel ⟨p, h⟩).chan u.channel).state == .opened then joinWork shut ⟨u.channel, none⟩
      else { shut with reclaim := shut.reclaim.map (fun e => if e.channel = u.channel then { e with count := none } else e) })
      from rfl, hstate]
    rcases L.channel_open with ho | ho
    · rw [if_pos (by simp [ho]), if_pos ⟨ho, hne⟩]
      have hmap : shut.reclaim.map (fun e => if e.channel = u.channel then { e with count := none } else e) =
          shut.reclaim := by
        rw [List.map_congr_left (g := id), List.map_id]
        intro e he
        rw [if_neg]
        · rfl
        · intro hc
          have hin := (L.work.2.1 u.channel).mpr (hc ▸ List.mem_map_of_mem (hreclaim ▸ he))
          rcases hin with hin | hin <;> rw [ho] at hin <;> exact absurd hin (by simp)
      rw [hmap]
      rfl
    · rw [if_neg (by simp [ho]), if_neg (fun hj => by rw [ho] at hj; exact absurd hj.1 (by simp)), List.append_nil]
  have hshut : ∀ d, shut.chan d = if d = u.channel then
      { (forgetOwner x u.channel ⟨p, h⟩).chan u.channel with state := .closing, held := false, watch := none, purger := none }
      else x.chan d := by
    intro d
    rw [show shut = (doomList (forgetOwner x u.channel ⟨p, h⟩) u.channel).modChan u.channel
      (fun ch => { ch with state := .closing, held := false, watch := none, purger := none }) from rfl, chan_modChan,
      doomList_chan, doomList_chan]
    split_ifs with hd
    · rfl
    · rw [chan_forgetOwner, if_neg hd]
  rw [hz]
  refine ⟨fun d => ?_, fun _ hnil => absurd hnil hne, fun d hd => ?_, fun r => ?_, rfl, ?_, ?_, ?_⟩
  · rw [chan_mk_reclaim]
    by_cases hd : d = u.channel
    · subst hd
      rw [hshut, if_pos rfl, chan_forgetOwner, if_pos rfl, M.chan_self, State.channelLeft, if_pos hlast, if_neg hne,
        L.waitersLeft_of_last hlast]
      simp
    · exact chan_of_others L M hd (by rw [hshut, if_neg hd])
  · rw [chan_mk_reclaim, hshut, if_neg (by rintro rfl; rw [hlast] at hd; exact absurd hd (by simp))]
  · rw [msg_mk_reclaim, recordLeft_eq_doom L hlast, ← hlist, ← M.msg r]
    exact msg_foldl_modMsg doom_doom _ _ _
  · show (doomList (forgetOwner x u.channel ⟨p, h⟩) u.channel).ports = x.ports
    rw [hdoom]; rfl
  · show (doomList (forgetOwner x u.channel ⟨p, h⟩) u.channel).cells = x.cells
    rw [hdoom]; rfl
  · show (doomList (forgetOwner x u.channel ⟨p, h⟩) u.channel).engineGap = x.engineGap
    rw [hdoom]; rfl

end

/-- What a detach leaves (R18 to R23). -/
theorem detached_detach {y : State} (A : Alike u.channel s y) (hy : y.reclaim = s.reclaim) (hu : s.att ⟨p, h⟩ = some u)
    (L : Leaving s p h u) : Detached s (settleAll y u ⟨p, h⟩) (detach y ⟨p, h⟩) p h u.channel := by
  have M := settled_settleAll L A
  have hx : (settleAll y u ⟨p, h⟩).reclaim = s.reclaim := (settleAll_engineSame y u ⟨p, h⟩).1.trans hy
  have hforget := chan_forgetOwner (settleAll y u ⟨p, h⟩) u.channel ⟨p, h⟩ u.channel
  rw [if_pos rfl, M.chan_self] at hforget
  have hopen : ((forgetOwner (settleAll y u ⟨p, h⟩) u.channel ⟨p, h⟩).chan u.channel).state = .opened ∨
      ((forgetOwner (settleAll y u ⟨p, h⟩) u.channel ⟨p, h⟩).chan u.channel).state = .purging := by
    rw [hforget]; exact L.channel_open
  have hempty : ((forgetOwner (settleAll y u ⟨p, h⟩) u.channel ⟨p, h⟩).attachmentsOf u.channel).isEmpty = true ↔
      s.lastGoes p (oneHandle h) u.channel = true :=
    L.isEmpty_attachmentsOf_iff (fun v => (heard_keeps s p (oneHandle h) _ v).1) M.att
  rw [detach_eq ((A.att _).trans hu), closeIfLast]
  by_cases hlast : s.lastGoes p (oneHandle h) u.channel = true
  · rw [if_pos ⟨hopen, hempty.mpr hlast⟩]
    have hlist : ((forgetOwner (settleAll y u ⟨p, h⟩) u.channel ⟨p, h⟩).chan u.channel).list =
        s.listLeft p (oneHandle h) u.channel := by rw [hforget]
    rw [hlist]
    by_cases hnil : s.listLeft p (oneHandle h) u.channel = []
    · rw [if_pos (by simp [hnil])]
      exact detached_freed L M hlast hnil hx
    · rw [if_neg (by simpa using hnil)]
      exact detached_closed L M hlast hnil hx
  · rw [if_neg (fun hc => hlast (hempty.mp hc.2))]
    exact detached_stays L M (by simpa using hlast) hx

end

end Sys2Proof.Machine
end

section
/-! SUPPORT. DETACH (O19): the ROOM checks at the end of the event (R64). -/

namespace Sys2Proof.Machine

/-! ## The ROOM checks at the end of an event (R64) -/

/-- An attachment whose room-wanted flag has been answered. -/
def Attachment.roomTold (v : Attachment) : Attachment := { v with roomWanted := false }

/-- A PRODUCER is told that its channel has room. -/
def tellRoom (c : ChanId) (s : State) (a : AttRef) : State :=
  queueEvent (s.modAtt a Attachment.roomTold) a.port (handleEvent .room (s.chan c).name a.handle none)

theorem roomCheck_eq (s : State) (c : ChanId) : roomCheck s c =
    if s.occupancy c ≤ (s.chan c).roomMark then (s.roomWaiters c).foldl (tellRoom c) s else s := rfl

section
variable (c : ChanId) (s : State) (a : AttRef)

theorem tellRoom_sameStores : SameStores s (tellRoom c s a) :=
  (setAtt_sameStores s a _).trans (queueEvent_sameStores _ a.port _)

theorem att_tellRoom (b : AttRef) : (tellRoom c s a).att b =
    (s.att b).map (fun v => if b = a then v.roomTold else v) := by
  rw [tellRoom, (queueEvent_sameHands _ _ _).att, att_modAtt]
  split_ifs with hb
  · rw [hb]
  · rw [Option.map_id']

theorem tellRoom_moves (d : ChanId) : Moves d s (tellRoom c s a)
    (.ofEvents (fun q => if q = a.port then [handleEvent .room (s.chan c).name a.handle none] else [])) :=
  ((setAtt_moves d s a _).trans (queueEvent_moves d _ a.port _)).congr (Toll.zero_append _)

end

section
variable (c : ChanId) (l : List AttRef)

theorem tellRooms_sameStores (s : State) : SameStores s (l.foldl (tellRoom c) s) := by
  induction l generalizing s with
  | nil => exact SameStores.refl s
  | cons a l ih => exact (tellRoom_sameStores c s a).trans (ih _)

theorem att_tellRooms (s : State) (b : AttRef) : (l.foldl (tellRoom c) s).att b =
    (s.att b).map (fun v => if b ∈ l then v.roomTold else v) := by
  induction l generalizing s with
  | nil => simp
  | cons a l ih =>
    rw [List.foldl_cons, ih, att_tellRoom, Option.map_map]
    congr 1
    funext v
    by_cases hb : b = a <;> by_cases hl : b ∈ l <;> simp [hb, hl, Attachment.roomTold]

theorem tellRooms_moves (d : ChanId) (s : State) : Moves d s (l.foldl (tellRoom c) s)
    (.ofEvents (fun q => (l.filter (fun a => a.port == q)).map
      (fun a => handleEvent .room (s.chan c).name a.handle none))) := by
  induction l generalizing s with
  | nil => exact Moves.refl d s
  | cons a l ih =>
    have h := (tellRoom_moves c s a d).trans (ih (tellRoom c s a))
    rw [ofEvents_append, (tellRoom_sameStores c s a).chan] at h
    refine h.congr (congrArg Toll.ofEvents (funext fun q => ?_))
    by_cases hq : q = a.port
    · simp [hq]
    · simp [hq, Ne.symm hq]

end

/-- The producers that a ROOM check tells. -/
theorem roomTold_eq_afterRoom {s : State} {c : ChanId} {b : AttRef} {v : Attachment} (hv : s.att b = some v) :
    (if b ∈ s.roomWaiters c then v.roomTold else v) = v.afterRoom true c := by
  have hmem : b ∈ s.roomWaiters c ↔ (v.isIn c .producer && v.roomWanted) = true := by
    simp [State.roomWaiters, List.mem_filter, mem_allRefs, hv, Attachment.isIn]
  unfold Attachment.afterRoom
  rw [Bool.true_and]
  by_cases hin : v.isIn c .producer = true
  · rw [if_pos hin]
    by_cases hw : v.roomWanted = true
    · rw [if_pos (hmem.mpr (by simp [hin, hw]))]; rfl
    · rw [if_neg (fun h => by simp [hw] at hmem; exact hmem h), ← Bool.not_eq_true _ |>.mp hw]
  · rw [if_neg hin, if_neg (fun h => by simp [hin] at hmem; exact hmem h)]

theorem roomWaiters_events (s : State) (c : ChanId) (q : Port) : ((s.roomWaiters c).filter (fun a => a.port == q)).map
    (fun a => handleEvent .room (s.chan c).name a.handle none) = s.roomEvents true c q := by
  refine eventsFor_eq s q _ _ _ (fun h => ?_)
  cases s.att ⟨q, h⟩ with
  | none => rfl
  | some v => simp [handleEvent, Attachment.isIn]

/-- From `s` to `t` the ROOM checks of the channels `done` have run; those that `makes` names told their producers. -/
structure Rooms (s t : State) (makes : ChanId → Bool) (done : List ChanId) : Prop where
  stores : SameStores s t
  att : ∀ b, t.att b = (s.att b).map (fun v => v.afterRoom (makes v.channel && done.contains v.channel) v.channel)
  moves : ∀ d, Moves d s t (.ofEvents (fun q => done.flatMap (fun c => s.roomEvents (makes c) c q)))

theorem afterRoom_keeps (v : Attachment) (tells : Bool) (c : ChanId) : (v.afterRoom tells c).channel = v.channel := by
  unfold Attachment.afterRoom
  split <;> rfl

theorem afterRoom_false (v : Attachment) (c : ChanId) : v.afterRoom false c = v := by
  simp [Attachment.afterRoom]

theorem afterRoom_of_ne {v : Attachment} {c : ChanId} (h : v.channel ≠ c) (tells : Bool) : v.afterRoom tells c = v := by
  simp [Attachment.afterRoom, Attachment.isIn, h]

theorem roomEvents_false (s : State) (c : ChanId) (q : Port) : s.roomEvents false c q = [] := by
  simp [State.roomEvents, State.eventsFor]

section
variable {s t : State} {makes : ChanId → Bool} {done : List ChanId} (R : Rooms s t makes done) {c : ChanId}
include R

/-- A channel that makes no room tells nobody. -/
theorem Rooms.skip (hm : makes c = false) : Rooms s t makes (done ++ [c]) where
  stores := R.stores
  att b := by
    rw [R.att]
    congr 1
    funext v
    congr 1
    by_cases hv : v.channel = c
    · simp [hv, hm]
    · simp [hv]
  moves d := (R.moves d).congr (congrArg Toll.ofEvents (funext fun q => by simp [hm, roomEvents_false]))

/-- A channel that makes room tells its producers. -/
theorem Rooms.tell (hm : makes c = true) (hc : c ∉ done) :
    Rooms s ((t.roomWaiters c).foldl (tellRoom c) t) makes (done ++ [c]) where
  stores := R.stores.trans (tellRooms_sameStores c _ t)
  att b := by
    rw [att_tellRooms]
    cases hv : t.att b with
    | none => rw [R.att, Option.map_eq_none_iff] at hv; simp [hv]
    | some v =>
      rw [Option.map_some, roomTold_eq_afterRoom hv]
      rw [R.att, Option.map_eq_some_iff] at hv
      obtain ⟨v', hv', rfl⟩ := hv
      rw [hv', Option.map_some]
      congr 1
      by_cases hvc : v'.channel = c
      · simp [hvc, hm, hc, afterRoom_false]
      · rw [afterRoom_of_ne (by rwa [afterRoom_keeps])]
        simp [hvc]
  moves d := by
    have h := (R.moves d).trans (tellRooms_moves c (t.roomWaiters c) d t)
    rw [ofEvents_append] at h
    refine h.congr (congrArg Toll.ofEvents (funext fun q => ?_))
    rw [roomWaiters_events, List.flatMap_append, List.flatMap_singleton, hm]
    congr 1
    refine eventsFor_congr R.att q (fun j v => ?_)
    rw [R.stores.chan]
    by_cases hvc : v.channel = c
    · simp [hvc, hc, afterRoom_false]
    · simp [Attachment.isIn, afterRoom_keeps, hvc]

end

/-- A fold over a list without repeats, seen through what it has done. -/
theorem foldl_done {α : Type} {f : State → α → State} {I : State → List α → Prop}
    (hf : ∀ t l a, a ∉ l → I t l → I (f t a) (l ++ [a])) (todo done : List α) (hn : (done ++ todo).Nodup) (t : State)
    (ht : I t done) : I (todo.foldl f t) (done ++ todo) := by
  induction todo generalizing done t with
  | nil => simpa using ht
  | cons a todo ih =>
    have ha : a ∉ done := fun h => (List.nodup_append.mp hn).2.2 a h a (by simp) rfl
    have h := ih (done ++ [a]) (by simpa using hn) (f t a) (hf t done a ha ht)
    simpa using h

theorem SameStores.occupancy {s t : State} (h : SameStores s t) (c : ChanId) : t.occupancy c = s.occupancy c :=
  occupancy_congr (by rw [h.chan]) (by rw [h.chan]) (by rw [h.chan]) (fun r => by rw [h.msg]; exact ⟨rfl, rfl⟩) h.slot

theorem SameStores.makesRoom {s s' t : State} (h : SameStores s t) (c : ChanId) : s'.makesRoom t c = s'.makesRoom s c := by
  rw [State.makesRoom, h.chan, h.occupancy, State.makesRoom]

/-- What the end of an event does (R64): each channel that has made room tells its producers. -/
theorem rooms_endOfEvent (before after : State) :
    Rooms after (endOfEvent before after) (before.makesRoom after) (List.finRange 32) := by
  have hstep : ∀ (t : State) (done : List ChanId) (c : ChanId), c ∉ done → Rooms after t (before.makesRoom after) done →
      Rooms after (if (after.chan c).state == .opened && decide (after.occupancy c < before.occupancy c) then roomCheck t c
        else t) (before.makesRoom after) (done ++ [c]) := by
    intro t done c hc R
    have hmakes : before.makesRoom after c = ((after.chan c).state == .opened &&
      decide (after.occupancy c < before.occupancy c) && decide (after.occupancy c ≤ (after.chan c).roomMark)) := rfl
    split_ifs with hlow
    · rw [roomCheck_eq, R.stores.occupancy, R.stores.chan]
      split_ifs with hroom
      · exact R.tell (by rw [hmakes, hlow]; simpa using hroom) hc
      · exact R.skip (by rw [hmakes]; simp [hroom])
    · exact R.skip (by rw [hmakes, Bool.eq_false_iff.mpr hlow, Bool.false_and])
  have hstart : Rooms after after (before.makesRoom after) [] :=
    ⟨SameStores.refl after, fun b => by simp [afterRoom_false], fun d => Moves.refl d after⟩
  have h := foldl_done (I := fun t l => Rooms after t (before.makesRoom after) l) hstep (List.finRange 32) []
    (by simpa using List.nodup_finRange 32) after hstart
  exact h

end Sys2Proof.Machine
end

section
/-! SUPPORT. DETACH (O19): the records that are freed, and the cells of those that are not (R36). -/

namespace Sys2Proof.Machine

/-! ## The records that a detach frees -/

/-- What a table without some of its records holds at a number that stays. -/
theorem Table.get_filter_of_kept {α : Type} (d : α) (t : List (Nat × α)) {f : Nat × α → Bool} {k : Nat}
    (h : ∀ v, f (k, v) = true) : Table.get d (t.filter f) k = Table.get d t k := by
  induction t with
  | nil => rfl
  | cons e t ih =>
    obtain ⟨j, v⟩ := e
    by_cases hj : j = k
    · subst hj
      rw [List.filter_cons_of_pos (h v)]
      simp [Table.get]
    · rw [Table.get, if_neg hj, ← ih, List.filter_cons]
      split_ifs
      · rw [Table.get, if_neg hj]
      · rfl

/-- The payload of a record that stays, when the cells of others return (R36). -/
theorem payload_of_kept {s t : State} {F : List RecId} (hs : s.cellsAgree)
    (hcells : t.cells = s.cells.filter (fun e => !F.any (fun r => (s.msg r).chain.contains e.1))) {r : RecId} (hr : r ∉ F)
    (hchain : (t.msg r).chain = (s.msg r).chain) (hlength : (t.msg r).length = (s.msg r).length) :
    t.payload r = s.payload r := by
  obtain ⟨-, -, -, hdisjoint, -⟩ := hs
  have hcell : ∀ k ∈ (s.msg r).chain, t.cell k = s.cell k := by
    intro k hk
    rw [State.cell, hcells, Table.get_filter_of_kept _ _ (fun v => ?_), State.cell]
    rw [Bool.not_eq_true', List.any_eq_false]
    intro r' hr' hc
    exact hdisjoint r r' (fun e => hr (e ▸ hr')) k hk (List.contains_iff_mem.mp hc)
  rw [State.payload, hchain, hlength, State.payload, List.flatMap_congr hcell]

theorem doom_keeps (m : MsgRecord) : m.doom.chain = m.chain ∧ m.doom.length = m.length := by
  unfold MsgRecord.doom
  split <;> exact ⟨rfl, rfl⟩

namespace Leaving

variable {s : State} {p : Port} {h : Handle} {u : Attachment} (L : Leaving s p h u) {r : RecId}
include L

theorem mem_freedInOrder_iff : r ∈ s.freedInOrder p (oneHandle h) ↔
    (r ∈ s.lettingGo p (oneHandle h) ∧ s.handsFree p (oneHandle h) r = true) ∨
      (r ∈ (s.chan u.channel).list ∧ s.listFrees p h r = true) := by
  rw [State.freedInOrder, List.mem_append, freedFromHands_eq, L.freedFromLists_eq, List.mem_filter, List.mem_filter]

theorem channel_of_freed (hr : r ∈ s.freedInOrder p (oneHandle h)) : (s.msg r).channel = some u.channel := by
  rcases L.mem_freedInOrder_iff.mp hr with ⟨hgo, -⟩ | ⟨hlist, -⟩
  · exact (L.going hgo).1
  · exact ((L.lists u.channel).2 r hlist).1

/-- A record that is not freed keeps its cells. -/
theorem recordMid_keeps (hr : r ∉ s.freedInOrder p (oneHandle h)) :
    (s.recordMid p (oneHandle h) r).chain = (s.msg r).chain ∧ (s.recordMid p (oneHandle h) r).length = (s.msg r).length := by
  rw [L.mem_freedInOrder_iff, not_or] at hr
  obtain ⟨hhands, hlists⟩ := hr
  by_cases hgo : r ∈ s.lettingGo p (oneHandle h)
  · rw [L.recordMid_of_going hgo]
    unfold State.handedBack
    dsimp only
    rw [if_neg (fun hf => hhands ⟨hgo, hf⟩)]
    split_ifs <;> exact ⟨rfl, rfl⟩
  · by_cases hpend : ⟨p, h⟩ ∈ (s.msg r).pending
    · obtain ⟨hrole, -, -, hlist, -⟩ := L.awaiting hpend
      obtain ⟨hfree, hmid⟩ := L.recordMid_of_awaited hpend (L.fanout_of_subscriber hrole)
      rw [hmid]
      split_ifs with he hh
      · exact absurd ⟨hlist, by simp [State.listFrees, hfree.mpr ⟨he, hh⟩, hpend]⟩ hlists
      · exact ⟨rfl, rfl⟩
      · exact ⟨rfl, rfl⟩
    · rw [L.recordMid_of_absent hgo hpend]
      exact ⟨rfl, rfl⟩

theorem recordLeft_keeps (hr : r ∉ s.freedInOrder p (oneHandle h)) :
    (s.recordLeft p (oneHandle h) r).chain = (s.msg r).chain ∧ (s.recordLeft p (oneHandle h) r).length = (s.msg r).length := by
  have hmid := L.recordMid_keeps hr
  cases hchannel : (s.msg r).channel with
  | none => rw [recordLeft_of_none hchannel]; exact hmid
  | some d =>
    cases hlast : s.lastGoes p (oneHandle h) d with
    | false => rw [recordLeft_of_stays hchannel hlast]; exact hmid
    | true =>
      have hd : d = u.channel := by
        by_contra hne
        rw [L.lastGoes_of_ne hne] at hlast
        exact absurd hlast (by simp)
      subst hd
      rw [L.recordLeft_of_last hlast hchannel]
      obtain ⟨hchain, hlength⟩ := doom_keeps (s.recordMid p (oneHandle h) r)
      exact ⟨hchain.trans hmid.1, hlength.trans hmid.2⟩

/-- The counters of the other channels do not rise. -/
theorem risesBy_of_ne {d : ChanId} (hd : d ≠ u.channel) (k : Counter) : s.risesBy p (oneHandle h) d k = 0 := by
  have hne : ∀ r, (s.msg r).channel = some u.channel → ((s.msg r).channel == some d) = false := by
    intro r hr
    rw [hr, beq_eq_false_iff_ne]
    exact fun e => hd (Option.some.inj e).symm
  have hnone : ∀ l : List RecId, (∀ r ∈ l, (s.msg r).channel = some u.channel) → ∀ f : RecId → Bool,
      l.countP (fun r => (s.msg r).channel == some d && f r) = 0 := by
    intro l hl f
    rw [List.countP_eq_zero]
    intro r hr
    simp [hne r (hl r hr)]
  have hgo := hnone _ (fun r (hr : r ∈ s.lettingGo p (oneHandle h)) => (L.going hr).1)
  have hfreed := hnone _ (fun r (hr : r ∈ s.freedInOrder p (oneHandle h)) => L.channel_of_freed hr)
  have hgo' := hgo (fun _ => true)
  have hfreed' := hfreed (fun _ => true)
  simp only [Bool.and_true] at hgo' hfreed'
  unfold State.risesBy
  split
  · exact hgo'
  · exact hfreed'
  · exact hfreed _
  · rfl

end Leaving

end Sys2Proof.Machine
end

section
/-! SUPPORT. DETACH (O19): the answer, and the statement. -/

namespace Sys2Proof.Machine

/-! ## The answer of a DETACH (R18 to R23) -/

/-- An answer writes the response record of one port alone. -/
theorem port_respond (s : State) (p : Port) (seq code : Byte) (x : Result) (d : List Byte) (q : Port) :
    (respond s p seq code x d).port q = { s.port q with response := ((respond s p seq code x d).port q).response } := by
  by_cases hq : q = p
  · subst hq; rw [port_respond_self]
  · rw [port_respond_of_ne _ _ _ _ _ _ hq]

/-- The engine's start and the answer bear on none of what the ROOM checks speak of. -/
theorem Rooms.answered {s t : State} {makes : ChanId → Bool} {done : List ChanId} (R : Rooms s t makes done) (before : State)
    (p : Port) (seq code : Byte) (x : Result) (d : List Byte) :
    Rooms s (respond (startEngine before t) p seq code x d) makes done where
  stores := R.stores.trans ⟨fun q i => slot_respond (startEngine before t) p seq code x d q i,
    fun q => by rw [port_respond]; rfl, fun _ => rfl, fun _ => rfl⟩
  att b := (att_respond (startEngine before t) p seq code x d b).trans (R.att b)
  moves e := ((R.moves e).trans (moves_of_same e (t := respond (startEngine before t) p seq code x d) rfl (fun _ _ => rfl)
    (fun q => by rw [port_respond]; exact ⟨rfl, rfl, rfl, rfl⟩))).congr (Toll.append_zero _)

theorem handsLeft_of_same {s x t : State} {p q : Port} {hs : Handle → Bool} (hslot : ∀ i, t.slot q i = x.slot q i)
    (hparked : (t.port q).parked = (x.port q).parked) (h : s.handsLeft x p hs q) : s.handsLeft t p hs q := by
  obtain ⟨hbound, hunbound⟩ := h
  refine ⟨fun d y hy hyq w hw => ?_, fun hnone => ?_⟩
  · obtain ⟨hp, hs⟩ := hbound d y hy hyq w hw
    exact ⟨hparked.trans hp, fun i => (hslot i).trans (hs i)⟩
  · obtain ⟨hp, hs⟩ := hunbound hnone
    exact ⟨hparked.trans hp, fun i => (hslot i).trans (hs i)⟩

/-- What the hand-backs and the frees of a detach add, in the words of the statements. -/
theorem goneToll_all (s : State) (p : Port) (hs : Handle → Bool) (c : ChanId) :
    s.goneToll p hs c (s.lettingGo p hs) (s.freedFromLists p hs) =
      ⟨s.chainsOf (s.freedInOrder p hs), s.risesBy p hs c, s.farewells p hs,
        fun q => (eachAfter [] (s.lettingGo p hs)).flatMap (fun x => s.handBackEvents p hs q x.1 x.2) ++
          (eachAfter (s.freedFromHands p hs) (s.freedFromLists p hs)).flatMap
            (fun x => s.deliveredEvents p hs q x.1 x.2)⟩ := by
  rw [risesBy_eq]
  rfl

/-- From `s` a detach of ⟨p, h⟩ settles all in `x` and leaves `z`, and the ROOM checks leave `t`. -/
structure Gone (s x z t : State) (p : Port) (h : Handle) (u : Attachment) : Prop where
  leaving : Leaving s p h u
  settled : Settled s x p h u.channel
  detached : Detached s x z p h u.channel
  rooms : Rooms z t (s.makesRoom z) (List.finRange 32)

namespace Gone

variable {s x z t : State} {p : Port} {h : Handle} {u : Attachment} (G : Gone s x z t p h u)
include G

theorem sameHands : SameHands x z := sameHands_of_ports G.detached.ports

theorem att (b : AttRef) : t.att b = if b = ⟨p, h⟩ then none else (s.att b).map (fun v =>
    (s.heard p (oneHandle h) (s.lettingGo p (oneHandle h)) v).afterRoom (s.makesRoom t v.channel) v.channel) := by
  rw [G.rooms.att, G.sameHands.att, G.settled.att]
  split_ifs with hb
  · rfl
  · rw [Option.map_map]
    congr 1
    funext v
    simp [(heard_keeps s p (oneHandle h) (s.lettingGo p (oneHandle h)) v).1, G.rooms.stores.makesRoom]

theorem counters (d : ChanId) (k : Counter) (hlast : s.lastGoes p (oneHandle h) d = false) :
    t.counter d k = s.counter d k + BitVec.ofNat 16 (s.risesBy p (oneHandle h) d k) := by
  have hz : z.counter d k = x.counter d k := by rw [State.counter, G.detached.stats d hlast, State.counter]
  have ht : t.counter d k = z.counter d k := by rw [State.counter, G.rooms.stores.chan, State.counter]
  rw [ht, hz, G.settled.moves.counters, goneToll_all]
  split_ifs with hd
  · rw [hd]
  · rw [G.leaving.risesBy_of_ne hd]

theorem cells : t.cells =
    s.cells.filter (fun e => !(s.freedInOrder p (oneHandle h)).any (fun r => (s.msg r).chain.contains e.1)) := by
  rw [(G.rooms.moves u.channel).cells, G.detached.cells, G.settled.moves.cells, goneToll_all]
  simp [Toll.ofEvents, State.chainsOf, List.any_map, Function.comp_def]

theorem cellsReturn : s.cellsReturn t (s.freedInOrder p (oneHandle h)) := by
  refine ⟨G.cells, fun q => ?_, fun hs r hr => ?_⟩
  · rw [(G.rooms.moves u.channel).charge, State.port, G.detached.ports]
    show (x.port q).charge - _ = _
    rw [G.settled.moves.charge, goneToll_all]
    simp [Toll.ofEvents, State.chainsOf, List.filter_map, Function.comp_def]
  · have hmsg : t.msg r = s.recordLeft p (oneHandle h) r := (G.rooms.stores.msg r).trans (G.detached.msg r)
    obtain ⟨hchain, hlength⟩ := G.leaving.recordLeft_keeps hr
    exact payload_of_kept hs G.cells hr (by rw [hmsg, hchain]) (by rw [hmsg, hlength])

theorem gone (ht : t.reclaim = z.reclaim) : s.gone t p (oneHandle h) := by
  refine ⟨fun d => ?_, fun d hlast hnil => ?_, G.counters, ht.trans G.detached.reclaim, G.cellsReturn⟩
  · rw [G.rooms.stores.chan]; exact G.detached.chan d
  · by_cases hd : d = u.channel
    · subst hd
      rw [G.rooms.stores.chan]
      exact G.detached.freed hlast hnil
    · rw [G.leaving.lastGoes_of_ne hd] at hlast
      exact absurd hlast (by simp)

/-- The producers that are told of room are those that stay, under the name of a channel that is still OPEN. -/
theorem roomEvents (d : ChanId) (q : Port) : z.roomEvents (s.makesRoom z d) d q =
    (s.without p (oneHandle h)).roomEvents (s.makesRoom t d) d q := by
  have hatt : ∀ b, z.att b =
      ((s.without p (oneHandle h)).att b).map (s.heard p (oneHandle h) (s.lettingGo p (oneHandle h))) := by
    intro b
    rw [G.sameHands.att, G.settled.att, att_without, leaves_oneHandle]
    by_cases hb : b = ⟨p, h⟩ <;> simp [hb]
  rw [G.rooms.stores.makesRoom]
  cases hm : s.makesRoom z d with
  | false => rw [roomEvents_false, roomEvents_false]
  | true =>
    have hname : (z.chan d).name = (s.chan d).name := by
      have hopen : (z.chan d).state = .opened := by
        simp only [State.makesRoom, Bool.and_eq_true, beq_iff_eq] at hm
        exact hm.1.1
      rw [G.detached.chan] at hopen ⊢
      unfold State.channelLeft at hopen ⊢
      split_ifs at hopen ⊢
      · exact absurd hopen (by simp [Channel.free])
      · rfl
    refine eventsFor_congr hatt q (fun j v => ?_)
    obtain ⟨hchannel, hrole, -, hwanted⟩ := heard_keeps s p (oneHandle h) (s.lettingGo p (oneHandle h)) v
    rw [Attachment.isIn, hchannel, hrole, hwanted, hname]
    rfl

theorem events (q : Port) : (t.port q).events = queued (s.port q).events (s.goneEvents t p (oneHandle h) q) := by
  have hz : (z.port q).events = (x.port q).events := by rw [State.port, G.detached.ports, State.port]
  rw [(G.rooms.moves u.channel).events, hz, G.settled.moves.events, ← queued_append, goneToll_all]
  simp only [Toll.ofEvents, G.roomEvents]
  rfl

theorem portGone (q : Port) (hserial : (t.port q).serial = (s.port q).serial) : s.portGone t p (oneHandle h) q := by
  have hz : z.port q = x.port q := by rw [State.port, G.detached.ports, State.port]
  refine ⟨?hands, ?receipts, ?reservations, fun j hj => ?att, G.events q, hserial⟩
  case hands =>
    exact handsLeft_of_same (fun i => (G.rooms.stores.slot q i).trans (G.sameHands.slot q i))
      ((G.rooms.stores.parked q).trans (G.sameHands.parked q)) (G.settled.hands q)
  case receipts =>
    rw [(G.rooms.moves u.channel).receipts, hz, G.settled.moves.receipts, goneToll_all]
    simp [Toll.ofEvents]
  case reservations =>
    rw [(G.rooms.moves u.channel).reservations, hz, G.settled.moves.reservations, goneToll_all]
    simp [Toll.ofEvents]
  case att =>
    rw [leaves_oneHandle, beq_eq_false_iff_ne] at hj
    rw [G.att, if_neg hj]
    rfl

end Gone

theorem exec_detach (l : Link) (seq b : Byte) (s : State) : exec (.detach l seq b) s =
    runCommand (.detach l seq b) (fun s => withHandle s l.port b (fun h _ => ⟨detach s ⟨l.port, h⟩, .ok, []⟩)) s := rfl

/-- The frame of a DETACH. -/
abbrev detachFrame (l : Link) (seq b : Byte) : CommandFrame := ⟨l, 0x12, seq, [b]⟩

/-- An accepted DETACH: the attachment goes, the event ends, and the port answers. -/
theorem exec_detach_of_names {l : Link} {b : Byte} {s : State} {h : Handle} {u : Attachment} (seq : Byte) (hr : s.ready l)
    (hn : s.names l.port b h u) : exec (.detach l seq b) s = .next (respond
      (startEngine (s.onFrame (detachFrame l seq b)) (endOfEvent (s.onFrame (detachFrame l seq b))
        (detach (s.onFrame (detachFrame l seq b)) ⟨l.port, h⟩))) l.port seq 0x12 .ok []) := by
  rw [exec_detach, runCommand_of_ready (f := detachFrame l seq b) rfl rfl hr, withHandle_onFrame hn]

/-- What `Work` leaves of a port's session. -/
theorem sessionSame_of_work {s y : State} {f : CommandFrame} (hw : Work (s.onFrame f) y) (q : Port) : s.sessionSame y q ∧
    (y.port q).serial = (s.port q).serial := by
  have h := hw.ports q
  rw [port_onFrame] at h
  exact ⟨⟨h.session, h.epoch, h.lease, h.receiptAttention, h.badCodes, h.penalty⟩, h.serial⟩

/-- What the answer of a detach leaves, once the ROOM checks have left `e`. -/
theorem Gone.answer {s x z e : State} {p : Port} {h : Handle} {u : Attachment} {f : CommandFrame} {seq : Byte}
    (G : Gone s x z (respond (startEngine (s.onFrame f) e) p seq 0x12 .ok []) p h u) (hcalm : Calm z e)
    (hgap : z.engineGap = s.engineGap) (hwork : Work (s.onFrame f) (startEngine (s.onFrame f) e)) :
    let t := respond (startEngine (s.onFrame f) e) p seq 0x12 .ok []
    (t.port p).response = ⟨seq, 0x12, .ok, [], true⟩ ∧ t.att ⟨p, h⟩ = none ∧ s.gone t p (oneHandle h) ∧
      (∀ r : RecId, t.msg r = s.recordLeft p (oneHandle h) r) ∧ (∀ q : Port, s.portGone t p (oneHandle h) q) ∧
      s.clockLeft t ∧ s.sessionsSame t := by
  refine ⟨by rw [port_respond_self], ?att, G.gone hcalm.reclaim, fun r => (G.rooms.stores.msg r).trans (G.detached.msg r),
    fun q => G.portGone q ?serial, ⟨hwork.tickPhase.trans (tickPhase_onFrame s f), ?gap,
      hwork.pending.trans (pending_onFrame s f)⟩, fun q => ?session⟩
  case att => rw [G.att, if_pos rfl]
  case serial => rw [port_respond]; exact (sessionSame_of_work hwork q).2
  case gap =>
    show (startEngine (s.onFrame f) e).engineGap = _
    rw [engineGap_startEngine, hcalm.engineGap, hgap, reclaim_onFrame]
    simp only [Bool.and_eq_true, List.isEmpty_iff, Bool.not_eq_true', List.isEmpty_eq_false_iff]
    rfl
  case session =>
    obtain ⟨hs, -⟩ := sessionSame_of_work hwork q
    rw [State.sessionSame, port_respond]
    exact hs

/-- Settles O19: a detach settles what its attachment holds and awaits, then the channel forgets it and may close, and the
ROOM checks end the event. -/
theorem detachFreesOrClosesTheChannel : Obligations.DetachFreesOrClosesTheChannel := by
  refine ⟨fun l seq b s hr hb => ?refused, fun l seq b s h u hr hn hl => ?accepted⟩
  case refused =>
    rw [exec_detach]
    exact badHandle_of_namesNone (f := detachFrame l seq b) rfl rfl hr hb
  case accepted =>
    let f := detachFrame l seq b
    let z : State := detach (s.onFrame f) ⟨l.port, h⟩
    have L : Leaving s l.port h u := leaving_of_lawful hn.2 hl
    have A : Alike u.channel s (s.onFrame f) := onFrame_alike u.channel s f
    have D := detached_detach A (reclaim_onFrame s f) hn.2 L
    have hmakes : (s.onFrame f).makesRoom z = s.makesRoom z :=
      funext fun d => by rw [State.makesRoom, occupancy_onFrame, State.makesRoom]
    have hrooms : Rooms z (endOfEvent (s.onFrame f) z) (s.makesRoom z) (List.finRange 32) :=
      hmakes ▸ rooms_endOfEvent (s.onFrame f) z
    have hgap : z.engineGap = s.engineGap :=
      (D.gap.trans (settleAll_engineSame (s.onFrame f) u ⟨l.port, h⟩).2).trans (engineGap_onFrame s f)
    exact ⟨_, exec_detach_of_names seq hr hn,
      Gone.answer ⟨L, settled_settleAll L A, D, hrooms.answered (s.onFrame f) l.port seq 0x12 .ok []⟩
        (endOfEvent_calm _ _) hgap (startEngine_work ((detach_work (s.onFrame f) ⟨l.port, h⟩).trans (endOfEvent_work _ _)))⟩

end Sys2Proof.Machine
end

section
/-! SUPPORT. What every event keeps (O54, O60, O13): the commands' own work, the frames around it, the engine's steps, the
expiries and the ticks, put together once. -/

namespace Sys2Proof.Machine

/-- The own work of a command that comes in a frame and is taken (R185). -/
def bodyOf : Instr → Option (State → Reply)
  | .hello l _ lease options => some (helloBody l.port lease options)
  | .status l _ => some (fun s => ⟨s, .ok, s.statusBytes l.port⟩)
  | .create l _ name kind depth mark policy code role => some (createBody l.port name kind depth mark policy code role)
  | .attach l _ name role code options => some (attachBody l.port name role code options)
  | .detach l _ handle => some (fun s => withHandle s l.port handle (fun h _ => ⟨detach s ⟨l.port, h⟩, .ok, []⟩))
  | .purge l _ handle => some (purgeBody l.port handle)
  | .channelInfo l _ handle => some (fun s => withHandle s l.port handle (fun _ t => ⟨s, .ok, s.infoBytes t.channel⟩))
  | .post l _ handle tag flags lifetime payload => some (postBody l.port handle tag flags lifetime payload)
  | .take l _ handle wait => some (takeBody l.port handle wait)
  | .readHand l _ slot => some (readHandBody l.port slot)
  | .release l _ slot source serial => some (releaseBody l.port slot source serial)
  | .giveBack l _ slot source serial => some (giveBackBody l.port slot source serial)
  | .cancelWait l _ => some (cancelWaitBody l.port)
  | .setNotify l _ handle threshold wait stats => some (setNotifyBody l.port handle threshold wait stats)
  | .setFilter l _ handle mode content => some (setFilterBody l.port handle mode content)
  | .watch l _ handle tag mask rearm => some (watchBody l.port handle tag mask rearm)
  | .unwatch l _ handle => some (unwatchBody l.port handle)
  | .hold l _ handle => some (holdBody l.port handle)
  | .resume l _ handle => some (resumeBody l.port handle)
  | .peek l _ handle index => some (peekBody l.port handle index)
  | .readStats l _ handle clear => some (readStatsBody l.port handle clear)
  | .readEvents l _ most => some (readEventsBody l.port most)
  | .dropEvents l _ number => some (dropEventsBody l.port number)
  | .readReceipts l _ most => some (readReceiptsBody l.port most)
  | .dropReceipts l _ number => some (dropReceiptsBody l.port number)
  | _ => none

/-- A command with a body of its own runs it in its frame. -/
theorem exec_of_body {i : Instr} {b : State → Reply} (h : bodyOf i = some b) (s : State) : exec i s = runCommand i b s := by
  cases i <;> cases h <;> rfl

/-- What a property of states must meet, so that every event keeps it whose own work keeps it. -/
structure Stable (P : State → Prop) : Prop where
  face : ∀ s p f, f (s.port p) = { s.port p with
      response := (f (s.port p)).response, deaf := (f (s.port p)).deaf, flight := (f (s.port p)).flight,
      sdo := (f (s.port p)).sdo } → P s → P (s.modPort p f)
  draws : ∀ s n, P s → P { s with draws := n }
  gap : ∀ s n, P s → P { s with engineGap := n }
  room : ∀ s c, P s → P (roomCheck s c)
  engine : ∀ s, P s → P (engineStep s)
  due : ∀ s x, P s → s.ticksLeft x = some 0 → P (expire s x)
  tick : ∀ n s, P s → P (advance n s)

namespace Stable

variable {P : State → Prop} (H : Stable P)
include H

theorem asserted {s : State} (l : Link) (h : P s) : P (s.asserted l) := by
  rw [asserted_eq]
  exact H.face _ _ _ rfl (H.draws _ _ h)

theorem received {s : State} (l : Link) (h : P s) : P (s.received l) := by
  have flight : ∀ {u : State} (x : Option Byte), P u → P (inFlight u l.port x) := fun _ hu => H.face _ _ _ rfl hu
  unfold State.received
  split
  · exact flight _ (H.asserted l h)
  · exact flight _ (H.asserted l h)
  · exact flight _ h

theorem respond {s : State} (p : Port) (seq code : Byte) (x : Result) (d : List Byte) (h : P s) :
    P (respond s p seq code x d) := H.face _ _ _ rfl h

theorem endOfEvent (before : State) {after : State} (h : P after) : P (endOfEvent before after) := by
  have key : ∀ (l : List ChanId) (s : State), P s → P (l.foldl (fun s c =>
      if (after.chan c).state == .opened && decide (after.occupancy c < before.occupancy c) then roomCheck s c else s) s) := by
    intro l
    induction l with
    | nil => exact fun s h => h
    | cons c rest ih =>
      intro s h
      refine ih _ ?_
      dsimp only
      split
      · exact H.room s c h
      · exact h
  exact key _ _ h

theorem overFrame {l : Link} {out : List Byte} {body : State → State} (hb : ∀ s, P s → P (body s)) {s t : State} (h : P s)
    (ht : overFrame l out body s = .next t) : P t := by
  unfold Machine.overFrame at ht
  split at ht
  · cases ht
    exact hb _ (H.face _ _ _ rfl (H.received l h))
  · cases ht
    exact H.received l h

theorem takeCommand {f : CommandFrame} {body : State → Reply} (hb : ∀ s, P s → P (body s).state) {s : State} (h : P s) :
    P (takeCommand f body s) := by
  unfold Machine.takeCommand
  split
  · exact H.respond _ _ _ _ _ h
  · split
    · exact H.respond _ _ _ _ _ (H.gap _ _ (H.endOfEvent s (hb s h)))
    · exact H.respond _ _ _ _ _ h

theorem runCommand {i : Instr} {body : State → Reply} (hb : ∀ s, P s → P (body s).state) {s t : State} (h : P s)
    (ht : runCommand i body s = .next t) : P t := by
  unfold Machine.runCommand at ht
  split at ht
  · cases ht
    exact h
  · exact H.overFrame (fun _ => H.takeCommand hb) h ht

theorem reach {s : State} (n : Nat) (h : P s) : P (reach n s) :=
  reach_keeps H.engine H.due H.tick n s h

theorem comeTo {s t : State} {x : Expiry} (h : P s) (ht : (.next (comeTo s x) : Answer) = .next t) : P t := by
  cases ht
  exact comeTo_keeps H.engine H.due H.tick s x h

/-- A record step is the engine's step where it is the head channel's turn for one, and else nothing (log 4). -/
theorem recordStep {s : State} (h : P s) : P (recordStep s) := by
  have hs := H.engine s h
  unfold engineStep at hs
  split at hs
  · next hq => simpa [Machine.recordStep, hq] using h
  · next e q hq =>
    split at hs
    · next hl => simpa [Machine.recordStep, hq, List.isEmpty_iff.mp hl] using h
    · exact hs

theorem completionStep {s : State} (h : P s) : P (completionStep s) := by
  have hs := H.engine s h
  unfold engineStep at hs
  split at hs
  · next hq => simpa [Machine.completionStep, hq] using h
  · next e q hq =>
    split at hs
    · exact hs
    · next hl => simpa [Machine.completionStep, hq, hl] using h

/-- Every command but a reset keeps what its own work keeps. -/
theorem exec {i : Instr} (hi : ∀ cause, i ≠ .deviceReset cause)
    (hb : ∀ b, bodyOf i = some b → ∀ s, P s → P (b s).state) {s t : State} (h : P s) (ht : exec i s = .next t) : P t := by
  by_cases hbody : ∃ b, bodyOf i = some b
  · obtain ⟨b, hbody⟩ := hbody
    exact H.runCommand (hb b hbody) h (exec_of_body hbody s ▸ ht)
  · cases i
    case deviceReset cause => exact absurd rfl (hi cause)
    case frameError l bytes =>
      change execFrameError l bytes s = _ at ht
      unfold execFrameError at ht
      split at ht
      · cases ht; exact H.received l h
      · split at ht
        · split at ht
          · exact H.overFrame (fun _ => H.respond _ _ _ _ _) h ht
          · cases ht; exact h
        · cases ht; exact h
    case collect l after =>
      refine H.overFrame (fun u hu => H.face _ _ _ ?_ hu) h ht
      split <;> rfl
    case lifetimeExpiry => exact H.comeTo h ht
    case waitExpiry => exact H.comeTo h ht
    case leaseExpiry => exact H.comeTo h ht
    case penaltyExpiry => exact H.comeTo h ht
    case coalescingExpiry => exact H.comeTo h ht
    case recordStep => cases ht; exact H.recordStep h
    case completionStep => cases ht; exact H.completionStep h
    case longTickBoundary => cases ht; exact H.reach _ h
    all_goals exact absurd ⟨_, rfl⟩ hbody

/-- Every step keeps what resets, waiting commands and the commands' own work keep. -/
theorem step (reset : ∀ s, P s → P (resetPart s)) (pending : ∀ s q, P s → P { s with pending := q })
    (hb : ∀ i b, bodyOf i = some b → ∀ s, P s → P (b s).state) {s t : State} (h : P s) (ht : step s = .next t) : P t := by
  unfold Machine.step at ht
  split at ht
  · next i rest _ =>
    have h := pending s rest h
    by_cases hi : ∀ cause, i ≠ .deviceReset cause
    · exact H.exec hi (hb i) h ht
    · push Not at hi
      obtain ⟨cause, rfl⟩ := hi
      cases cause with
      | powerOn => cases ht; exact reset _ h
      | lowPulse => cases ht; exact reset _ h
      | shortPulse =>
        rw [exec_deviceReset_shortPulse] at ht
        cases ht
        split
        · exact reset _ (H.draws _ _ h)
        · exact H.draws _ _ h
  · exact idle_keeps H.engine H.due (fun u => H.tick 1 u) (fun u => H.draws u _) h ht

end Stable

/-- The work of a handle keeps what the refusal and the work of each attachment keep. -/
theorem withHandle_keeps {P : State → Prop} {s : State} {p : Port} {b : Byte} {k : Handle → Attachment → Reply} (h : P s)
    (hk : ∀ j t, s.att ⟨p, j⟩ = some t → P (k j t).state) : P (withHandle s p b k).state := by
  unfold withHandle
  split
  · exact h
  · next j t hj => exact hk j t ((handleAt_eq_some_iff s p b j t).mp hj).2

end Sys2Proof.Machine
end

section
/-! SUPPORT. The cell pool (O54, O13): what one update leaves of the pool, and the free of a record (R33 to R36, R39). -/

namespace Sys2Proof.Machine

/-! ## What leaves the pool as it is -/

/-- From `s` to `t` the cells and the charges are the same, and every record keeps what R27 says it keeps; none becomes
FREE. -/
structure SamePool (s t : State) : Prop where
  cells : t.cells = s.cells
  charge : ∀ p, (t.port p).charge = (s.port p).charge
  identity : ∀ r, (t.msg r).identity = (s.msg r).identity
  free : ∀ r, (t.msg r).state = .free → (s.msg r).state = .free

/-- What R27 says that a record keeps, field by field. -/
theorem identity_eq_iff {a b : MsgRecord} : a.identity = b.identity ↔ a.ticket = b.ticket ∧ a.channel = b.channel ∧
    a.tag = b.tag ∧ a.length = b.length ∧ a.chain = b.chain ∧ a.urgent = b.urgent := by
  simp [MsgRecord.identity]

theorem SamePool.refl (s : State) : SamePool s s := ⟨rfl, fun _ => rfl, fun _ => rfl, fun _ h => h⟩

theorem SamePool.trans {s t u : State} (h : SamePool s t) (g : SamePool t u) : SamePool s u :=
  ⟨g.cells.trans h.cells, fun p => (g.charge p).trans (h.charge p), fun r => (g.identity r).trans (h.identity r),
   fun r hr => h.free r (g.free r hr)⟩

/-- How many cells of a record a port is charged for. -/
def State.chargeOf (s : State) (p : Port) (r : RecId) : Nat :=
  if (s.msg r).ticket.source = p then (s.msg r).chain.length else 0

/-- The cells in the chains of a port's records, as a sum over all records where a FREE one has no chain. -/
theorem cellsOwned_eq {s : State} (hfree : ∀ r, (s.msg r).state = .free → (s.msg r).chain = []) (p : Port) :
    s.cellsOwned p = ∑ r : RecId, s.chargeOf p r := by
  rw [State.cellsOwned, Fin.sum_univ_def]
  congr 2
  funext r
  by_cases hr : (s.msg r).state = .free
  · simp [State.chargeOf, hr, hfree r hr]
  · simp [State.chargeOf, hr]

section
variable {s t : State} (h : SamePool s t)
include h

theorem SamePool.chain (r : RecId) : (t.msg r).chain = (s.msg r).chain := (identity_eq_iff.mp (h.identity r)).2.2.2.2.1

theorem SamePool.cell : t.cell = s.cell := by
  funext k
  rw [State.cell, h.cells, State.cell]

theorem SamePool.payload (r : RecId) : t.payload r = s.payload r := by
  obtain ⟨-, -, -, hlength, hchain, -⟩ := identity_eq_iff.mp (h.identity r)
  rw [State.payload, State.payload, hlength, hchain, h.cell]

theorem SamePool.cellsAgree (hs : s.cellsAgree) : t.cellsAgree := by
  obtain ⟨hwf, hcharge, hnodup, hapart, hused, hfree, hlength, hbytes⟩ := hs
  have hfree' : ∀ r, (t.msg r).state = .free → (t.msg r).chain = [] := fun r hr =>
    (h.chain r).trans (hfree r (h.free r hr))
  have hlen : ∀ r, (t.msg r).length = (s.msg r).length := fun r => (identity_eq_iff.mp (h.identity r)).2.2.2.1
  have hsource : ∀ r, (t.msg r).ticket = (s.msg r).ticket := fun r => (identity_eq_iff.mp (h.identity r)).1
  refine ⟨h.cells ▸ hwf, fun p => ?_, ?_, ?_, ?_, hfree', ?_, ?_⟩
  · rw [h.charge, hcharge, cellsOwned_eq hfree, cellsOwned_eq hfree']
    simp only [State.chargeOf, h.chain, hsource]
  · simpa only [h.chain] using hnodup
  · simpa only [h.chain] using hapart
  · simpa only [h.chain, h.cells] using hused
  · simpa only [h.chain, hlen] using hlength
  · simpa only [h.chain, hlen, h.cell] using hbytes

end

/-! ## What keeps the pool -/

/-- From `s` to `t` no charge rises; where the cells agree they go on to do so, and every record keeps its identity and its
payload or is freed (R27, R34). -/
structure Pooled (s t : State) : Prop where
  charge : ∀ p, (t.port p).charge ≤ (s.port p).charge
  agree : s.cellsAgree → t.cellsAgree
  keeps : s.cellsAgree → ∀ r, ((t.msg r).identity = (s.msg r).identity ∧ t.payload r = s.payload r) ∨
    (t.msg r).identity = MsgRecord.free.identity

theorem SamePool.pooled {s t : State} (h : SamePool s t) : Pooled s t :=
  ⟨fun p => (h.charge p).le, h.cellsAgree, fun _ r => Or.inl ⟨h.identity r, h.payload r⟩⟩

theorem Pooled.refl (s : State) : Pooled s s := (SamePool.refl s).pooled

theorem Pooled.trans {s t u : State} (h : Pooled s t) (g : Pooled t u) : Pooled s u where
  charge p := (g.charge p).trans (h.charge p)
  agree hs := g.agree (h.agree hs)
  keeps hs r := by
    rcases g.keeps (h.agree hs) r with ⟨gi, gp⟩ | gi
    · rcases h.keeps hs r with ⟨hi, hp⟩ | hi
      · exact Or.inl ⟨gi.trans hi, gp.trans hp⟩
      · exact Or.inr (gi.trans hi)
    · exact Or.inr gi

theorem Pooled.foldl {α : Type} {f : State → α → State} (h : ∀ s a, Pooled s (f s a)) (l : List α) (s : State) :
    Pooled s (l.foldl f s) := by
  induction l generalizing s with
  | nil => exact .refl s
  | cons a rest ih => exact (h s a).trans (ih (f s a))

theorem SamePool.foldl {α : Type} {f : State → α → State} (h : ∀ s a, SamePool s (f s a)) (l : List α) (s : State) :
    SamePool s (l.foldl f s) := by
  induction l generalizing s with
  | nil => exact .refl s
  | cons a rest ih => exact (h s a).trans (ih (f s a))

/-! ## The updates -/

theorem modPort_samePool (s : State) (p : Port) (f : PortState → PortState) (h : (f (s.port p)).charge = (s.port p).charge) :
    SamePool s (s.modPort p f) :=
  { SamePool.refl s with
    charge := fun q => by
      rw [port_modPort]
      split_ifs with hq
      · rw [h, hq]
      · rfl
    identity := fun _ => rfl
    free := fun _ hr => hr }

theorem modChan_samePool (s : State) (c : ChanId) (f : Channel → Channel) : SamePool s (s.modChan c f) :=
  ⟨rfl, fun _ => rfl, fun _ => rfl, fun _ h => h⟩

theorem modMsg_samePool (s : State) (r : RecId) (f : MsgRecord → MsgRecord)
    (hi : (f (s.msg r)).identity = (s.msg r).identity) (hf : (f (s.msg r)).state = .free → (s.msg r).state = .free) :
    SamePool s (s.modMsg r f) :=
  { SamePool.refl s with
    charge := fun _ => rfl
    identity := fun q => by
      rw [msg_modMsg]
      split_ifs with hq
      · rw [hi, hq]
      · rfl
    free := fun q hq => by
      rw [msg_modMsg] at hq
      split_ifs at hq with e
      · exact e ▸ hf hq
      · exact hq }

theorem setAtt_samePool (s : State) (a : AttRef) (x : Option Attachment) : SamePool s (s.setAtt a x) :=
  modPort_samePool s _ _ rfl

theorem modAtt_samePool (s : State) (a : AttRef) (f : Attachment → Attachment) : SamePool s (s.modAtt a f) :=
  setAtt_samePool s a _

theorem setSlot_samePool (s : State) (p : Port) (i : Slot) (x : HandSlot) : SamePool s (s.setSlot p i x) :=
  modPort_samePool s _ _ rfl

/-- A change of the work queue leaves the pool. -/
theorem SamePool.reclaim {s t : State} (h : SamePool s t) (q : List WorkEntry) : SamePool s { t with reclaim := q } :=
  ⟨h.cells, h.charge, h.identity, h.free⟩

theorem Pooled.reclaim {s t : State} (h : Pooled s t) (q : List WorkEntry) : Pooled s { t with reclaim := q } :=
  h.trans ((SamePool.refl t).reclaim q).pooled

theorem queueEvent_samePool (s : State) (p : Port) (e : Event) : SamePool s (queueEvent s p e) := modPort_samePool s p _ rfl

theorem notifyEach_samePool (s : State) (refs : List AttRef) (mk : AttRef → Event) : SamePool s (notifyEach s refs mk) :=
  SamePool.foldl (fun s (a : AttRef) => queueEvent_samePool s a.port (mk a)) refs s

theorem bump_samePool (s : State) (c : ChanId) (k : Counter) : SamePool s (bump s c k) := by
  unfold bump
  dsimp only
  split
  · exact (modChan_samePool s c _).trans (notifyEach_samePool _ _ _)
  · exact modChan_samePool s c _

/-! ## Outcomes and the free of a record -/

theorem queueReceipt_samePool (s : State) (c : ChanId) (r : RecId) (o : MsgOutcome) (n : Nat) :
    SamePool s (queueReceipt s c r o n) := by
  unfold queueReceipt
  dsimp only
  split
  · exact (modPort_samePool s _ _ rfl).trans (modMsg_samePool _ r _ rfl id)
  · exact .refl s

theorem issue_samePool (s : State) (c : ChanId) (r : RecId) (o : MsgOutcome) (n : Nat) : SamePool s (issue s c r o n) := by
  unfold issue
  split
  · exact .refl s
  · exact ((modMsg_samePool s r _ rfl id).trans (bump_samePool _ c _)).trans (queueReceipt_samePool _ c r o n)

theorem leaveList_samePool (s : State) (c : ChanId) (r : RecId) : SamePool s (leaveList s c r) := modChan_samePool s c _

/-- The cells of a record return and the record takes the FREE values (R36, R39). -/
def eraseRecord (s : State) (r : RecId) : State :=
  (returnCells s (s.msg r).chain (s.msg r).ticket.source).modMsg r (fun _ => MsgRecord.free)

theorem freeRecord_eq (s : State) (c : ChanId) (r : RecId) (o : MsgOutcome) (n : Nat) :
    freeRecord s c r o n = eraseRecord (leaveList (issue s c r o n) c r) r := rfl

section
variable (s : State) (r : RecId)

theorem msg_eraseRecord (q : RecId) : (eraseRecord s r).msg q = if q = r then MsgRecord.free else s.msg q :=
  msg_modMsg (returnCells s (s.msg r).chain (s.msg r).ticket.source) r (fun _ => MsgRecord.free) q

theorem charge_eraseRecord (p : Port) : ((eraseRecord s r).port p).charge =
    (s.port p).charge - s.chargeOf p r := by
  show ((returnCells s (s.msg r).chain (s.msg r).ticket.source).port p).charge = _
  rw [port_returnCells, State.chargeOf]
  by_cases hp : p = (s.msg r).ticket.source
  · simp [hp]
  · simp [hp, Ne.symm hp]

theorem cells_eraseRecord : (eraseRecord s r).cells = s.cells.filter (fun e => !((s.msg r).chain.contains e.1)) := rfl

variable {s r}

theorem cell_eraseRecord_of_not_mem {k : CellId} (hk : k ∉ (s.msg r).chain) : (eraseRecord s r).cell k = s.cell k := by
  rw [State.cell, cells_eraseRecord]
  exact Table.get_filter_of_kept [] s.cells (fun _ => by simpa using hk)

/-- The chains of the other records hold the bytes that they held. -/
theorem flatMap_cell_eraseRecord (hs : s.cellsAgree) {q : RecId} (hq : q ≠ r) :
    (s.msg q).chain.flatMap (eraseRecord s r).cell = (s.msg q).chain.flatMap s.cell := by
  obtain ⟨-, -, -, hapart, -⟩ := hs
  exact List.flatMap_congr (fun k hk => cell_eraseRecord_of_not_mem (hapart q r hq k hk))

theorem payload_eraseRecord_of_ne (hs : s.cellsAgree) {q : RecId} (hq : q ≠ r) : (eraseRecord s r).payload q = s.payload q := by
  rw [State.payload, msg_eraseRecord, if_neg hq, flatMap_cell_eraseRecord hs hq, State.payload]

theorem cellsAgree_eraseRecord (hs : s.cellsAgree) : (eraseRecord s r).cellsAgree := by
  have hbytes' := fun {q : RecId} (hq : q ≠ r) => flatMap_cell_eraseRecord hs hq
  obtain ⟨hwf, hcharge, hnodup, hapart, hused, hfree, hlength, hbytes⟩ := hs
  have hfree' : ∀ q, ((eraseRecord s r).msg q).state = .free → ((eraseRecord s r).msg q).chain = [] := by
    intro q hq
    rw [msg_eraseRecord] at hq ⊢
    split_ifs at hq ⊢
    · rfl
    · exact hfree q hq
  refine ⟨?_, fun p => ?_, fun q => ?_, fun q q' hne k hk => ?_, fun k => ?_, hfree', fun q => ?_, fun q => ?_⟩
  · exact Table.wf_filter hwf _
  · have hs := Finset.add_sum_erase Finset.univ (s.chargeOf p) (Finset.mem_univ r)
    have ht := Finset.add_sum_erase Finset.univ ((eraseRecord s r).chargeOf p) (Finset.mem_univ r)
    have hothers : ∑ q ∈ Finset.univ.erase r, (eraseRecord s r).chargeOf p q = ∑ q ∈ Finset.univ.erase r, s.chargeOf p q :=
      Finset.sum_congr rfl (fun q hq => by
        rw [State.chargeOf, msg_eraseRecord, if_neg (Finset.ne_of_mem_erase hq), State.chargeOf])
    have hnone : (eraseRecord s r).chargeOf p r = 0 := by
      rw [State.chargeOf, msg_eraseRecord, if_pos rfl]
      exact ite_self 0
    rw [charge_eraseRecord, hcharge, cellsOwned_eq hfree, cellsOwned_eq hfree', ← hs, ← ht, hothers, hnone]
    omega
  · rw [msg_eraseRecord]
    split_ifs
    · exact List.nodup_nil
    · exact hnodup q
  · have hqr : q ≠ r := fun e => absurd (hk : k ∈ ((eraseRecord s r).msg q).chain)
      (by rw [msg_eraseRecord, if_pos e]; exact List.not_mem_nil)
    rw [msg_eraseRecord, if_neg hqr] at hk
    rw [msg_eraseRecord]
    split_ifs
    · exact List.not_mem_nil
    · exact hapart q q' hne k hk
  · have hkeys : k ∈ (eraseRecord s r).cells.map Prod.fst ↔ k ∈ s.cells.map Prod.fst ∧ k ∉ (s.msg r).chain := by
      simp only [cells_eraseRecord, List.mem_map, List.mem_filter, Bool.not_eq_true', List.contains_eq_mem,
        decide_eq_false_iff_not]
      constructor
      · rintro ⟨e, ⟨he, hne⟩, rfl⟩; exact ⟨⟨e, he, rfl⟩, hne⟩
      · rintro ⟨⟨e, he, rfl⟩, hne⟩; exact ⟨e, ⟨he, hne⟩, rfl⟩
    rw [hkeys, hused]
    constructor
    · rintro ⟨⟨q, hq⟩, hne⟩
      have hqr : q ≠ r := fun e => hne (e ▸ hq)
      exact ⟨q, by rwa [msg_eraseRecord, if_neg hqr]⟩
    · rintro ⟨q, hq⟩
      rw [msg_eraseRecord] at hq
      split_ifs at hq with hqr
      · exact absurd hq List.not_mem_nil
      · exact ⟨⟨q, hq⟩, hapart q r hqr k hq⟩
  · rw [msg_eraseRecord]
    split_ifs
    · rfl
    · exact hlength q
  · rw [msg_eraseRecord]
    split_ifs with hq
    · rfl
    · rw [hbytes' hq]; exact hbytes q

end

theorem eraseRecord_pooled (s : State) (r : RecId) : Pooled s (eraseRecord s r) where
  charge p := by rw [charge_eraseRecord]; exact Nat.sub_le _ _
  agree := cellsAgree_eraseRecord
  keeps hs q := by
    by_cases hq : q = r
    · exact Or.inr (by rw [msg_eraseRecord, if_pos hq])
    · exact Or.inl ⟨by rw [msg_eraseRecord, if_neg hq], payload_eraseRecord_of_ne hs hq⟩

theorem freeRecord_pooled (s : State) (c : ChanId) (r : RecId) (o : MsgOutcome) (n : Nat) :
    Pooled s (freeRecord s c r o n) := by
  rw [freeRecord_eq]
  exact ((issue_samePool s c r o n).trans (leaveList_samePool _ c r)).pooled.trans (eraseRecord_pooled _ r)

end Sys2Proof.Machine
end

section
/-! SUPPORT. The cell pool (O54, O13): the shared operations and the commands' own work, but for the build of a record. -/

namespace Sys2Proof.Machine

section
variable (s : State) (c : ChanId) (r : RecId)

/-! ## Records that leave their list, hands and waits -/

theorem unlist_samePool : SamePool s (unlist s c r) := by
  refine (leaveList_samePool s c r).trans (modMsg_samePool _ r _ rfl ?_)
  exact fun h => absurd h (by simp)

theorem settlePending_pooled : Pooled s (settlePending s c r) := by
  unfold settlePending
  split
  · split
    · exact freeRecord_pooled s c r _ _
    · exact (unlist_samePool s c r).pooled
  · exact .refl s

theorem takeIntoHand_samePool : SamePool s (takeIntoHand s c r) := by
  refine (leaveList_samePool s c r).trans (modMsg_samePool _ r _ rfl ?_)
  exact fun h => absurd h (by simp)

theorem fillSlot_samePool (p : Port) (i : Slot) (h : Handle) : SamePool s (fillSlot s p i r h) := setSlot_samePool s p i _

theorem takeByHolder_pooled (a : AttRef) : Pooled s (takeByHolder s c r a) :=
  (modMsg_samePool s r _ rfl id).pooled.trans (settlePending_pooled _ c r)

theorem clearLagReported_samePool (a : AttRef) : SamePool s (clearLagReported s a) := modAtt_samePool s a _

theorem dropParked_samePool (p : Port) (w : ParkedTake) : SamePool s (dropParked s c p w) :=
  ((modChan_samePool s c _).trans (setSlot_samePool _ p w.slot .empty)).trans (modPort_samePool _ p _ rfl)

theorem bindSlot_samePool (p : Port) (w : ParkedTake) : SamePool s (bindSlot s c r p w) :=
  ((((fillSlot_samePool s r p w.slot w.handle).trans (modChan_samePool _ c _)).trans (modPort_samePool _ p _ rfl)).trans
    (clearLagReported_samePool _ ⟨p, w.handle⟩)).trans (queueEvent_samePool _ p _)

theorem bindPoint_samePool (p : Port) : SamePool s (bindPoint s c r p) := by
  unfold bindPoint
  split
  · exact .refl s
  · exact (takeIntoHand_samePool s c r).trans (bindSlot_samePool _ c r p _)

theorem bindFanout_pooled (p : Port) : Pooled s (bindFanout s c r p) := by
  unfold bindFanout
  split
  · exact .refl s
  · split
    · exact (takeByHolder_pooled s c r _).trans (bindSlot_samePool _ c r p _).pooled
    · exact .refl s

theorem arrive_samePool (u : Bool) (a : AttRef) : SamePool s (arrive s c u a) := by
  unfold arrive
  split
  · exact .refl s
  · split
    · exact .refl s
    · split
      · exact (modAtt_samePool s a _).trans (queueEvent_samePool _ _ _)
      · exact modAtt_samePool s a _

theorem arriveAll_samePool (u : Bool) (refs : List AttRef) : SamePool s (arriveAll s c u refs) :=
  SamePool.foldl (fun s a => arrive_samePool s c u a) refs s

/-! ## Handing back -/

theorem requeue_samePool : SamePool s (requeue s c r) := by
  have h : SamePool s (requeued s c r) := by
    refine (modMsg_samePool s r _ rfl ?_).trans (modChan_samePool _ c _)
    exact fun h => absurd h (by simp)
  unfold requeue
  dsimp only
  split
  · exact h.trans (bindPoint_samePool _ c r _)
  · exact h.trans (arriveAll_samePool _ c _ _)

theorem handBackPoint_pooled : Pooled s (handBackPoint s c r).1 := by
  unfold handBackPoint
  dsimp only
  split
  · split
    · exact ((bump_samePool s c _).trans (requeue_samePool _ c r)).pooled
    · exact (bump_samePool s c _).pooled.trans (freeRecord_pooled _ c r _ _)
  · exact (bump_samePool s c _).pooled.trans (freeRecord_pooled _ c r _ _)

theorem releaseFanout_pooled (a : AttRef) : Pooled s (releaseFanout s c r a) := by
  have h : SamePool s (s.modMsg r (fun m => m.letGo a)) := modMsg_samePool s r _ rfl id
  rw [releaseFanout_eq]
  split
  · exact h.pooled.trans (freeRecord_pooled _ c r _ _)
  · exact h.pooled

theorem handBackRecord_pooled (a : AttRef) : Pooled s (handBackRecord s r a) := by
  unfold handBackRecord
  split
  · exact .refl s
  · split
    · exact handBackPoint_pooled s _ r
    · exact releaseFanout_pooled s _ r a

theorem handBackSlot_pooled (p : Port) (i : Slot) : Pooled s (handBackSlot s p i) := by
  unfold handBackSlot
  split
  · exact (setSlot_samePool s p i .empty).pooled.trans (handBackRecord_pooled _ _ _)
  · exact .refl s

theorem handBackThrough_pooled (a : AttRef) : Pooled s (handBackThrough s a) :=
  Pooled.foldl (fun s i => by
    split
    · split
      · exact handBackSlot_pooled s _ i
      · exact .refl s
    · exact .refl s) _ s

theorem handBackAll_pooled (p : Port) : Pooled s (handBackAll s p) := Pooled.foldl (fun s i => handBackSlot_pooled s p i) _ s

/-! ## Holding, dooming, closing, detaching -/

theorem setHeld_samePool : SamePool s (setHeld s c) :=
  (modChan_samePool s c _).trans (SamePool.foldl (fun s r => modMsg_samePool s r _ rfl id) _ _)

theorem announce_samePool (k : EventKind) : SamePool s (announce s c k) := notifyEach_samePool s _ _

theorem doom_identity (m : MsgRecord) : m.doom.identity = m.identity ∧ (m.doom.state = .free → m.state = .free) := by
  unfold MsgRecord.doom
  split
  · exact ⟨rfl, fun h => absurd h (by simp)⟩
  · exact ⟨rfl, id⟩

theorem doomList_samePool : SamePool s (doomList s c) :=
  SamePool.foldl (fun s r => modMsg_samePool s r MsgRecord.doom (doom_identity _).1 (doom_identity _).2) _ s

theorem freeChannel_samePool : SamePool s (freeChannel s c) := (modChan_samePool s c _).reclaim _

theorem closeChannel_samePool : SamePool s (closeChannel s c) := by
  unfold closeChannel
  dsimp only
  split
  · exact ((doomList_samePool s c).trans (modChan_samePool _ c _)).reclaim _
  · exact ((doomList_samePool s c).trans (modChan_samePool _ c _)).reclaim _

theorem closeIfLast_samePool : SamePool s (closeIfLast s c) := by
  unfold closeIfLast
  split
  · split
    · exact freeChannel_samePool s c
    · exact closeChannel_samePool s c
  · exact .refl s

theorem startPurge_samePool (a : AttRef) : SamePool s (startPurge s c a) :=
  ((doomList_samePool s c).trans (modChan_samePool _ c _)).reclaim _

theorem settleWithout_pooled (a : AttRef) : Pooled s (settleWithout c a s r) := by
  unfold settleWithout
  split
  · exact (modMsg_samePool s r _ rfl id).pooled.trans (settlePending_pooled _ c r)
  · exact .refl s

theorem leavePending_pooled (a : AttRef) : Pooled s (leavePending s c a) := by
  rw [leavePending_eq]
  exact Pooled.foldl (fun s r => settleWithout_pooled s c r a) _ s

theorem letGo_pooled (a : AttRef) : Pooled s (letGo s c a) := by
  unfold letGo
  refine (setAtt_samePool s a none).pooled.trans ?_
  split
  · split
    · exact (dropParked_samePool _ c _ _).pooled
    · exact .refl _
  · exact .refl _

theorem settleAll_pooled (u : Attachment) (a : AttRef) : Pooled s (settleAll s u a) := by
  unfold settleAll
  have h := (letGo_pooled s u.channel a).trans (handBackThrough_pooled _ a)
  split
  · exact h.trans (leavePending_pooled _ _ a)
  · exact h

theorem detach_pooled (a : AttRef) : Pooled s (detach s a) := by
  cases hu : s.att a with
  | none => simpa [detach, hu] using Pooled.refl s
  | some u =>
    rw [detach_eq hu]
    exact (settleAll_pooled s u a).trans
      ((modChan_samePool _ _ _).trans (closeIfLast_samePool (forgetOwner (settleAll s u a) u.channel a) _)).pooled

theorem dropOwnParked_samePool (p : Port) : SamePool s (dropOwnParked s p) := by
  unfold dropOwnParked
  split
  · exact dropParked_samePool s _ p _
  · exact .refl s

theorem emptyQueues_samePool (p : Port) : SamePool s (emptyQueues s p) := by
  have hmsg : ∀ q, (emptyQueues s p).msg q = (s.msg q).disown p := fun q =>
    Table.get_mapAll _ (MsgRecord.disown p) (disown_free p) _ _
  have hkeeps : ∀ m : MsgRecord, (m.disown p).identity = m.identity ∧ (m.disown p).state = m.state := by
    intro m
    unfold MsgRecord.disown
    split <;> exact ⟨rfl, rfl⟩
  exact ⟨rfl, (modPort_samePool s p (fun q => { q with events := [], receipts := [], reservations := 0 }) rfl).charge,
    fun q => by rw [hmsg]; exact (hkeeps _).1, fun q hq => by rwa [hmsg, (hkeeps _).2] at hq⟩

theorem teardown_pooled (p : Port) : Pooled s (teardown s p) :=
  (((dropOwnParked_samePool s p).pooled.trans (handBackAll_pooled _ p)).trans
    (Pooled.foldl (fun s h => detach_pooled s ⟨p, h⟩) _ _)).trans (emptyQueues_samePool _ p).pooled

theorem roomCheck_samePool : SamePool s (roomCheck s c) := by
  unfold roomCheck
  split
  · exact SamePool.foldl (fun s a => (modAtt_samePool s a _).trans (queueEvent_samePool _ _ _)) _ s
  · exact .refl s

/-! ## Posting -/

theorem chargeLag_samePool (a : AttRef) : SamePool s (chargeLag s c a) := by
  unfold chargeLag
  split
  · exact .refl s
  · dsimp only
    split
    · exact modAtt_samePool s a _
    · exact (modAtt_samePool s a _).trans (queueEvent_samePool _ _ _)

theorem unlist_issue_samePool (o : MsgOutcome) (n : Nat) : SamePool s (issue (unlist s c r) c r o n) :=
  (unlist_samePool s c r).trans (issue_samePool _ c r o n)

theorem shedRecord_pooled : Pooled s (shedRecord s c r) := by
  unfold shedRecord
  split
  · exact freeRecord_pooled s c r _ _
  · have h : ∀ l : List AttRef,
        SamePool s ((l.foldl (fun s a => chargeLag s c a) s).modMsg r (fun m => { m with pending := [] })) := fun l =>
      (SamePool.foldl (fun s a => chargeLag_samePool s c a) l s).trans (modMsg_samePool _ r _ rfl id)
    unfold shedFanout
    dsimp only
    split
    · exact (h _).pooled.trans (freeRecord_pooled _ c r _ _)
    · exact ((h _).trans (unlist_issue_samePool _ c r _ _)).pooled

theorem countFiltered_samePool (tag : Word) : SamePool s (countFiltered s c tag) := by
  unfold countFiltered
  split
  · exact .refl s
  · exact SamePool.foldl (fun s _ => bump_samePool s c _) _ s

theorem watchCompare_samePool (tag : Word) (t : Ticket) : SamePool s (watchCompare s c tag t) := by
  have hold : ∀ b : Bool, SamePool s (if b then s else setHeld s c) := by
    rintro (_ | _)
    · exact setHeld_samePool s c
    · exact .refl s
  have tell : ∀ (b : Bool) (u : State), SamePool u (if b then u else announce u c .channelHeld) := by
    rintro (_ | _) u
    · exact announce_samePool u c _
    · exact .refl u
  unfold watchCompare
  split
  · exact .refl s
  · split
    · dsimp only
      split
      · exact ((hold _).trans (queueEvent_samePool _ _ _)).trans (tell _ _)
      · exact (((hold _).trans (queueEvent_samePool _ _ _)).trans (tell _ _)).trans (modChan_samePool _ c _)
    · exact .refl s

theorem bindAtPost_pooled : Pooled s (bindAtPost s c r) := by
  unfold bindAtPost
  split
  · exact .refl s
  · split
    · split
      · exact .refl s
      · exact (bindPoint_samePool s c r _).pooled
    · exact Pooled.foldl (fun s p => bindFanout_pooled s c r p) _ s

theorem arrivalsAtPost_samePool : SamePool s (arrivalsAtPost s c r) := by
  unfold arrivalsAtPost
  split
  · split
    · exact arriveAll_samePool s c _ _
    · exact .refl s
  · exact arriveAll_samePool s c _ _

theorem dropIfNoTaker_pooled : Pooled s (dropIfNoTaker s c r) := by
  unfold dropIfNoTaker
  split
  · exact settlePending_pooled s c r
  · exact .refl s

/-- What an accepted post does after its record has been built. -/
theorem acceptPost_pooled (p : Port) (g : PostArgs) : Pooled (buildRecord s p c g r) (acceptPost s p c g r) :=
  ((((((countFiltered_samePool _ c _).trans (bump_samePool _ c _)).trans (watchCompare_samePool _ c _ _)).pooled).trans
    (bindAtPost_pooled _ c r)).trans (arrivalsAtPost_samePool _ c r).pooled).trans (dropIfNoTaker_pooled _ c r)

theorem refusePost_samePool (a : AttRef) (x : Result) : SamePool s (refusePost s a c x).state := by
  unfold refusePost
  dsimp only
  split
  · exact (bump_samePool s c _).trans (modAtt_samePool _ a _)
  · exact bump_samePool s c _

/-! ## Taking and binding -/

theorem takeRecord_pooled (a : AttRef) (x : Role) (i : Slot) : Pooled s (takeRecord s c a x i r) := by
  unfold takeRecord
  split
  · exact (takeByHolder_pooled s c r a).trans (fillSlot_samePool _ r _ i _).pooled
  · exact ((takeIntoHand_samePool s c r).trans (fillSlot_samePool _ r _ i _)).pooled

theorem parkTake_samePool (a : AttRef) (i : Slot) (w : Word) : SamePool s (parkTake s c a i w) :=
  ((setSlot_samePool s a.port i .reserved).trans (modPort_samePool _ a.port _ rfl)).trans (modChan_samePool _ c _)

theorem selectTake_pooled (a : AttRef) (x : Role) (i : Slot) (w : Word) : Pooled s (selectTake s c a x i w).state := by
  unfold selectTake
  split
  · exact (takeRecord_pooled s c _ a x i).trans (clearLagReported_samePool _ a).pooled
  · split
    · exact (clearLagReported_samePool s a).pooled
    · split
      · exact .refl s
      · exact ((parkTake_samePool s c a i w).trans (clearLagReported_samePool _ a)).pooled

theorem releaseRecord_pooled (a : AttRef) : Pooled s (releaseRecord s r a) := by
  unfold releaseRecord
  split
  · exact .refl s
  · split
    · exact freeRecord_pooled s _ r _ _
    · exact releaseFanout_pooled s _ r a

theorem giveBackHeld_pooled (p : Port) (x : Held) : Pooled s (giveBackHeld p x s).state := by
  unfold giveBackHeld
  split
  · exact (setSlot_samePool s p x.slot .empty).pooled
  · split
    · exact .refl s
    · exact (setSlot_samePool s p x.slot .empty).pooled.trans (handBackPoint_pooled _ _ _)

theorem bindAtResume_pooled : Pooled s (bindAtResume s c) := by
  unfold bindAtResume
  split
  · exact Pooled.foldl (fun s (e : RecId × Port) => (bindPoint_samePool s c e.1 e.2).pooled) _ s
  · refine Pooled.foldl (fun s p => ?_) _ s
    unfold bindWaiting
    split
    · exact .refl s
    · split
      · exact .refl s
      · exact bindFanout_pooled s c _ p

theorem resumeChannel_pooled : Pooled s (resumeChannel s c) := by
  have h : SamePool s (announce (s.modChan c (fun ch => { ch with held := false })) c .channelResumed) :=
    (modChan_samePool s c _).trans (announce_samePool _ c _)
  unfold resumeChannel
  dsimp only
  split
  · exact h.pooled.trans (bindAtResume_pooled _ c)
  · exact h.pooled

/-! ## Timers and the reclaim engine -/

/-- What a record that is freed or unlisted at the end of its time, or by the engine, does to the pool. -/
theorem freeOrUnlist_pooled (o : MsgOutcome) (b : Bool) :
    Pooled s (if b then freeRecord s c r o 0 else issue (unlist s c r) c r o 0) := by
  split
  · exact freeRecord_pooled s c r _ _
  · exact (unlist_issue_samePool s c r _ _).pooled

theorem expireRecord_pooled : Pooled s (expireRecord s c r) := by
  unfold expireRecord
  split
  · exact freeRecord_pooled s c r _ _
  · exact freeOrUnlist_pooled s c r _ _

theorem reclaimRecord_pooled : Pooled s (reclaimRecord s c r) := by
  unfold reclaimRecord
  split
  · exact freeRecord_pooled s c r _ _
  · exact freeOrUnlist_pooled s c r _ _

theorem endOfEvent_samePool (before : State) : SamePool s (endOfEvent before s) :=
  SamePool.foldl (fun u d => by
    split
    · exact roomCheck_samePool u d
    · exact .refl u) _ s

/-- A step taken changes the engine's gap alone. -/
theorem stepTaken_samePool : SamePool s (stepTaken s) := ⟨rfl, fun _ => rfl, fun _ => rfl, fun _ h => h⟩

theorem completePurge_samePool (n : Nat) : SamePool s (completePurge s c n) := by
  unfold completePurge
  dsimp only
  split
  · exact ((modChan_samePool s c _).trans (queueEvent_samePool _ _ _)).trans (roomCheck_samePool _ c)
  · exact (modChan_samePool s c _).trans (roomCheck_samePool _ c)

theorem completionStep_samePool : SamePool s (completionStep s) := by
  unfold completionStep
  split
  · exact .refl s
  · split
    · refine SamePool.trans ?_ (stepTaken_samePool _)
      split
      · exact (completePurge_samePool s _ _).reclaim _
      · exact freeChannel_samePool s _
      · exact (SamePool.refl s).reclaim _
    · exact .refl s

theorem engineStep_pooled : Pooled s (engineStep s) := by
  unfold engineStep
  split
  · exact .refl s
  · split
    · exact (completionStep_samePool s).pooled
    · unfold recordStep
      split
      · exact .refl s
      · split
        · exact .refl s
        · exact (reclaimRecord_pooled s _ _).trans ((endOfEvent_samePool _ s).trans (stepTaken_samePool _)).pooled

theorem expire_pooled (x : Expiry) : Pooled s (expire s x) := by
  cases x with
  | lifetime q =>
    simp only [expire]
    split
    · exact (expireRecord_pooled s _ q).trans (endOfEvent_samePool _ s).pooled
    · exact .refl s
  | wait p =>
    simp only [expire]
    split
    · exact (((dropParked_samePool s _ p _).trans (queueEvent_samePool _ p _)).trans (endOfEvent_samePool _ s)).pooled
    · exact .refl s
  | lease p i =>
    simp only [expire]
    split
    · exact (((setSlot_samePool s p i .empty).trans (queueEvent_samePool _ p _)).pooled.trans
        (handBackRecord_pooled _ _ _)).trans (endOfEvent_samePool _ s).pooled
    · exact .refl s
  | penalty p => exact (modPort_samePool s p (fun q => { q with penalty := none }) rfl).pooled
  | coalescing p h =>
    simp only [expire]
    split
    · exact ((modAtt_samePool s _ _).trans (queueEvent_samePool _ _ _)).pooled
    · exact .refl s

theorem advance_samePool (n : Nat) : SamePool s (advance n s) := by
  have hkeeps : ∀ (k : Nat) (m : MsgRecord), (lowerLifetime k m).identity = m.identity := by
    intro k m
    unfold lowerLifetime
    split
    · rfl
    · split <;> rfl
  refine ⟨rfl, fun p => by rw [port_advance]; rfl, fun r => ?_, fun r hr => ?_⟩
  · rw [msg_advance]
    split_ifs
    · rfl
    · exact hkeeps _ _
    · rfl
  · rw [msg_advance] at hr
    split_ifs at hr
    · exact hr
    · rwa [state_lowerLifetime] at hr
    · exact hr

end

/-! ## Every event but a reset and a post -/

/-- What keeps the pool, from a state `s` on, is stable. -/
theorem pooled_stable (s : State) : Stable (Pooled s) where
  face u p f hf h := h.trans (modPort_samePool u p f (by rw [hf])).pooled
  draws u n h := h.trans (SamePool.pooled ⟨rfl, fun _ => rfl, fun _ => rfl, fun _ h => h⟩)
  gap u n h := h.trans (SamePool.pooled ⟨rfl, fun _ => rfl, fun _ => rfl, fun _ h => h⟩)
  room u c h := h.trans (roomCheck_samePool u c).pooled
  engine u h := h.trans (engineStep_pooled u)
  due u x h _ := h.trans (expire_pooled u x)
  tick n u h := h.trans (advance_samePool u n).pooled

theorem replay_samePool (s : State) (c : ChanId) (a : AttRef) : SamePool s (replay s c a) :=
  SamePool.foldl (fun s r => modMsg_samePool s r _ (by split <;> rfl) (by split <;> exact id)) _ s

theorem helloBody_pooled (p : Port) (lease : Word) (options : Byte) (s : State) :
    Pooled s (helloBody p lease options s).state := by
  unfold helloBody
  split
  · dsimp only
    refine Pooled.trans ?_ (modPort_samePool _ p _ rfl).pooled
    split
    · exact teardown_pooled s p
    · exact .refl s
  · exact .refl s

theorem createBody_pooled (p : Port) (name : Word) (kind depth mark policy : Byte) (code : AccessCode) (role : Byte)
    (s : State) : Pooled s (createBody p name kind depth mark policy code role s).state := by
  unfold createBody
  split
  · exact .refl s
  · split
    · exact .refl s
    · split
      · exact .refl s
      · split
        · exact .refl s
        · split
          · exact .refl s
          · exact ((modChan_samePool s _ _).trans (setAtt_samePool _ _ _)).pooled

theorem attachBody_pooled (p : Port) (name : Word) (role : Byte) (code : AccessCode) (options : Byte) (s : State) :
    Pooled s (attachBody p name role code options s).state := by
  have seat : ∀ h c x again, SamePool s (joinChannel s p h c x again) := by
    intro h c x again
    have hs := (setAtt_samePool s ⟨p, h⟩ (some (Attachment.fresh c x))).trans
      (modPort_samePool _ p (fun q => { q with badCodes := 0 }) rfl)
    unfold joinChannel
    dsimp only
    split
    · exact hs.trans (replay_samePool _ c _)
    · exact hs
  unfold attachBody
  split
  · exact .refl s
  · split
    · exact .refl s
    · split
      · exact .refl s
      · dsimp only
        split_ifs
        · exact .refl s
        · exact .refl s
        · exact .refl s
        · exact (modPort_samePool s p _ (by unfold countBadCode; split <;> rfl)).pooled
        · split
          · exact .refl s
          · exact (seat _ _ _ _).pooled

theorem releaseBody_pooled (p : Port) (slot source : Byte) (serial : Word) (s : State) :
    Pooled s (releaseBody p slot source serial s).state := by
  unfold releaseBody
  split
  · exact .refl s
  · split
    · exact (setSlot_samePool s p _ .empty).pooled.trans (releaseRecord_pooled _ _ _)
    · exact .refl s

theorem giveBackBody_pooled (p : Port) (slot source : Byte) (serial : Word) (s : State) :
    Pooled s (giveBackBody p slot source serial s).state := by
  unfold giveBackBody
  split
  · exact .refl s
  · split
    · exact giveBackHeld_pooled s p _
    · exact .refl s

theorem takeBody_pooled (p : Port) (handle : Byte) (wait : Word) (s : State) : Pooled s (takeBody p handle wait s).state := by
  refine withHandle_keeps (P := Pooled s) (.refl s) (fun j t _ => ?_)
  split_ifs
  · exact .refl s
  · exact .refl s
  · split
    · exact .refl s
    · exact selectTake_pooled s _ _ _ _ _

theorem setFilterBody_pooled (p : Port) (handle mode : Byte) (content : List Word) (s : State) :
    Pooled s (setFilterBody p handle mode content s).state := by
  refine withHandle_keeps (P := Pooled s) (.refl s) (fun j t _ => ?_)
  split
  · exact .refl s
  · split
    · exact .refl s
    · exact (setAtt_samePool s _ _).pooled

theorem setNotifyBody_pooled (p : Port) (handle threshold : Byte) (wait : Word) (stats : Byte) (s : State) :
    Pooled s (setNotifyBody p handle threshold wait stats s).state := by
  refine withHandle_keeps (P := Pooled s) (.refl s) (fun j t _ => ?_)
  split
  · exact .refl s
  · split_ifs
    · exact .refl s
    · exact .refl s
    · exact (setAtt_samePool s _ _).pooled

theorem watchBody_pooled (p : Port) (handle : Byte) (tag mask : Word) (rearm : Byte) (s : State) :
    Pooled s (watchBody p handle tag mask rearm s).state := by
  refine withHandle_keeps (P := Pooled s) (.refl s) (fun j t _ => ?_)
  split
  · exact .refl s
  · next again _ =>
    dsimp only
    split_ifs
    · exact .refl s
    · exact .refl s
    · exact (modChan_samePool s t.channel (fun ch => { ch with watch := some ⟨tag, mask, again, ⟨p, j⟩⟩ })).pooled

/-- Every command's own work but that of a POST keeps the pool. -/
theorem body_pooled {i : Instr} (hi : ∀ l seq h tag flags life payload, i ≠ .post l seq h tag flags life payload)
    {b : State → Reply} (hb : bodyOf i = some b) (s : State) : Pooled s (b s).state := by
  have byHandle : ∀ {p : Port} {x : Byte} {k : Handle → Attachment → Reply}, (∀ j t, Pooled s (k j t).state) →
      Pooled s (withHandle s p x k).state := fun h => withHandle_keeps (P := Pooled s) (.refl s) (fun j t _ => h j t)
  cases i
  case post => exact absurd rfl (hi _ _ _ _ _ _ _)
  case hello => cases hb; exact helloBody_pooled _ _ _ s
  case status => cases hb; exact .refl s
  case create => cases hb; exact createBody_pooled _ _ _ _ _ _ _ _ s
  case attach => cases hb; exact attachBody_pooled _ _ _ _ _ s
  case detach => cases hb; exact byHandle (fun j _ => detach_pooled s _)
  case purge =>
    cases hb
    refine byHandle (fun j t => ?_)
    dsimp only
    split_ifs
    · exact .refl s
    · exact .refl s
    · exact (startPurge_samePool s _ _).pooled
  case channelInfo => cases hb; exact byHandle (fun _ _ => .refl s)
  case take => cases hb; exact takeBody_pooled _ _ _ s
  case readHand =>
    cases hb
    unfold readHandBody
    split <;> exact .refl s
  case release => cases hb; exact releaseBody_pooled _ _ _ _ s
  case giveBack => cases hb; exact giveBackBody_pooled _ _ _ _ s
  case cancelWait =>
    cases hb
    unfold cancelWaitBody
    split
    · exact .refl s
    · exact (dropParked_samePool s _ _ _).pooled
  case setNotify => cases hb; exact setNotifyBody_pooled _ _ _ _ _ s
  case setFilter => cases hb; exact setFilterBody_pooled _ _ _ _ s
  case watch => cases hb; exact watchBody_pooled _ _ _ _ _ s
  case unwatch =>
    cases hb
    refine byHandle (fun j t => ?_)
    split_ifs
    · exact (modChan_samePool s t.channel (fun ch => { ch with watch := none })).pooled
    · exact .refl s
  case hold =>
    cases hb
    refine byHandle (fun j t => ?_)
    dsimp only
    split_ifs
    · exact .refl s
    · exact .refl s
    · exact ((setHeld_samePool s _).trans (announce_samePool _ _ _)).pooled
  case resume =>
    cases hb
    refine byHandle (fun j t => ?_)
    split_ifs
    · exact resumeChannel_pooled s _
    · exact .refl s
  case peek =>
    cases hb
    refine byHandle (fun j t => ?_)
    dsimp only
    split_ifs
    · exact .refl s
    · exact .refl s
    · split <;> exact .refl s
  case readStats =>
    cases hb
    refine byHandle (fun j t => ?_)
    split
    · exact .refl s
    · dsimp only
      split_ifs
      · exact (modChan_samePool s _ _).pooled
      · exact .refl s
  case readEvents =>
    cases hb
    unfold readEventsBody
    dsimp only
    split <;> exact .refl s
  case dropEvents =>
    cases hb
    unfold dropEventsBody
    dsimp only
    split_ifs
    · exact .refl s
    · exact .refl s
    · exact (modPort_samePool s _ (fun x => { x with events := x.events.drop _ }) rfl).pooled
  case readReceipts =>
    cases hb
    unfold readReceiptsBody
    dsimp only
    split <;> exact .refl s
  case dropReceipts =>
    cases hb
    unfold dropReceiptsBody
    dsimp only
    split_ifs
    · exact .refl s
    · exact .refl s
    · exact (modPort_samePool s _ (fun x => { x with receipts := x.receipts.drop _ }) rfl).pooled
  all_goals exact absurd hb (by simp [bodyOf])

/-- Every event answers a next state. -/
theorem exec_answers (i : Instr) (s : State) : ∃ t, exec i s = .next t := by
  have run : ∀ (i : Instr) (b : State → Reply), ∃ t, runCommand i b s = .next t := by
    intro i b
    unfold runCommand
    split
    · exact ⟨_, rfl⟩
    · unfold overFrame
      split <;> exact ⟨_, rfl⟩
  by_cases hbody : ∃ b, bodyOf i = some b
  · obtain ⟨b, hb⟩ := hbody
    rw [exec_of_body hb]
    exact run i b
  · cases i
    case deviceReset cause =>
      cases cause
      case powerOn => exact ⟨_, rfl⟩
      case lowPulse => exact ⟨_, rfl⟩
      case shortPulse => exact ⟨_, exec_deviceReset_shortPulse s⟩
    case frameError l bytes =>
      show ∃ t, execFrameError l bytes s = .next t
      unfold execFrameError overFrame
      split
      · exact ⟨_, rfl⟩
      · split
        · split
          · split <;> exact ⟨_, rfl⟩
          · exact ⟨_, rfl⟩
        · exact ⟨_, rfl⟩
    case collect l after =>
      show ∃ t, execCollect l after s = .next t
      unfold execCollect overFrame
      split <;> exact ⟨_, rfl⟩
    case lifetimeExpiry => exact ⟨_, rfl⟩
    case waitExpiry => exact ⟨_, rfl⟩
    case leaseExpiry => exact ⟨_, rfl⟩
    case penaltyExpiry => exact ⟨_, rfl⟩
    case coalescingExpiry => exact ⟨_, rfl⟩
    case recordStep => exact ⟨_, rfl⟩
    case completionStep => exact ⟨_, rfl⟩
    case longTickBoundary => exact ⟨_, rfl⟩
    all_goals exact absurd ⟨_, rfl⟩ hbody

/-- Settles O13: every event but a reset and a POST keeps the pool. -/
theorem messagesKeepTheirIdentity : Obligations.MessagesKeepTheirIdentity := by
  intro i s hreset hpost hs
  obtain ⟨t, ht⟩ := exec_answers i s
  have h : Pooled s t := (pooled_stable s).exec hreset (fun b hb u hu => hu.trans (body_pooled hpost hb u)) (.refl s) ht
  exact ⟨t, ht, h.keeps hs⟩

end Sys2Proof.Machine
end

section
/-! SUPPORT. The cell pool (O54): the build of a record, and what the allocation rule leaves (R33 to R35, R57). -/

namespace Sys2Proof.Machine

/-! ## How many cells are free -/

/-- The cells in use are as many as the cells of the chains. -/
theorem length_cells_eq {s : State} (hs : s.cellsAgree) :
    s.cells.length = ∑ r : RecId, (s.msg r).chain.length := by
  obtain ⟨hwf, -, hnodup, hapart, hused, -⟩ := hs
  have hkeys : (s.cells.map Prod.fst).Nodup := by
    have h := List.pairwise_map.mpr ((Table.wf_iff _ _ _).mp hwf).1
    exact h.imp (fun h => Nat.ne_of_lt h)
  have hunion : (s.cells.map Prod.fst).toFinset =
      Finset.univ.biUnion (fun r : RecId => (s.msg r).chain.toFinset) := by
    ext k
    simp only [List.mem_toFinset, hused, Finset.mem_biUnion, Finset.mem_univ, true_and]
  have hdisjoint : ∀ r ∈ (Finset.univ : Finset RecId), ∀ q ∈ (Finset.univ : Finset RecId), r ≠ q →
      Disjoint (s.msg r).chain.toFinset (s.msg q).chain.toFinset := fun r _ q _ hne =>
    Finset.disjoint_left.mpr (fun k hk hq => hapart r q hne k (List.mem_toFinset.mp hk) (List.mem_toFinset.mp hq))
  rw [← List.length_map (f := Prod.fst), ← List.toFinset_card_of_nodup hkeys, hunion, Finset.card_biUnion hdisjoint]
  exact Finset.sum_congr rfl (fun r _ => List.toFinset_card_of_nodup (hnodup r))

/-- The charges of the four ports are the cells of the chains. -/
theorem sum_charge_eq {s : State} (hs : s.cellsAgree) :
    ∑ p : Port, (s.port p).charge = ∑ r : RecId, (s.msg r).chain.length := by
  obtain ⟨-, hcharge, -, -, -, hfree, -⟩ := hs
  simp only [hcharge, cellsOwned_eq hfree]
  rw [Finset.sum_comm]
  exact Finset.sum_congr rfl (fun r _ => by simp [State.chargeOf])

/-- The free cells and the cells in use make the pool. -/
theorem length_freeCells {s : State} (hs : s.cellsAgree) : s.freeCells.length + s.cells.length = 1024 := by
  obtain ⟨hrise, hlt⟩ := (Table.wf_iff _ _ _).mp hs.1
  have hkeys : (s.cells.map Prod.fst).Nodup := (List.pairwise_map.mpr hrise).imp (fun h => Nat.ne_of_lt h)
  have hcount := List.length_eq_countP_add_countP (l := List.range Config.cellCount)
    (fun k => !(s.cells.any (fun e => e.1 == k)))
  have hused : (List.range Config.cellCount).countP (fun k => decide ¬ (!(s.cells.any (fun e => e.1 == k))) = true) =
      s.cells.length := by
    rw [List.countP_eq_length_filter, ← List.toFinset_card_of_nodup (List.nodup_range.filter _),
      ← List.length_map (f := Prod.fst), ← List.toFinset_card_of_nodup hkeys]
    refine congrArg Finset.card (Finset.ext fun k => ?_)
    simp only [List.mem_toFinset, List.mem_filter, List.mem_range, List.mem_map, Bool.not_eq_true', Bool.not_eq_false,
      List.any_eq_true, beq_iff_eq, decide_eq_true_eq]
    constructor
    · exact fun h => h.2
    · rintro ⟨e, he, rfl⟩; exact ⟨(hlt e he).1, e, he, rfl⟩
  rw [List.length_range, hused, List.countP_eq_length_filter] at hcount
  exact hcount.symm

/-- Law 1 (R33): the free cells with the charges make the pool. -/
theorem freeCells_add_charges {s : State} (hs : s.cellsAgree) :
    s.freeCells.length + ∑ p : Port, (s.port p).charge = 1024 := by
  rw [sum_charge_eq hs, ← length_cells_eq hs]
  exact length_freeCells hs

/-! ## The allocation rule (R35) -/

theorem sharedInUse_eq (s : State) : s.sharedInUse = ∑ p : Port, sharedPart (s.port p).charge := by
  simp only [State.sharedInUse, Fin.sum_univ_four]

theorem sharedPart_mono {a b : Nat} (h : a ≤ b) : sharedPart a ≤ sharedPart b := Nat.sub_le_sub_right h _

/-- The shared cells in use where no charge rises. -/
theorem sharedInUse_mono {s t : State} (h : ∀ p, (t.port p).charge ≤ (s.port p).charge) : t.sharedInUse ≤ s.sharedInUse := by
  rw [sharedInUse_eq, sharedInUse_eq]
  exact Finset.sum_le_sum (fun p _ => sharedPart_mono (h p))

/-- The shared cells in use if a port is charged `k` cells more. -/
theorem sharedInUse_of_charged {s t : State} {p : Port} {k : Nat}
    (h : ∀ q, (t.port q).charge = (s.port q).charge + if q = p then k else 0) :
    t.sharedInUse = s.sharedInUse + (sharedPart ((s.port p).charge + k) - sharedPart (s.port p).charge) := by
  have hs := Finset.add_sum_erase Finset.univ (fun q => sharedPart (s.port q).charge) (Finset.mem_univ p)
  have ht := Finset.add_sum_erase Finset.univ (fun q => sharedPart (t.port q).charge) (Finset.mem_univ p)
  have hothers : ∑ q ∈ Finset.univ.erase p, sharedPart (t.port q).charge =
      ∑ q ∈ Finset.univ.erase p, sharedPart (s.port q).charge :=
    Finset.sum_congr rfl (fun q hq => by rw [h, if_neg (Finset.ne_of_mem_erase hq), Nat.add_zero])
  have hp : sharedPart (t.port p).charge = sharedPart ((s.port p).charge + k) := by rw [h, if_pos rfl]
  have hle := sharedPart_mono (Nat.le_add_right (s.port p).charge k)
  simp only [hothers, hp] at hs ht
  rw [sharedInUse_eq, sharedInUse_eq, ← hs, ← ht]
  omega

/-- The pool admits the post for which it did, where no charge has risen since (R35). -/
theorem poolAdmits_of_le {s t : State} {p : Port} {k : Nat} (h : ∀ q, (t.port q).charge ≤ (s.port q).charge)
    (ha : s.poolAdmits p k = true) : t.poolAdmits p k = true := by
  have charged : ∀ u : State, (u.sharedInUse + (sharedPart ((u.port p).charge + k) - sharedPart (u.port p).charge)) =
      (u.modPort p (fun q => { q with charge := q.charge + k })).sharedInUse := fun u =>
    (sharedInUse_of_charged (fun q => by
      rw [port_modPort]
      split_ifs with hq
      · rw [hq]
      · rfl)).symm
  simp only [State.poolAdmits, decide_eq_true_eq] at ha ⊢
  rw [charged] at ha ⊢
  refine (sharedInUse_mono (fun q => ?_)).trans ha
  rw [port_modPort, port_modPort]
  split_ifs
  · exact Nat.add_le_add_right (h p) k
  · exact h q

/-- Four charges that share at most 768 cells beyond their reserves are at most 1024 (R35). -/
theorem sum_charge_le {s : State} (h : s.sharedInUse ≤ Config.sharedCells) : ∑ p : Port, (s.port p).charge ≤ 1024 := by
  simp only [State.sharedInUse, sharedPart, Config.reserve, Config.sharedCells, Fin.sum_univ_four] at h ⊢
  omega

/-- Where the pool admits a post there are cells enough (R35). -/
theorem length_freeCells_of_admits {s : State} {p : Port} {k : Nat} (hs : s.cellsAgree) (ha : s.poolAdmits p k = true) :
    k ≤ s.freeCells.length := by
  have hsum := freeCells_add_charges hs
  have hle := sum_charge_le (s := s.modPort p (fun q => { q with charge := q.charge + k }))
  rw [sharedInUse_of_charged (s := s) (p := p) (k := k) (fun q => by
    rw [port_modPort]
    split_ifs with hq
    · rw [hq]
    · rfl)] at hle
  simp only [State.poolAdmits, decide_eq_true_eq] at ha
  have hle := hle ha
  have hmore : ∑ q : Port, ((s.modPort p (fun q => { q with charge := q.charge + k })).port q).charge =
      ∑ q : Port, (s.port q).charge + k := by
    have he : ∀ q : Port, ((s.modPort p (fun q => { q with charge := q.charge + k })).port q).charge =
        (s.port q).charge + if q = p then k else 0 := fun q => by
      rw [port_modPort]
      split_ifs with hq
      · rw [hq]
      · rfl
    simp only [he, Finset.sum_add_distrib, Finset.sum_ite_eq', Finset.mem_univ, if_true]
  omega

end Sys2Proof.Machine
end

section
/-! SUPPORT. The cell pool (O54): an accepted post, and every step (R33 to R35, R57). -/

namespace Sys2Proof.Machine

/-! ## Writing a payload -/

theorem mem_keys_put {α : Type} [DecidableEq α] {d v : α} (hv : v ≠ d) (t : List (Nat × α)) (k j : Nat) :
    j ∈ (Table.put d t k v).map Prod.fst ↔ j = k ∨ j ∈ t.map Prod.fst := by
  simp only [Table.put, if_neg hv, List.mem_map, Table.mem_insert, Table.erase, List.mem_filter, bne_iff_ne]
  constructor
  · rintro ⟨e, rfl | ⟨he, -⟩, rfl⟩
    · exact Or.inl rfl
    · exact Or.inr ⟨e, he, rfl⟩
  · rintro (rfl | ⟨e, he, rfl⟩)
    · exact ⟨(j, v), Or.inl rfl, rfl⟩
    · by_cases hj : e.1 = k
      · exact ⟨(k, v), Or.inl rfl, hj.symm⟩
      · exact ⟨e, Or.inr ⟨he, hj⟩, rfl⟩

/-- Writing parts that are not empty uses the cells of the chain and no others. -/
theorem mem_keys_writeCells (payload : List Byte) (chain : List CellId) (cells : List (CellId × List Byte)) (j : Nat)
    (hne : ∀ i, i < chain.length → chunk payload (j + i) ≠ []) (k : CellId) :
    k ∈ (writeCells cells payload chain j).map Prod.fst ↔ k ∈ chain ∨ k ∈ cells.map Prod.fst := by
  induction chain generalizing cells j with
  | nil => simp [writeCells]
  | cons a rest ih =>
    have hrest : ∀ i, i < rest.length → chunk payload (j + 1 + i) ≠ [] := fun i hi => by
      rw [Nat.add_assoc, Nat.add_comm 1 i]
      exact hne (i + 1) (Nat.succ_lt_succ hi)
    have hfirst : chunk payload j ≠ [] := hne 0 (Nat.succ_pos _)
    rw [writeCells, ih _ _ hrest, mem_keys_put hfirst, List.mem_cons]
    tauto

/-- Every part of a payload that has a cell holds a byte (R34). -/
theorem chunk_ne_nil {payload : List Byte} {i : Nat} (hi : i < cellsFor payload.length) : chunk payload i ≠ [] := by
  intro h
  have hlen : (chunk payload i).length = 0 := by rw [h]; rfl
  simp only [chunk, cellsFor, Config.cellBytes, List.length_take, List.length_drop] at hlen hi
  omega

/-- A written payload is read back from its chain (R34). -/
theorem flatMap_writeCells (payload : List Byte) {chain : List CellId} (hn : chain.Nodup)
    (hl : chain.length = cellsFor payload.length) (cells : List (CellId × List Byte)) :
    chain.flatMap (Table.get [] (writeCells cells payload chain 0)) = payload := by
  have hparts : chain.map (Table.get [] (writeCells cells payload chain 0)) =
      (List.range chain.length).map (fun i => chunk payload (0 + i)) := by
    refine List.ext_getElem (by simp) (fun i hi _ => ?_)
    rw [List.getElem_map, List.getElem_map, List.getElem_range]
    exact get_writeCells payload chain hn cells 0 i (by simpa using hi)
  rw [List.flatMap_def, hparts, flatMap_chunk, Nat.mul_zero, List.drop_zero, hl]
  refine List.take_of_length_le ?_
  simp only [cellsFor, Config.cellBytes]
  omega

/-! ## The build of a record (R57) -/

/-- The chain of the record that a post builds. -/
def postChain (s : State) (g : PostArgs) : List CellId := s.freeCells.take (cellsFor g.payload.length)

section
variable {s : State} {p : Port} {c : ChanId} {g : PostArgs} {r : RecId}

theorem msg_buildRecord (q : RecId) : (buildRecord s p c g r).msg q =
    if q = r then newRecord s p c g (postChain s g) else s.msg q := by
  unfold buildRecord
  dsimp only
  rw [msg_modChan, msg_modMsg]
  rfl

theorem cells_buildRecord : (buildRecord s p c g r).cells = writeCells s.cells g.payload (postChain s g) 0 := rfl

theorem charge_buildRecord (q : Port) : ((buildRecord s p c g r).port q).charge =
    (s.port q).charge + if q = p then (postChain s g).length else 0 := by
  show ((s.modPort p (fun q => { q with
    serial := q.serial + 1, charge := q.charge + (postChain s g).length,
    reservations := q.reservations + bitValue g.receipt 1 })).port q).charge = _
  rw [port_modPort]
  split_ifs with hq
  · rw [hq]
  · rfl

variable (hs : s.cellsAgree) (hr : (s.msg r).state = .free) (hn : cellsFor g.payload.length ≤ s.freeCells.length)

theorem nodup_postChain : (postChain s g).Nodup := (List.nodup_range.filter _).take

include hn in
theorem length_postChain : (postChain s g).length = cellsFor g.payload.length := by
  rw [postChain, List.length_take, Nat.min_eq_left hn]

include hs in
theorem notMem_chain_of_postChain {k : CellId} (hk : k ∈ postChain s g) (q : RecId) : k ∉ (s.msg q).chain := by
  intro hq
  obtain ⟨-, -, -, -, hused, -⟩ := hs
  obtain ⟨e, he, hek⟩ := List.mem_map.mp ((hused k).mpr ⟨q, hq⟩)
  exact ((mem_freeCells s k).mp (List.mem_of_mem_take hk)).2 e he hek

include hs hr hn in
theorem cellsAgree_buildRecord : (buildRecord s p c g r).cellsAgree := by
  have hout := fun {k : CellId} (hk : k ∈ postChain s g) => notMem_chain_of_postChain hs hk
  have hlen : (postChain s g).length = cellsFor g.payload.length := length_postChain hn
  obtain ⟨hwf, hcharge, hnodup, hapart, hused, hfree, hlength, hbytes⟩ := hs
  have hmsg := fun q => msg_buildRecord (s := s) (p := p) (c := c) (g := g) (r := r) q
  have hnew : (newRecord s p c g (postChain s g)).state ≠ .free := by
    simp only [newRecord]
    split <;> simp
  have hfree' : ∀ q, ((buildRecord s p c g r).msg q).state = .free → ((buildRecord s p c g r).msg q).chain = [] := by
    intro q hq
    rw [hmsg] at hq ⊢
    split_ifs at hq ⊢
    · exact absurd hq hnew
    · exact hfree q hq
  refine ⟨buildRecord_wf s p c g r hwf, fun q => ?_, fun q => ?_, fun q q' hne k hk => ?_, fun k => ?_, hfree',
    fun q => ?_, fun q => ?_⟩
  · have hs := Finset.add_sum_erase Finset.univ (s.chargeOf q) (Finset.mem_univ r)
    have ht := Finset.add_sum_erase Finset.univ ((buildRecord s p c g r).chargeOf q) (Finset.mem_univ r)
    have hothers : ∑ x ∈ Finset.univ.erase r, (buildRecord s p c g r).chargeOf q x =
        ∑ x ∈ Finset.univ.erase r, s.chargeOf q x :=
      Finset.sum_congr rfl (fun x hx => by
        rw [State.chargeOf, hmsg, if_neg (Finset.ne_of_mem_erase hx), State.chargeOf])
    have hold : s.chargeOf q r = 0 := by rw [State.chargeOf, hfree r hr]; exact ite_self 0
    have hthis : (buildRecord s p c g r).chargeOf q r = if q = p then (postChain s g).length else 0 := by
      rw [State.chargeOf, hmsg, if_pos rfl]
      exact if_congr eq_comm rfl rfl
    rw [charge_buildRecord, hcharge, cellsOwned_eq hfree, cellsOwned_eq hfree', ← hs, ← ht, hothers, hold, hthis]
    omega
  · rw [hmsg]
    split_ifs
    · exact nodup_postChain
    · exact hnodup q
  · rw [hmsg] at hk ⊢
    by_cases hq : q = r
    · rw [if_pos hq] at hk
      rw [if_neg (fun e => hne (hq.trans e.symm))]
      exact hout hk q'
    · rw [if_neg hq] at hk
      split_ifs
      · exact fun hk' => hout hk' q hk
      · exact hapart q q' hne k hk
  · rw [cells_buildRecord, mem_keys_writeCells _ _ _ _ (fun i hi => by
      rw [Nat.zero_add]; exact chunk_ne_nil (hlen ▸ hi)), hused]
    constructor
    · rintro (hk | ⟨q, hq⟩)
      · exact ⟨r, by rw [hmsg, if_pos rfl]; exact hk⟩
      · refine ⟨q, ?_⟩
        have hqr : q ≠ r := fun e => by rw [e, hfree r hr] at hq; exact List.not_mem_nil hq
        rwa [hmsg, if_neg hqr]
    · rintro ⟨q, hq⟩
      rw [hmsg] at hq
      split_ifs at hq
      · exact Or.inl hq
      · exact Or.inr ⟨q, hq⟩
  · rw [hmsg]
    split_ifs
    · exact hlen
    · exact hlength q
  · rw [hmsg]
    split_ifs
    · have h := flatMap_writeCells g.payload nodup_postChain hlen s.cells
      exact congrArg List.length h
    · have h : (s.msg q).chain.flatMap (buildRecord s p c g r).cell = (s.msg q).chain.flatMap s.cell :=
        List.flatMap_congr (fun k hk => get_writeCells_of_not_mem _ _ _ _ (fun hk' => hout hk' q hk))
      rw [h]
      exact hbytes q

end

/-! ## POST -/

/-- What a post keeps of the pool: Law 1 and Law 2. -/
structure PoolLaws (s t : State) : Prop where
  agree : s.cellsAgree → t.cellsAgree
  shared : s.sharedBounded → t.sharedBounded

theorem Pooled.laws {s t : State} (h : Pooled s t) : PoolLaws s t :=
  ⟨h.agree, fun hs => (sharedInUse_mono h.charge).trans hs⟩

theorem PoolLaws.trans {s t u : State} (h : PoolLaws s t) (g : PoolLaws t u) : PoolLaws s u :=
  ⟨g.agree ∘ h.agree, g.shared ∘ h.shared⟩

theorem state_of_nextRecord {s : State} {r : RecId} (h : s.nextRecord = some r) : (s.msg r).state = .free := by
  simpa using List.find?_some h

theorem length_postChain_le (s : State) (g : PostArgs) : (postChain s g).length ≤ cellsFor g.payload.length := by
  rw [postChain, List.length_take]
  exact Nat.min_le_left _ _

theorem acceptPost_laws {s : State} {p : Port} {c : ChanId} {g : PostArgs} {r : RecId} (hr : s.nextRecord = some r)
    (ha : s.poolAdmits p (cellsFor g.payload.length) = true) : PoolLaws s (acceptPost s p c g r) := by
  refine PoolLaws.trans ⟨fun hs => ?_, fun _ => ?_⟩ (acceptPost_pooled s c r p g).laws
  · exact cellsAgree_buildRecord hs (state_of_nextRecord hr) (length_freeCells_of_admits hs ha)
  · simp only [State.poolAdmits, decide_eq_true_eq] at ha
    rw [State.sharedBounded, sharedInUse_of_charged (charge_buildRecord (g := g) (c := c) (r := r) (p := p))]
    refine le_trans ?_ ha
    exact Nat.add_le_add_left (Nat.sub_le_sub_right (sharedPart_mono (Nat.add_le_add_left (length_postChain_le s g) _)) _) _

theorem poolAdmits_of_resourceCheck {s : State} {p : Port} {g : PostArgs} (h : resourceCheck s p g = none) :
    s.poolAdmits p (cellsFor g.payload.length) = true := by
  unfold resourceCheck at h
  split_ifs at h with _ hp
  simpa using hp

/-- What an accepted post answers, its shed done. -/
def acceptReply (p : Port) (c : ChanId) (g : PostArgs) (s : State) : Reply :=
  match s.nextRecord with
  | some r => ⟨acceptPost s p c g r, .ok, ticketBytes ⟨p, (s.port p).serial⟩⟩
  | none => refuse s .noMessageSlot

theorem acceptReply_laws {s u : State} {p : Port} (c : ChanId) {g : PostArgs}
    (admits : s.poolAdmits p (cellsFor g.payload.length) = true) (h : Pooled s u) :
    PoolLaws s (acceptReply p c g u).state := by
  unfold acceptReply
  cases hr : u.nextRecord with
  | none => exact h.laws
  | some r =>
    dsimp only
    exact h.laws.trans (acceptPost_laws hr (poolAdmits_of_le h.charge admits))

theorem postBody_laws (p : Port) (handle : Byte) (tag : Word) (flags : Byte) (lifetime : Word) (payload : List Byte)
    (s : State) : PoolLaws s (postBody p handle tag flags lifetime payload s).state := by
  refine withHandle_keeps (P := PoolLaws s) (Pooled.refl s).laws (fun j t _ => ?_)
  dsimp only
  split_ifs
  · exact (Pooled.refl s).laws
  · exact (Pooled.refl s).laws
  · exact (Pooled.refl s).laws
  · split
    · exact (refusePost_samePool s _ _ _).pooled.laws
    · next hcheck =>
      have admits := poolAdmits_of_resourceCheck hcheck
      split
      · exact (refusePost_samePool s _ _ _).pooled.laws
      · exact acceptReply_laws t.channel admits (.refl s)
      · exact acceptReply_laws t.channel admits (shedRecord_pooled s _ _)

/-! ## Every step -/

/-- Laws 1 and 2, in the form that every event keeps from a state `s` on. -/
theorem poolLaws_stable (s : State) : Stable (PoolLaws s) where
  face u p f hf h := h.trans ((pooled_stable u).face u p f hf (.refl u)).laws
  draws u n h := h.trans ((pooled_stable u).draws u n (.refl u)).laws
  gap u n h := h.trans ((pooled_stable u).gap u n (.refl u)).laws
  room u c h := h.trans (roomCheck_samePool u c).pooled.laws
  engine u h := h.trans (engineStep_pooled u).laws
  due u x h _ := h.trans (expire_pooled u x).laws
  tick n u h := h.trans (advance_samePool u n).pooled.laws

theorem body_laws {i : Instr} {b : State → Reply} (hb : bodyOf i = some b) (s : State) : PoolLaws s (b s).state := by
  by_cases hi : ∀ l seq h tag flags life payload, i ≠ .post l seq h tag flags life payload
  · exact (body_pooled hi hb s).laws
  · push Not at hi
    obtain ⟨l, seq, h, tag, flags, life, payload, rfl⟩ := hi
    cases hb
    exact postBody_laws _ _ _ _ _ _ s

theorem pending_samePool (s : State) (q : List Instr) : SamePool s { s with pending := q } :=
  ⟨rfl, fun _ => rfl, fun _ => rfl, fun _ h => h⟩

theorem resetPart_laws (s : State) : PoolLaws s (resetPart s) := ⟨fun _ => cellsAgree_reset, fun _ => Nat.zero_le _⟩

/-- Settles O54: what every event does to the pool is a free of records or the build of one that the pool admits. -/
theorem cellsAreNeitherLostNorShared : Obligations.CellsAreNeitherLostNorShared := by
  intro s
  refine ⟨fun hs => ?_, fun t ht => ?_⟩
  · rw [← Fin.sum_univ_def]
    exact freeCells_add_charges hs
  · have h : PoolLaws s t := (poolLaws_stable s).step (fun u hu => hu.trans (resetPart_laws u))
      (fun u q hu => hu.trans (pending_samePool u q).pooled.laws) (fun i b hb u hu => hu.trans (body_laws hb u))
      (Pooled.refl s).laws ht
    exact ⟨h.agree, h.shared⟩

end Sys2Proof.Machine
end

section
/-! SUPPORT. PURGE (O20): the list is doomed and the channel joins the work queue (R41, R45). -/

namespace Sys2Proof.Machine

/-- A record of an OPEN channel's list that is doomed (R41). -/
def MsgRecord.doomed (m : MsgRecord) : MsgRecord := { m with state := .doomed, pending := [], expiring := false }

theorem doom_of_listed {m : MsgRecord} (h : m.state = .queued ∨ m.state = .listed) : m.doom = m.doomed := if_pos h

theorem msg_doomList (s : State) (c : ChanId) (r : RecId) :
    (doomList s c).msg r = if r ∈ (s.chan c).list then (s.msg r).doom else s.msg r :=
  msg_foldl_modMsg doom_doom _ s r

theorem doomList_eq (s : State) (c : ChanId) : doomList s c = { s with records := (doomList s c).records } :=
  foldl_modMsg_eq MsgRecord.doom _ s

/-- The records of an OPEN channel's list are QUEUED or LISTED (R30). -/
theorem state_of_listed {s : State} (hs : s.listsSound) {c : ChanId} (hopen : (s.chan c).state = .opened) {r : RecId}
    (hr : r ∈ (s.chan c).list) : (s.msg r).state = .queued ∨ (s.msg r).state = .listed := by
  rw [((hs c).2 r hr).2, listState, hopen]
  cases (s.chan c).kind
  · exact Or.inl rfl
  · exact Or.inr rfl

section
variable {s : State} {c : ChanId}

theorem chan_startPurge (a : AttRef) (d : ChanId) : (startPurge s c a).chan d =
    if d = c then { s.chan c with state := .purging, purger := some a } else s.chan d := by
  show ((doomList s c).modChan c (fun ch => { ch with state := .purging, purger := some a })).chan d = _
  rw [chan_modChan, doomList_chan, doomList_chan]

theorem msg_startPurge (hs : s.listsSound) (hopen : (s.chan c).state = .opened) (a : AttRef) (r : RecId) :
    (startPurge s c a).msg r = if r ∈ (s.chan c).list then (s.msg r).doomed else s.msg r := by
  show (doomList s c).msg r = _
  rw [msg_doomList]
  split_ifs with hr
  · exact doom_of_listed (state_of_listed hs hopen hr)
  · rfl

/-- A purge that starts writes the channel table, the message table and the work queue alone. -/
theorem startPurge_eq (a : AttRef) : startPurge s c a = { s with
    channels := (startPurge s c a).channels, records := (startPurge s c a).records
    reclaim := s.reclaim ++ [⟨c, some (s.chan c).list.length⟩] } := by
  unfold startPurge
  dsimp only
  rw [doomList_eq]
  rfl

theorem ports_startPurge (a : AttRef) : (startPurge s c a).ports = s.ports := by rw [startPurge_eq]
theorem cells_startPurge (a : AttRef) : (startPurge s c a).cells = s.cells := by rw [startPurge_eq]
theorem tickPhase_startPurge (a : AttRef) : (startPurge s c a).tickPhase = s.tickPhase := by rw [startPurge_eq]
theorem pending_startPurge (a : AttRef) : (startPurge s c a).pending = s.pending := by rw [startPurge_eq]
theorem engineGap_startPurge (a : AttRef) : (startPurge s c a).engineGap = s.engineGap := by rw [startPurge_eq]
theorem reclaim_startPurge (a : AttRef) : (startPurge s c a).reclaim = s.reclaim ++ [⟨c, some (s.chan c).list.length⟩] := by
  rw [startPurge_eq]

/-- The doom of one channel's list lowers the occupancy of no other channel. -/
theorem occupancy_startPurge_of_ne (hs : s.listsSound) (hopen : (s.chan c).state = .opened) (a : AttRef) {d : ChanId}
    (hd : d ≠ c) : (startPurge s c a).occupancy d = s.occupancy d := by
  have hmsg := msg_startPurge hs hopen a
  have hhands : (startPurge s c a).inHands = s.inHands :=
    inHands_congr (fun p i => by rw [State.slot, State.port, ports_startPurge, ← State.port, ← State.slot])
  have hlist : ∀ r ∈ (s.chan d).list, r ∉ (s.chan c).list := fun r hr hr' =>
    hd (Option.some.inj (((hs d).2 r hr).1.symm.trans ((hs c).2 r hr').1))
  have hstates : ∀ x, (s.chan d).list.countP (fun r => ((startPurge s c a).msg r).state == x) =
      (s.chan d).list.countP (fun r => (s.msg r).state == x) := fun x =>
    List.countP_congr (fun r hr => by rw [hmsg, if_neg (hlist r hr)])
  have hheld : s.inHands.countP (fun r => ((startPurge s c a).msg r).state == .inHand &&
      ((startPurge s c a).msg r).channel == some d) =
      s.inHands.countP (fun r => (s.msg r).state == .inHand && (s.msg r).channel == some d) := by
    refine List.countP_congr (fun r _ => ?_)
    rw [hmsg]
    split_ifs with hr
    · rcases state_of_listed hs hopen hr with h | h <;> simp [MsgRecord.doomed, h]
    · rfl
  rw [State.occupancy, chan_startPurge, if_neg hd, State.occupancy, hhands, hheld, hstates, hstates]

end

theorem exec_purge (l : Link) (seq b : Byte) (s : State) :
    exec (.purge l seq b) s = runCommand (.purge l seq b) (purgeBody l.port b) s := rfl

/-- What PURGE answers through a live handle (R45). -/
theorem purgeBody_eq {s : State} {p : Port} {b : Byte} {h : Handle} {u : Attachment} (hn : s.names p b h u) :
    purgeBody p b s =
      if (s.chan u.channel).state ≠ .opened then refuse s .channelBusy
      else if (s.chan u.channel).list.isEmpty then ⟨s, .ok, [0]⟩
      else ⟨startPurge s u.channel ⟨p, h⟩, .purgeStarted, [byte (s.chan u.channel).list.length]⟩ :=
  withHandle_of_names s hn.1 hn.2

theorem listsSound_onFrame {s : State} (hs : s.listsSound) (f : CommandFrame) : (s.onFrame f).listsSound := by
  simpa only [State.listsSound, chan_onFrame, msg_onFrame] using hs

/-- An accepted PURGE on a list that is not empty: what its answer leaves. -/
theorem purgeStarted_answer {s : State} {l : Link} {seq b : Byte} {h : Handle} {u : Attachment} (hr : s.ready l)
    (hn : s.names l.port b h u) (hs : s.listsSound) (hopen : (s.chan u.channel).state = .opened)
    (hlist : (s.chan u.channel).list ≠ []) :
    exec (.purge l seq b) s = .next (respond
      (startEngine (s.onFrame ⟨l, 0x13, seq, [b]⟩) (startPurge (s.onFrame ⟨l, 0x13, seq, [b]⟩) u.channel ⟨l.port, h⟩))
      l.port seq 0x13 .purgeStarted [byte (s.chan u.channel).list.length]) := by
  have hopen' : ((s.onFrame ⟨l, 0x13, seq, [b]⟩).chan u.channel).state = .opened := by rw [chan_onFrame]; exact hopen
  have hbody := purgeBody_eq (names_onFrame hn ⟨l, 0x13, seq, [b]⟩)
  rw [if_neg (not_not.mpr hopen'), chan_onFrame, if_neg (by simpa using hlist)] at hbody
  rw [exec_purge, runCommand_of_ready (f := ⟨l, 0x13, seq, [b]⟩) rfl rfl hr, hbody]
  dsimp only
  rw [endOfEvent_eq_of_not_lower]
  intro d hd
  by_cases hdc : d = u.channel
  · rw [hdc, chan_startPurge, if_pos rfl] at hd
    exact absurd hd (by simp)
  · exact (occupancy_startPurge_of_ne (listsSound_onFrame hs _) hopen' _ hdc).ge

/-- Settles O20: the branches of `purgeBody_eq`; the doom of the list makes room in no OPEN channel. -/
theorem purgeDoomsTheList : Obligations.PurgeDoomsTheList := by
  refine ⟨fun l seq b s hr hb => ?refused, fun l seq b s h u hr hn hl => ?named⟩
  case refused =>
    rw [exec_purge]
    exact badHandle_of_namesNone (f := ⟨l, 0x13, seq, [b]⟩) rfl rfl hr hb
  case named =>
    obtain ⟨-, -, -, -, ⟨hlists, -⟩, -⟩ := hl
    have hbody := purgeBody_eq (names_onFrame hn ⟨l, 0x13, seq, [b]⟩)
    simp only [chan_onFrame] at hbody
    by_cases hopen : (s.chan u.channel).state = .opened
    · by_cases hlist : (s.chan u.channel).list = []
      · rw [if_neg (not_not.mpr hopen), if_pos (by simpa using hlist)] at hbody
        simp only [if_neg (not_not.mpr hopen), if_pos hlist, exec_purge]
        exact onlyAnswers_of_unchanged rfl rfl hr hbody
      · simp only [if_neg (not_not.mpr hopen), if_neg hlist]
        refine ⟨_, purgeStarted_answer hr hn hlists hopen hlist, ?chan, fun d hd => ?others, ?queue, fun r => ?msg, ?cells,
          ⟨?phase, ?gap, ?pending⟩, fun q hq => ?ports, ?answer⟩
        case chan => rw [chan_respond, chan_startEngine, chan_startPurge, if_pos rfl, chan_onFrame]
        case others => rw [chan_respond, chan_startEngine, chan_startPurge, if_neg hd, chan_onFrame]
        case queue => exact (reclaim_startPurge ⟨l.port, h⟩).trans (by rw [reclaim_onFrame, chan_onFrame])
        case msg =>
          rw [msg_respond, msg_startEngine, msg_startPurge (listsSound_onFrame hlists _) (by rwa [chan_onFrame]),
            chan_onFrame, msg_onFrame]
          rfl
        case cells => exact (cells_startPurge ⟨l.port, h⟩).trans (cells_onFrame _ _)
        case phase => exact (tickPhase_startPurge ⟨l.port, h⟩).trans (tickPhase_onFrame _ _)
        case gap =>
          refine (engineGap_startEngine _ _).trans ?_
          rw [reclaim_startPurge, engineGap_startPurge, engineGap_onFrame, reclaim_onFrame]
          simp [respond, reclaim_startPurge]
        case pending => exact (pending_startPurge ⟨l.port, h⟩).trans (pending_onFrame _ _)
        case ports =>
          rw [port_respond_of_ne _ _ _ _ _ _ hq, port_startEngine, State.port, ports_startPurge]
          exact port_onFrame_of_ne s _ hq
        case answer =>
          refine portIs_respond (f := ⟨l, 0x13, seq, [b]⟩) _ _ _ _ _ hr.1 ?_
          rw [port_startEngine, State.port, ports_startPurge]
          exact port_onFrame s _ _
    · rw [if_pos hopen] at hbody
      simp only [ne_eq, if_pos hopen, exec_purge]
      exact onlyAnswers_of_unchanged rfl rfl hr hbody

end Sys2Proof.Machine
end

section
/-! SUPPORT. The reclaim engine: what its steps do to the work queue and the lists, and that they drain it (O51). -/

namespace Sys2Proof.Machine

/-! ## What a step does to the lists and the work queue (R42, R43) -/

/-- From `s` to `t` the work that the engine sees is the same: the work queue, and each channel's list and state. -/
structure SameWork (s t : State) : Prop where
  reclaim : t.reclaim = s.reclaim
  list : ∀ c, (t.chan c).list = (s.chan c).list
  state : ∀ c, (t.chan c).state = (s.chan c).state

/-- A channel once a record has left its list through a free or as UNLISTED: but for the list and the counters as before. -/
theorem chan_reclaimRecord (s : State) (c : ChanId) (r : RecId) (d : ChanId) : (reclaimRecord s c r).chan d =
    if d = c then { s.chan c with list := (s.chan c).list.filter (fun x => x != r)
                                  stats := ((reclaimRecord s c r).chan c).stats } else s.chan d := by
  unfold reclaimRecord
  split
  · exact chan_freeRecord s c r _ _ d
  · split
    · exact chan_freeRecord s c r _ _ d
    · rw [chan_issue, (unlist_writes s c r).chan_self]
      split_ifs with hd
      · rfl
      · rw [(unlist_writes s c r).chan, if_neg hd]

theorem list_reclaimRecord (s : State) (c : ChanId) (r : RecId) (d : ChanId) : ((reclaimRecord s c r).chan d).list =
    if d = c then (s.chan c).list.filter (fun x => x != r) else (s.chan d).list := by
  rw [chan_reclaimRecord]
  split_ifs <;> rfl

theorem state_reclaimRecord (s : State) (c : ChanId) (r : RecId) (d : ChanId) :
    ((reclaimRecord s c r).chan d).state = (s.chan d).state := by
  rw [chan_reclaimRecord]
  split_ifs with hd
  · rw [hd]
  · rfl

section
variable {s : State} {e : WorkEntry} {q : List WorkEntry} (hq : s.reclaim = e :: q)
include hq

theorem recordStep_of_list {r : RecId} {rest : List RecId} (hl : (s.chan e.channel).list = r :: rest) :
    recordStep s = stepTaken (endOfEvent s (reclaimRecord s e.channel r)) := by
  simp [recordStep, hq, hl]

theorem chan_recordStep {r : RecId} {rest : List RecId} (hl : (s.chan e.channel).list = r :: rest) (d : ChanId) :
    (recordStep s).chan d = (reclaimRecord s e.channel r).chan d := by
  rw [recordStep_of_list hq hl, chan_stepTaken, (rooms_endOfEvent s _).stores.chan]

theorem reclaim_recordStep {r : RecId} {rest : List RecId} (hl : (s.chan e.channel).list = r :: rest) :
    (recordStep s).reclaim = s.reclaim := by
  rw [recordStep_of_list hq hl, reclaim_stepTaken, (endOfEvent_calm s _).reclaim, (reclaimRecord_calm s _ r).reclaim]

section
variable (hl : (s.chan e.channel).list = [])
include hl

theorem completionStep_of_purging (hs : (s.chan e.channel).state = .purging) :
    completionStep s = stepTaken { completePurge s e.channel (e.count.getD 0) with reclaim := q } := by
  simp [completionStep, hq, hl, hs]

theorem completionStep_of_closing (hs : (s.chan e.channel).state = .closing) :
    completionStep s = stepTaken (freeChannel s e.channel) := by
  simp [completionStep, hq, hl, hs]

theorem completionStep_of_other (hs : (s.chan e.channel).state = .free ∨ (s.chan e.channel).state = .opened) :
    completionStep s = stepTaken { s with reclaim := q } := by
  rcases hs with hs | hs <;> simp [completionStep, hq, hl, hs]

end

end

theorem chan_freeChannel (s : State) (c d : ChanId) : (freeChannel s c).chan d = if d = c then Channel.free else s.chan d :=
  chan_modChan s c (fun _ => Channel.free) d

/-- What a purge that completes does to the channels. -/
theorem chan_completePurge (s : State) (c : ChanId) (n : Nat) (d : ChanId) : (completePurge s c n).chan d =
    if d = c then { s.chan c with state := .opened, purger := none } else s.chan d := by
  have room : ∀ u : State, (roomCheck u c).chan d = u.chan d := by
    intro u
    rw [roomCheck_eq]
    split_ifs
    · rw [(tellRooms_sameStores c _ u).chan]
    · rfl
  unfold completePurge
  dsimp only
  rw [room]
  split
  · exact chan_modChan s c (fun ch => { ch with state := .opened, purger := none }) d
  · exact chan_modChan s c (fun ch => { ch with state := .opened, purger := none }) d

/-- The queue that a completion step leaves. -/
def leftQueue (state : ChanState) (e : WorkEntry) (q : List WorkEntry) : List WorkEntry :=
  if state = .closing then q.filter (fun x => x.channel != e.channel) else q

/-- The state in which a completion step leaves the head channel. -/
def leftState : ChanState → ChanState
  | .purging => .opened
  | .closing => .free
  | x => x

/-- What a completion step does to the work that the engine sees: the head channel's list is empty before and after. -/
theorem completionStep_effect {s : State} {e : WorkEntry} {q : List WorkEntry} (hq : s.reclaim = e :: q)
    (hl : (s.chan e.channel).list = []) :
    (completionStep s).reclaim = leftQueue (s.chan e.channel).state e q ∧
      ∀ d, ((completionStep s).chan d).list = (s.chan d).list ∧ ((completionStep s).chan d).state =
        if d = e.channel then leftState (s.chan e.channel).state else (s.chan d).state := by
  have other : (s.chan e.channel).state = .free ∨ (s.chan e.channel).state = .opened →
      (completionStep s).reclaim = leftQueue (s.chan e.channel).state e q ∧
      ∀ d, ((completionStep s).chan d).list = (s.chan d).list ∧ ((completionStep s).chan d).state =
        if d = e.channel then leftState (s.chan e.channel).state else (s.chan d).state := by
    intro hs
    rw [completionStep_of_other hq hl hs]
    refine ⟨?_, fun d => ⟨rfl, ?_⟩⟩
    · rcases hs with hs | hs <;> (rw [hs]; rfl)
    · show (s.chan d).state = _
      split_ifs with hd
      · rw [hd]
        rcases hs with hs | hs <;> (rw [hs]; rfl)
      · rfl
  cases hs : (s.chan e.channel).state with
  | purging =>
    rw [completionStep_of_purging hq hl hs]
    refine ⟨rfl, fun d => ?_⟩
    show ((completePurge s e.channel (e.count.getD 0)).chan d).list = _ ∧
      ((completePurge s e.channel (e.count.getD 0)).chan d).state = _
    rw [chan_completePurge]
    split_ifs with hd
    · exact ⟨by rw [hd], rfl⟩
    · exact ⟨rfl, rfl⟩
  | closing =>
    rw [completionStep_of_closing hq hl hs]
    refine ⟨by simp [leftQueue, freeChannel, hq], fun d => ?_⟩
    rw [chan_stepTaken, chan_freeChannel]
    split_ifs with hd
    · exact ⟨by rw [hd, hl]; rfl, rfl⟩
    · exact ⟨rfl, rfl⟩
  | free => exact hs ▸ other (Or.inl hs)
  | opened => exact hs ▸ other (Or.inr hs)

/-! ## Steps on states whose work is the same -/

theorem recordStep_sameWork {s t : State} (h : SameWork s t) {e : WorkEntry} {q : List WorkEntry} (hq : s.reclaim = e :: q)
    {r : RecId} {rest : List RecId} (hl : (s.chan e.channel).list = r :: rest) : SameWork (recordStep s) (recordStep t) := by
  have hq' : t.reclaim = e :: q := h.reclaim.trans hq
  have hl' : (t.chan e.channel).list = r :: rest := (h.list e.channel).trans hl
  refine ⟨by rw [reclaim_recordStep hq' hl', reclaim_recordStep hq hl, h.reclaim], fun c => ?_, fun c => ?_⟩
  · rw [chan_recordStep hq' hl', chan_recordStep hq hl, list_reclaimRecord, list_reclaimRecord, h.list, h.list]
  · rw [chan_recordStep hq' hl', chan_recordStep hq hl, state_reclaimRecord, state_reclaimRecord, h.state]

theorem completionStep_sameWork {s t : State} (h : SameWork s t) {e : WorkEntry} {q : List WorkEntry}
    (hq : s.reclaim = e :: q) (hl : (s.chan e.channel).list = []) : SameWork (completionStep s) (completionStep t) := by
  obtain ⟨hsq, hsc⟩ := completionStep_effect hq hl
  obtain ⟨htq, htc⟩ := completionStep_effect (h.reclaim.trans hq) ((h.list e.channel).trans hl)
  refine ⟨by rw [htq, hsq, h.state], fun c => by rw [(htc c).1, (hsc c).1, h.list], fun c => ?_⟩
  rw [(htc c).2, (hsc c).2, h.state, h.state]

/-! ## Every step is one less (R44) -/

theorem reclaimWork_eq {s : State} {e : WorkEntry} {q : List WorkEntry} (hq : s.reclaim = e :: q) :
    s.reclaimWork = (s.chan e.channel).list.length + 1 + (q.length + (q.map (fun x => (s.chan x.channel).list.length)).sum) := by
  rw [State.reclaimWork, hq, List.length_cons, List.map_cons, List.sum_cons]
  omega

theorem sum_map_le {α : Type} {f g : α → Nat} {l : List α} (h : ∀ x, f x ≤ g x) : (l.map f).sum ≤ (l.map g).sum := by
  induction l with
  | nil => exact le_rfl
  | cons x l ih => simpa using Nat.add_le_add (h x) ih

theorem reclaimWork_recordStep {s : State} {e : WorkEntry} {q : List WorkEntry} (hq : s.reclaim = e :: q) {r : RecId}
    {rest : List RecId} (hl : (s.chan e.channel).list = r :: rest) : (recordStep s).reclaimWork < s.reclaimWork := by
  have hlist : ∀ c, ((recordStep s).chan c).list.length ≤ (s.chan c).list.length := by
    intro c
    rw [chan_recordStep hq hl, list_reclaimRecord]
    split_ifs with hc
    · rw [hc]; exact List.length_filter_le _ _
    · exact le_rfl
  have hhead : ((recordStep s).chan e.channel).list.length < (s.chan e.channel).list.length := by
    rw [chan_recordStep hq hl, list_reclaimRecord, if_pos rfl, hl]
    have := List.length_filter_le (fun x => x != r) rest
    simp
    omega
  have hrest := sum_map_le (l := q) (fun x : WorkEntry => hlist x.channel)
  rw [reclaimWork_eq hq, reclaimWork_eq ((reclaim_recordStep hq hl).trans hq)]
  omega

theorem sum_map_filter_le {α : Type} (f : α → Nat) (p : α → Bool) (l : List α) :
    ((l.filter p).map f).sum ≤ (l.map f).sum := by
  induction l with
  | nil => exact le_rfl
  | cons x l ih =>
    cases hx : p x
    · simpa [hx] using Nat.le_add_left_of_le ih
    · simpa [hx] using ih

theorem reclaimWork_completionStep {s : State} {e : WorkEntry} {q : List WorkEntry} (hq : s.reclaim = e :: q)
    (hl : (s.chan e.channel).list = []) : (completionStep s).reclaimWork < s.reclaimWork := by
  obtain ⟨hqueue, hchan⟩ := completionStep_effect hq hl
  have hleft : (leftQueue (s.chan e.channel).state e q).length +
      ((leftQueue (s.chan e.channel).state e q).map (fun x => (s.chan x.channel).list.length)).sum ≤
      q.length + (q.map (fun x => (s.chan x.channel).list.length)).sum := by
    unfold leftQueue
    split_ifs
    · exact Nat.add_le_add (List.length_filter_le _ _) (sum_map_filter_le _ _ _)
    · exact le_rfl
  rw [reclaimWork_eq hq, State.reclaimWork, hqueue]
  simp only [(hchan _).1]
  omega

/-! ## The drain -/

/-- The steps `steps` of the engine empty the work queue of every state whose work is that of `s` (R44). -/
structure Drains (s : State) (steps : List Instr) : Prop where
  length : steps.length ≤ s.reclaimWork
  engine : ∀ i ∈ steps, i = .recordStep ∨ i = .completionStep
  drains : ∀ u, SameWork s u → u.pending = steps →
    ∃ t, Host.Core.run Sys2Proof.core steps.length u = .next t ∧ t.reclaim = [] ∧ t.pending = []

/-- One step more, before those that drain what it leaves. -/
theorem Drains.cons {s s' : State} {i : Instr} {steps : List Instr} (h : Drains s' steps)
    (hi : i = .recordStep ∨ i = .completionStep) (hless : s'.reclaimWork < s.reclaimWork)
    (hstep : ∀ u, SameWork s u → ∃ t, exec i u = .next t ∧ SameWork s' t ∧ t.pending = u.pending) : Drains s (i :: steps) where
  length := h.length.trans_lt hless
  engine := List.forall_mem_cons.mpr ⟨hi, h.engine⟩
  drains u hu hp := by
    have hrest : SameWork s { u with pending := steps } := ⟨hu.reclaim, hu.list, hu.state⟩
    obtain ⟨t, ht, hwork, hpending⟩ := hstep _ hrest
    obtain ⟨t', hrun, hempty⟩ := h.drains t hwork hpending
    have hfirst : step u = .next t := by
      rw [step, hp]
      exact ht
    exact ⟨t', by rw [List.length_cons]; exact (run_succ_of_step Sys2Proof.core hfirst _).trans hrun, hempty⟩

theorem exists_drain (n : Nat) (s : State) (hn : s.reclaimWork ≤ n) : ∃ steps, Drains s steps := by
  induction n generalizing s with
  | zero =>
    have hnil : s.reclaim = [] := by
      rw [State.reclaimWork, Nat.le_zero, Nat.add_eq_zero_iff, List.length_eq_zero_iff] at hn
      exact hn.1
    exact ⟨[], Nat.zero_le _, by simp, fun u hu hp => ⟨u, rfl, hu.reclaim.trans hnil, hp⟩⟩
  | succ n ih =>
    cases hq : s.reclaim with
    | nil => exact ⟨[], Nat.zero_le _, by simp, fun u hu hp => ⟨u, rfl, hu.reclaim.trans hq, hp⟩⟩
    | cons e q =>
      cases hl : (s.chan e.channel).list with
      | cons r rest =>
        have hless := reclaimWork_recordStep hq hl
        obtain ⟨steps, h⟩ := ih (recordStep s) (by omega)
        exact ⟨_, h.cons (Or.inl rfl) hless (fun u hu =>
          ⟨_, rfl, recordStep_sameWork hu hq hl, (recordStep_work u).pending⟩)⟩
      | nil =>
        have hless := reclaimWork_completionStep hq hl
        obtain ⟨steps, h⟩ := ih (completionStep s) (by omega)
        exact ⟨_, h.cons (Or.inr rfl) hless (fun u hu =>
          ⟨_, rfl, completionStep_sameWork hu hq hl, (completionStep_work u).pending⟩)⟩

/-- Settles O51: while there is work, one of the two steps does some of it. -/
theorem reclaimEngineDrains : Obligations.ReclaimEngineDrains := by
  intro s
  obtain ⟨steps, h⟩ := exists_drain _ s le_rfl
  obtain ⟨t, hrun, hempty⟩ := h.drains { s with pending := steps } ⟨rfl, fun _ => rfl, fun _ => rfl⟩ rfl
  exact ⟨steps, t, h.length, h.engine, hrun, hempty⟩

end Sys2Proof.Machine
end

section
/-! SUPPORT. The reclaim engine: what a record step does to the record at the head, and what a completion step tells (O50). -/

namespace Sys2Proof.Machine

/-! ## The first record of the head channel's list (R42) -/

section
variable {s : State} {c : ChanId} {r : RecId}

/-- A record whose outcome is issued now owes no receipt any more (R38, R153). -/
theorem msg_issue_of_not_receipted (h : (s.msg r).receipted = false) (o : MsgOutcome) (n : Nat) :
    (issue s c r o n).msg r = { s.msg r with receipted := true, wantsReceipt := false } := by
  unfold issue
  rw [if_neg (by simp [h]), msg_queueReceipt, bump_msg, msg_modMsg_self]
  by_cases hw : (s.msg r).wantsReceipt = true
  · rw [if_pos ⟨rfl, hw⟩]
  · rw [if_neg (fun hc => hw hc.2), ← Bool.eq_false_iff.mpr hw]

/-- A POINT record has no holders, so that one rule covers both kinds. -/
theorem reclaimRecord_eq (h : (s.chan c).kind = .point → (s.msg r).holders = []) : reclaimRecord s c r =
    if (s.msg r).holders = [] then freeRecord s c r .discarded 0 else issue (unlist s c r) c r .discarded 0 := by
  unfold reclaimRecord
  split
  · next hk => rw [if_pos (h hk)]
  · simp only [List.isEmpty_iff]

theorem msg_reclaimRecord (h : (s.chan c).kind = .point → (s.msg r).holders = []) (hr : (s.msg r).receipted = false)
    (q : RecId) : (reclaimRecord s c r).msg q =
      if q = r then
        if (s.msg r).holders = [] then MsgRecord.free
        else { s.msg r with state := .unlisted, pending := [], expiring := false, receipted := true, wantsReceipt := false }
      else s.msg q := by
  have hun := unlist_writes s c r
  rw [reclaimRecord_eq h]
  by_cases hh : (s.msg r).holders = []
  · simp only [if_pos hh]
    exact msg_freeRecord s c r _ _ q
  · simp only [if_neg hh]
    by_cases hq : q = r
    · subst hq
      rw [if_pos rfl, msg_issue_of_not_receipted (by rw [hun.msg_self]; exact hr), hun.msg_self]
    · rw [if_neg hq, msg_issue, if_neg hq, hun.msg, if_neg hq]

theorem wrapAfter_congr {t : State} (hk : ∀ k, t.counter c k = s.counter c k) (hname : (t.chan c).name = (s.chan c).name)
    (hatt : ∀ a, t.att a = s.att a) (k : Counter) (n : Nat) : t.wrapAfter c k n = s.wrapAfter c k n := by
  funext q
  simp only [State.wrapAfter, State.nearWrapEvents, State.eventsFor, hk, hname, hatt]

theorem wrapAfter_zero (k : Counter) (q : Port) : s.wrapAfter c k 0 q = s.wrapEvents c k 1 q := by
  simp [State.wrapAfter, State.wrapEvents]

/-- What a record step adds: its cells return if it is freed, and its outcome is DISCARDED (R36, R42). -/
def State.discardToll (s : State) (c : ChanId) (r : RecId) : Toll :=
  ⟨if (s.msg r).holders = [] then [((s.msg r).chain, (s.msg r).ticket.source)] else [],
   fun k => if k = .discarded then 1 else 0,
   fun q => if q = (s.msg r).ticket.source then s.receiptOf c .discarded 0 r else [], s.wrapAfter c .discarded 0⟩

theorem reclaimRecord_moves (h : (s.chan c).kind = .point → (s.msg r).holders = []) (hr : (s.msg r).receipted = false) :
    Moves c s (reclaimRecord s c r) (s.discardToll c r) := by
  rw [reclaimRecord_eq h, State.discardToll]
  by_cases hh : (s.msg r).holders = []
  · rw [if_pos hh, if_pos hh]
    refine (freeRecord_moves s c r .discarded 0).congr ?_
    simp [State.freeToll, State.issueToll, hr, counterOf, Toll.append]
    rfl
  · rw [if_neg hh, if_neg hh]
    have hun := unlist_writes s c r
    have hname : ((unlist s c r).chan c).name = (s.chan c).name := by rw [hun.chan_self]
    have hcount : ∀ k, (unlist s c r).counter c k = s.counter c k := fun k => by
      simpa [Toll.zero] using (unlist_moves s c r).counters c k
    refine ((unlist_moves s c r).trans (issue_moves (unlist s c r) c r .discarded 0)).congr ?_
    rw [Toll.zero_append, State.issueToll, hun.msg_self, if_neg (by simp [hr]),
      wrapAfter_congr hcount hname (fun a => rfl)]
    simp only [State.receiptOf, hun.msg_self, hname]
    rfl

end

/-! ## The head channel of the work queue, by the laws -/

/-- What the laws say of the head of the work queue and of the first record of its list. -/
structure HeadRecord (s : State) (e : WorkEntry) (r : RecId) : Prop where
  busy : (s.chan e.channel).state = .purging ∨ (s.chan e.channel).state = .closing
  lists : s.listsSound
  listed : r ∈ (s.chan e.channel).list
  doomed : (s.msg r).state = .doomed
  receipted : (s.msg r).receipted = false
  holders : (s.chan e.channel).kind = .point → (s.msg r).holders = []

theorem headRecord_of_lawful {s : State} (hl : s.lawful) {e : WorkEntry} {q : List WorkEntry} (hq : s.reclaim = e :: q)
    {r : RecId} {rest : List RecId} (hlist : (s.chan e.channel).list = r :: rest) : HeadRecord s e r := by
  obtain ⟨-, -, -, ⟨-, hbusy, -⟩, ⟨hlists, ⟨hslots, -⟩, hholders, -, hstates⟩, -⟩ := hl
  have hr : r ∈ (s.chan e.channel).list := by simp [hlist]
  have hb := (hbusy e.channel).mpr (by simp [hq])
  obtain ⟨hchannel, hstate⟩ := (hlists e.channel).2 r hr
  have hdoomed : (s.msg r).state = .doomed := by
    rw [hstate, listState]
    rcases hb with hb | hb <;> simp [hb]
  refine ⟨hb, hlists, hr, hdoomed, ?_, fun hk => ?_⟩
  · by_contra hc
    have := (hstates r).2 (by simpa using hc)
    rw [hdoomed] at this
    exact absurd this (by simp)
  · refine List.eq_nil_iff_forall_not_mem.mpr (fun a ha => ?_)
    obtain ⟨-, hany, -⟩ := (hholders r).2.2 a ha
    obtain ⟨i, -, hi⟩ := List.any_eq_true.mp hany
    split at hi
    · next x k t lease hs =>
      simp only [Bool.and_eq_true, beq_iff_eq] at hi
      obtain ⟨rfl, rfl⟩ := hi
      obtain ⟨v, hv, -, hvc, hpoint, -⟩ := slotSound_holding (hslots a.port i) hs
      rw [hchannel] at hvc
      have hin := (hpoint (Option.some.inj hvc ▸ hk)).2
      rw [hdoomed] at hin
      exact absurd hin (by simp)
    · exact absurd hi (by simp)

/-- A record step makes no room: its channel is not OPEN, and its record counts in no other (R64). -/
theorem endOfEvent_reclaimRecord {s : State} {e : WorkEntry} {r : RecId} (H : HeadRecord s e r) :
    endOfEvent s (reclaimRecord s e.channel r) = reclaimRecord s e.channel r := by
  refine endOfEvent_eq_of_not_lower (fun d hd => ?_)
  have hdc : d ≠ e.channel := by
    rintro rfl
    rw [state_reclaimRecord] at hd
    rcases H.busy with hb | hb <;> simp [hb] at hd
  have hmsg := msg_reclaimRecord H.holders H.receipted
  have hhands : (reclaimRecord s e.channel r).inHands = s.inHands := by
    refine inHands_congr (fun p i => ?_)
    unfold reclaimRecord
    split
    · exact (freeRecord_sameHands s _ r _ _).slot p i
    · split
      · exact (freeRecord_sameHands s _ r _ _).slot p i
      · exact (issue_sameHands (unlist s e.channel r) _ r _ _).slot p i
  have hout : r ∉ (s.chan d).list := fun hr =>
    hdc (Option.some.inj (((H.lists d).2 r hr).1.symm.trans ((H.lists e.channel).2 r H.listed).1))
  have hstates : ∀ x, (s.chan d).list.countP (fun q => ((reclaimRecord s e.channel r).msg q).state == x) =
      (s.chan d).list.countP (fun q => (s.msg q).state == x) := fun x =>
    List.countP_congr (fun q hq => by
      have hqr : q ≠ r := fun hqr => hout (hqr ▸ hq)
      rw [hmsg, if_neg hqr])
  have hheld : s.inHands.countP (fun q => ((reclaimRecord s e.channel r).msg q).state == .inHand &&
      ((reclaimRecord s e.channel r).msg q).channel == some d) =
      s.inHands.countP (fun q => (s.msg q).state == .inHand && (s.msg q).channel == some d) := by
    refine List.countP_congr (fun q _ => ?_)
    rw [hmsg]
    split_ifs with hq hh
    · subst hq; simp [MsgRecord.free, H.doomed]
    · subst hq; simp [H.doomed]
    · rfl
  have hchan : (reclaimRecord s e.channel r).chan d = s.chan d := by rw [chan_reclaimRecord, if_neg hdc]
  rw [State.occupancy, State.occupancy, hchan, hhands, hheld, hstates, hstates]

/-! ## RECORD_STEP (R42) -/

theorem reclaimRecord_sameHands (s : State) (c : ChanId) (r : RecId) : SameHands s (reclaimRecord s c r) := by
  unfold reclaimRecord
  split
  · exact freeRecord_sameHands s _ r _ _
  · split
    · exact freeRecord_sameHands s _ r _ _
    · exact SameHands.trans (t := unlist s c r) (sameHands_of_ports rfl) (issue_sameHands _ _ r _ _)

theorem slots_eq_of_slot {s t : State} {p : Port} (h : ∀ i, t.slot p i = s.slot p i) :
    (t.port p).slots = (s.port p).slots := Vector.ext (fun i hi => h ⟨i, hi⟩)

theorem SameHands.handsSame {s t : State} (h : SameHands s t) : s.handsSame t :=
  fun q => ⟨slots_eq_of_slot (h.slot q), h.parked q⟩

theorem sessionsSame_of_work {s t : State} (h : Work s t) : s.sessionsSame t := fun q =>
  ⟨(h.ports q).session, (h.ports q).epoch, (h.ports q).lease, (h.ports q).receiptAttention, (h.ports q).badCodes,
   (h.ports q).penalty⟩

section
variable {s : State} {e : WorkEntry} {r : RecId} (H : HeadRecord s e r)
include H

theorem HeadRecord.cellsReturn :
    s.cellsReturn (reclaimRecord s e.channel r) (if (s.msg r).holders = [] then [r] else []) := by
  have M := reclaimRecord_moves H.holders H.receipted
  have hmsg := msg_reclaimRecord H.holders H.receipted
  have hcells := M.cells
  have hcharge := M.charge
  rw [State.discardToll] at hcells hcharge
  refine ⟨?_, fun q => ?_, fun hs q hq => ?_⟩
  · rw [hcells]
    split_ifs <;> simp
  · rw [hcharge]
    split_ifs
    · by_cases hsource : (s.msg r).ticket.source = q <;> simp [hsource]
    · simp
  · rcases (reclaimRecord_pooled s e.channel r).keeps hs q with ⟨-, hp⟩ | -
    · exact hp
    · refine payload_of_kept (F := if (s.msg r).holders = [] then [r] else []) hs ?_ hq ?_ ?_
      · rw [hcells]
        split_ifs <;> simp
      · rw [hmsg]
        split_ifs with hqr hh
        · subst hqr; simp [hh] at hq
        · rw [hqr]
        · rfl
      · rw [hmsg]
        split_ifs with hqr hh
        · subst hqr; simp [hh] at hq
        · rw [hqr]
        · rfl

theorem HeadRecord.reservationsReturn : s.reservationsReturn (reclaimRecord s e.channel r) [r] := by
  have M := reclaimRecord_moves H.holders H.receipted
  refine fun q => ⟨((reclaimRecord_work s e.channel r).ports q).serial, ?_⟩
  rw [M.reservations, State.discardToll]
  dsimp only
  by_cases hsource : q = (s.msg r).ticket.source
  · subst hsource
    cases hw : (s.msg r).wantsReceipt <;> simp [State.receiptOf, hw]
  · simp [hsource, Ne.symm hsource]

end

/-- The record step of the statement: its record is freed or unlisted, its outcome DISCARDED. -/
theorem recordStep_works {s : State} {e : WorkEntry} {q : List WorkEntry} {r : RecId} {rest : List RecId} (hl : s.lawful)
    (hq : s.reclaim = e :: q) (hlist : (s.chan e.channel).list = r :: rest) :
    ∃ t, exec .recordStep s = .next t ∧
      (if (s.msg r).holders = [] then t.msg r = MsgRecord.free
      else t.msg r = { s.msg r with state := .unlisted, pending := [], expiring := false, receipted := true,
                                    wantsReceipt := false }) ∧
      (t.chan e.channel).list = rest ∧ (t.chan e.channel).state = (s.chan e.channel).state ∧ t.reclaim = s.reclaim ∧
      t.counter e.channel .discarded = s.counter e.channel .discarded + 1 ∧
      s.otherCounters e.channel [.discarded] t ∧ s.oneReceipt t e.channel .discarded 0 r ∧
      s.reservationsReturn t [r] ∧ s.cellsReturn t (if (s.msg r).holders = [] then [r] else []) ∧
      s.restOfRecords r t ∧ s.restOfChannels e.channel t ∧ s.listAndStats e.channel t ∧ s.handsSame t ∧
      s.sessionsSame t ∧ (∀ a, t.att a = s.att a) ∧
      (∀ p, (t.port p).events = queued (s.port p).events (s.wrapEvents e.channel .discarded 1 p)) ∧ s.clockStep t := by
  have H := headRecord_of_lawful hl hq hlist
  have M := reclaimRecord_moves H.holders H.receipted
  have hmsg := msg_reclaimRecord H.holders H.receipted
  have hchan := chan_reclaimRecord s e.channel r
  have hstep : recordStep s = stepTaken (reclaimRecord s e.channel r) := by
    rw [recordStep_of_list hq hlist, endOfEvent_reclaimRecord H]
  have hexec : exec .recordStep s = .next (stepTaken (reclaimRecord s e.channel r)) := congrArg Host.Outcome.next hstep
  have hands := reclaimRecord_sameHands s e.channel r
  have hwork : Work s (stepTaken (reclaimRecord s e.channel r)) := hstep ▸ recordStep_work s
  have hnodup : (r :: rest).Nodup := hlist ▸ (H.lists e.channel).1
  refine ⟨_, hexec, ?record, ?list, state_reclaimRecord s e.channel r _, ?queue, ?counter, fun k hk => ?others,
    M.receipts, H.reservationsReturn, H.cellsReturn, fun x hx => (hmsg x).trans (if_neg hx),
    fun d hd => (hchan d).trans (if_neg hd), ?same, hands.handsSame, sessionsSame_of_work hwork, hands.att,
    fun p => ?events, hwork.tickPhase, ?gap, hwork.pending⟩
  case record =>
    have h := hmsg r
    rw [if_pos rfl] at h
    split_ifs at h ⊢ <;> exact h
  case list =>
    show ((reclaimRecord s e.channel r).chan e.channel).list = rest
    rw [list_reclaimRecord, if_pos rfl, hlist]
    have hr : ∀ x ∈ rest, (x != r) = true := fun x hx => by
      simpa using fun hxr : x = r => (List.nodup_cons.mp hnodup).1 (hxr ▸ hx)
    simpa using hr
  case queue => exact hstep ▸ reclaim_recordStep hq hlist
  case counter =>
    have h := M.counters e.channel .discarded
    rw [if_pos rfl] at h
    exact h
  case others =>
    have h := M.counters e.channel k
    rw [if_pos rfl, State.discardToll] at h
    dsimp only at h
    rw [if_neg (by simpa using hk)] at h
    exact h.trans (BitVec.add_zero _)
  case same =>
    show (reclaimRecord s e.channel r).chan e.channel = _
    have h := hchan e.channel
    rw [if_pos rfl] at h
    refine h.trans ?_
    show _ = { s.chan e.channel with list := ((reclaimRecord s e.channel r).chan e.channel).list
                                     stats := ((reclaimRecord s e.channel r).chan e.channel).stats }
    rw [list_reclaimRecord, if_pos rfl]
  case events =>
    refine (M.events p).trans (congrArg (queued _) ?_)
    exact wrapAfter_zero .discarded p
  case gap => exact hstep ▸ engineGap_recordStep hq (by simp [hlist])

/-! ## COMPLETION_STEP (R43) -/

section
variable (u : State) (c : ChanId)

theorem roomCheck_sameStores : SameStores u (roomCheck u c) := by
  rw [roomCheck_eq]
  split_ifs
  · exact tellRooms_sameStores c _ u
  · exact .refl u

/-- Whether a ROOM check tells the producers that want room (R64). -/
def State.hasRoom (u : State) (c : ChanId) : Bool := decide (u.occupancy c ≤ (u.chan c).roomMark)

theorem att_roomCheck (b : AttRef) : (roomCheck u c).att b = (u.att b).map (fun v => v.afterRoom (u.hasRoom c) c) := by
  rw [roomCheck_eq, State.hasRoom]
  split_ifs with hroom
  · rw [att_tellRooms]
    cases hv : u.att b with
    | none => rfl
    | some v => simp only [Option.map_some, roomTold_eq_afterRoom hv, hroom, decide_true]
  · simp [hroom, afterRoom_false]

theorem roomCheck_moves (d : ChanId) : Moves d u (roomCheck u c) (.ofEvents (u.roomEvents (u.hasRoom c) c)) := by
  rw [roomCheck_eq, State.hasRoom]
  split_ifs with hroom
  · refine (tellRooms_moves c _ d u).congr (congrArg Toll.ofEvents (funext fun q => ?_))
    rw [roomWaiters_events]
    simp [hroom]
  · refine (Moves.refl d u).congr (Eq.trans ofEvents_nil.symm (congrArg Toll.ofEvents (funext fun q => ?_)))
    simp [hroom, roomEvents_false]

theorem records_roomCheck : (roomCheck u c).records = u.records := by
  have tell : ∀ (l : List AttRef) (v : State), (l.foldl (tellRoom c) v).records = v.records := by
    intro l
    induction l with
    | nil => exact fun _ => rfl
    | cons a l ih => exact fun v => (ih _).trans rfl
  rw [roomCheck_eq]
  split_ifs
  · exact tell _ u
  · rfl

end

/-- A channel whose purge is done is OPEN again, and its purging attachment is told (R43). -/
def purgeDone (s : State) (c : ChanId) (n : Nat) : State :=
  match (s.chan c).purger with
  | some a => queueEvent (s.modChan c (fun ch => { ch with state := .opened, purger := none })) a.port
      (handleEvent .purgeDone (s.chan c).name a.handle (some n))
  | none => s.modChan c (fun ch => { ch with state := .opened, purger := none })

theorem completePurge_eq (s : State) (c : ChanId) (n : Nat) : completePurge s c n = roomCheck (purgeDone s c n) c := by
  cases h : (s.chan c).purger with
  | none =>
    have hdone : purgeDone s c n = s.modChan c (fun ch => { ch with state := .opened, purger := none }) := by
      simp only [purgeDone, h]
    rw [hdone]
    simp only [completePurge, h]
  | some a =>
    have hdone : purgeDone s c n = queueEvent (s.modChan c (fun ch => { ch with state := .opened, purger := none })) a.port
        (handleEvent .purgeDone (s.chan c).name a.handle (some n)) := by
      simp only [purgeDone, h]
    rw [hdone]
    simp only [completePurge, h]

/-- PURGE_DONE at the port of the purging attachment. -/
def State.purgeEvents (s : State) (c : ChanId) (n : Nat) (p : Port) : List Event :=
  match (s.chan c).purger with
  | some a => if a.port = p then [⟨.purgeDone, (s.chan c).name, some a.handle, none, none, some n⟩] else []
  | none => []

section
variable (s : State) (c : ChanId) (n : Nat)

theorem chan_purgeDone (d : ChanId) : (purgeDone s c n).chan d =
    if d = c then { s.chan c with state := .opened, purger := none } else s.chan d := by
  unfold purgeDone
  split
  · exact chan_modChan s c (fun ch => { ch with state := .opened, purger := none }) d
  · exact chan_modChan s c (fun ch => { ch with state := .opened, purger := none }) d

theorem purgeDone_sameHands : SameHands s (purgeDone s c n) := by
  unfold purgeDone
  split
  · exact (modChan_sameHands s c _).trans (queueEvent_sameHands _ _ _)
  · exact modChan_sameHands s c _

theorem records_purgeDone : (purgeDone s c n).records = s.records := by
  unfold purgeDone
  split <;> rfl

theorem purgeDone_moves (d : ChanId) : Moves d s (purgeDone s c n) (.ofEvents (s.purgeEvents c n)) := by
  have hopen := modChan_moves d s c (fun ch => { ch with state := .opened, purger := none }) rfl
  unfold purgeDone State.purgeEvents
  split
  · next a _ =>
    refine (hopen.trans (queueEvent_moves d _ a.port _)).congr ?_
    rw [Toll.zero_append]
    refine congrArg Toll.ofEvents (funext fun q => ?_)
    simp only [handleEvent, eq_comm]
  · exact hopen

end

/-- The completion step of the statement on a PURGING channel: it is OPEN, its purger and its producers are told. -/
theorem completionStep_purges {s : State} {e : WorkEntry} {q : List WorkEntry} (hq : s.reclaim = e :: q)
    (hlist : (s.chan e.channel).list = []) (hstate : (s.chan e.channel).state = .purging) :
    ∃ t, exec .completionStep s = .next t ∧ t.reclaim = q ∧
      t.chan e.channel = { s.chan e.channel with state := .opened, purger := none } ∧
      s.restOfChannels e.channel t ∧ t.records = s.records ∧ s.cellsReturn t [] ∧ s.reservationsReturn t [] ∧
      s.clockStep t ∧ (∀ p, (t.port p).receipts = (s.port p).receipts) ∧ s.handsSame t ∧ s.sessionsSame t ∧
      (∀ a : AttRef, t.att a =
        (s.att a).map (fun u => u.afterRoom (decide (t.occupancy e.channel ≤ (s.chan e.channel).roomMark)) e.channel)) ∧
      ∀ p, (t.port p).events = queued (s.port p).events (s.purgeEvents e.channel (e.count.getD 0) p ++
            s.roomEvents (decide (t.occupancy e.channel ≤ (s.chan e.channel).roomMark)) e.channel p) := by
  have hstep := completionStep_of_purging hq hlist hstate
  rw [completePurge_eq] at hstep
  have hchan := chan_purgeDone s e.channel (e.count.getD 0)
  have hands := purgeDone_sameHands s e.channel (e.count.getD 0)
  have hstores := roomCheck_sameStores (purgeDone s e.channel (e.count.getD 0)) e.channel
  have M := (purgeDone_moves s e.channel (e.count.getD 0) e.channel).trans
    (roomCheck_moves (purgeDone s e.channel (e.count.getD 0)) e.channel e.channel)
  have hwork := completionStep_work s
  have hpool := completionStep_samePool s
  have hroom : (purgeDone s e.channel (e.count.getD 0)).hasRoom e.channel =
      decide ((completionStep s).occupancy e.channel ≤ (s.chan e.channel).roomMark) := by
    rw [hstep]
    show _ = decide ((roomCheck (purgeDone s e.channel (e.count.getD 0)) e.channel).occupancy e.channel ≤ _)
    rw [hstores.occupancy, State.hasRoom, hchan, if_pos rfl]
  have hpart : ∀ x, (completionStep s).chan x = (purgeDone s e.channel (e.count.getD 0)).chan x := fun x => by
    rw [hstep]
    exact hstores.chan x
  refine ⟨_, rfl, ?queue, ?chan, fun d hd => ?others, ?records, ⟨?cells, fun p => ?charge, fun _ r _ => hpool.payload r⟩,
    fun p => ⟨(hwork.ports p).serial, ?reservations⟩, ⟨hwork.tickPhase, engineGap_completionStep hq hlist, hwork.pending⟩,
    fun p => ?receipts, ?hands, sessionsSame_of_work hwork, fun a => ?att, fun p => ?events⟩
  case queue => rw [hstep]; rfl
  case chan => rw [hpart, hchan, if_pos rfl]
  case others => rw [hpart, hchan, if_neg hd]
  case records =>
    rw [hstep]
    exact (records_roomCheck _ _).trans (records_purgeDone _ _ _)
  case cells => rw [hpool.cells]; simp
  case charge => rw [hpool.charge]; simp
  case reservations => rw [hstep]; simpa [Toll.append, Toll.ofEvents] using M.reservations p
  case receipts => rw [hstep]; simpa [Toll.append, Toll.ofEvents] using M.receipts p
  case hands =>
    rw [hstep]
    exact fun p => ⟨slots_eq_of_slot (fun i => (hstores.slot p i).trans (hands.slot p i)),
      (hstores.parked p).trans (hands.parked p)⟩
  case att =>
    rw [← hroom, hstep]
    exact (att_roomCheck _ e.channel a).trans (by rw [hands.att])
  case events =>
    have hevents : ∀ b, (purgeDone s e.channel (e.count.getD 0)).roomEvents b e.channel p = s.roomEvents b e.channel p := by
      intro b
      simp only [State.roomEvents, State.eventsFor, hands.att, hchan, if_true]
    rw [← hroom, ← hevents, hstep]
    exact M.events p

/-- The completion step of the statement on a CLOSING channel: it is FREE, and its one entry leaves the work queue. -/
theorem completionStep_frees {s : State} {e : WorkEntry} {q : List WorkEntry} (hl : s.lawful) (hq : s.reclaim = e :: q)
    (hlist : (s.chan e.channel).list = []) (hstate : (s.chan e.channel).state = .closing) :
    ∃ t, exec .completionStep s = .next t ∧ t.reclaim = q ∧ t.chan e.channel = Channel.free ∧
      s.restOfChannels e.channel t ∧ t.records = s.records ∧ t.cells = s.cells ∧ t.ports = s.ports ∧ s.clockStep t := by
  obtain ⟨-, -, -, ⟨hnodup, -, -⟩, -, -⟩ := hl
  have hstep := completionStep_of_closing hq hlist hstate
  have hchan := chan_freeChannel s e.channel
  have hwork := completionStep_work s
  have hgap := engineGap_completionStep hq hlist
  have hrest : s.reclaim.filter (fun x => x.channel != e.channel) = q := by
    rw [hq, List.map_cons, List.nodup_cons] at hnodup
    have hout : ∀ x ∈ q, (x.channel != e.channel) = true := fun x hx => by
      simpa using fun hxe : x.channel = e.channel => hnodup.1 (hxe ▸ List.mem_map_of_mem hx)
    rw [hq, List.filter_cons_of_neg (by simp), List.filter_eq_self.mpr hout]
  refine ⟨_, congrArg Host.Outcome.next hstep, hrest, (hchan _).trans (if_pos rfl), fun d hd => (hchan d).trans (if_neg hd),
    rfl, rfl, rfl, ?_⟩
  rw [← hstep]
  exact ⟨hwork.tickPhase, hgap, hwork.pending⟩

/-! ## The statement -/

theorem exec_recordStep_without_ground {s : State}
    (h : s.reclaim = [] ∨ ∃ e ∈ s.reclaim.head?, (s.chan e.channel).list = []) : exec .recordStep s = .next s := by
  have hstep : recordStep s = s := by
    unfold recordStep
    rcases h with hq | ⟨e, he, hlist⟩
    · rw [hq]
    · obtain ⟨q, hq⟩ := List.head?_eq_some_iff.mp he
      simp only [hq, hlist]
  exact congrArg Host.Outcome.next hstep

theorem exec_completionStep_without_ground {s : State}
    (h : s.reclaim = [] ∨ ∃ e ∈ s.reclaim.head?, (s.chan e.channel).list ≠ []) : exec .completionStep s = .next s := by
  have hstep : completionStep s = s := by
    unfold completionStep
    rcases h with hq | ⟨e, he, hlist⟩
    · rw [hq]
    · obtain ⟨q, hq⟩ := List.head?_eq_some_iff.mp he
      simp [hq, hlist]
  exact congrArg Host.Outcome.next hstep

/-- Settles O50: each kind of step is taken by its own theorem, which names the record or the channel it works on. -/
theorem reclaimStepsDoTheirWork : Obligations.ReclaimStepsDoTheirWork := by
  unfold Obligations.ReclaimStepsDoTheirWork
  exact ⟨fun _ _ _ _ _ hl hq hlist => recordStep_works hl hq hlist,
    fun _ _ _ _ hq hlist hstate => completionStep_purges hq hlist hstate,
    fun _ _ _ hl hq hlist hstate => completionStep_frees hl hq hlist hstate,
    fun _ h => exec_recordStep_without_ground h, fun _ h => exec_completionStep_without_ground h⟩

end Sys2Proof.Machine
end

section
/-! SUPPORT. Where messages, takes and attachments stand (O60): the fields that the laws speak of, as functions, and the laws
over them. -/

namespace Sys2Proof.Machine

/-- The fields of the state that the laws of `State.lawful` speak of, as functions: of a channel, of a record, of the hands
and the wait of a port; and the work queue, each entry with whether it has a count. -/
@[ext] structure Places where
  state : ChanId → ChanState
  kind : ChanId → Kind
  depth : ChanId → Nat
  list : ChanId → List RecId
  waiters : ChanId → List Port
  held : ChanId → Bool
  stands : RecId → RecState
  ticket : RecId → Ticket
  channel : RecId → Option ChanId
  pending : RecId → List AttRef
  holders : RecId → List AttRef
  receipted : RecId → Bool
  hand : Port → Slot → Option (RecId × Handle × Ticket)
  reserved : Port → Slot → Bool
  wait : Port → Option (Handle × Slot)
  work : List (ChanId × Bool)

/-- What a HOLDING slot holds, its lease apart. -/
def HandSlot.grip : HandSlot → Option (RecId × Handle × Ticket)
  | .holding r h t _ => some (r, h, t)
  | _ => none

/-- The places of a state. -/
def State.places (s : State) : Places where
  state c := (s.chan c).state
  kind c := (s.chan c).kind
  depth c := (s.chan c).depthLimit
  list c := (s.chan c).list
  waiters c := (s.chan c).waiters
  held c := (s.chan c).held
  stands r := (s.msg r).state
  ticket r := (s.msg r).ticket
  channel r := (s.msg r).channel
  pending r := (s.msg r).pending
  holders r := (s.msg r).holders
  receipted r := (s.msg r).receipted
  hand p i := (s.slot p i).grip
  reserved p i := s.slot p i == .reserved
  wait p := (s.port p).parked.map (fun w => (w.handle, w.slot))
  work := s.reclaim.map (fun e => (e.channel, e.count.isSome))

/-- Who is attached, and as what. -/
abbrev Seating := AttRef → Option (ChanId × Role)

/-- The seating of a state. -/
def State.seats (s : State) : Seating := fun a => (s.att a).map (fun u => (u.channel, u.role))

/-! ## The laws -/

namespace Places

/-- The state of a record in a channel's list (R28, R30). -/
def standing : ChanState → Kind → RecState
  | .opened, .point => .queued
  | .opened, .fanout => .listed
  | _, _ => .doomed

/-- Attachments belong to channels in use, and their roles suit them (R11). -/
structure Seats (σ : Seating) (state : ChanId → ChanState) (kind : ChanId → Kind) : Prop where
  opens : ∀ a c x, σ a = some (c, x) → state c = .opened ∨ state c = .purging
  once : ∀ p h k y, σ ⟨p, h⟩ = some y → σ ⟨p, k⟩ = some y → h = k
  suits : ∀ a c x, σ a = some (c, x) → roleSuits x (kind c) = true

/-- The waiter lists, the parked takes and their RESERVED slots (R71, R94, R95). -/
structure Waits (σ : Seating) (waiters : ChanId → List Port) (reserved : Port → Slot → Bool)
    (wait : Port → Option (Handle × Slot)) : Prop where
  nodup : ∀ c, (waiters c).Nodup
  waits : ∀ c p, p ∈ waiters c → ∃ h i x, wait p = some (h, i) ∧ σ ⟨p, h⟩ = some (c, x)
  listed : ∀ p h i, wait p = some (h, i) → ∃ c x, σ ⟨p, h⟩ = some (c, x) ∧ x ≠ .producer ∧ p ∈ waiters c
  slot : ∀ p i, reserved p i = true ↔ ∃ h, wait p = some (h, i)

/-- The work queue (R40). -/
structure Works (state : ChanId → ChanState) (work : List (ChanId × Bool)) : Prop where
  nodup : (work.map Prod.fst).Nodup
  busy : ∀ c, state c = .purging ∨ state c = .closing ↔ c ∈ work.map Prod.fst
  counted : ∀ c b, (c, b) ∈ work → (b = true ↔ state c = .purging)

/-- The lists hold records of their channel, each once, in the state that suits it (R30). -/
structure Lists (state : ChanId → ChanState) (kind : ChanId → Kind) (list : ChanId → List RecId)
    (stands : RecId → RecState) (channel : RecId → Option ChanId) : Prop where
  nodup : ∀ c, (list c).Nodup
  of : ∀ c r, r ∈ list c → channel r = some c
  suit : ∀ c r, r ∈ list c → stands r = standing (state c) (kind c)
  free : ∀ c, state c = .free → list c = []

/-- What the HOLDING slots hold (R30, R71, R111). -/
structure Hands (σ : Seating) (kind : ChanId → Kind) (stands : RecId → RecState) (ticket : RecId → Ticket)
    (channel : RecId → Option ChanId) (holders : RecId → List AttRef)
    (hand : Port → Slot → Option (RecId × Handle × Ticket)) : Prop where
  label : ∀ p i r h t, hand p i = some (r, h, t) → ticket r = t
  seat : ∀ p i r h t, hand p i = some (r, h, t) → ∃ c x, channel r = some c ∧ σ ⟨p, h⟩ = some (c, x)
  point : ∀ p i r h t c, hand p i = some (r, h, t) → channel r = some c → kind c = .point →
    σ ⟨p, h⟩ = some (c, .consumer) ∧ stands r = .inHand
  fanout : ∀ p i r h t c, hand p i = some (r, h, t) → channel r = some c → kind c = .fanout →
    σ ⟨p, h⟩ = some (c, .subscriber) ∧ ⟨p, h⟩ ∈ holders r
  once : ∀ p i r h t q j k v, hand p i = some (r, h, t) → hand q j = some (r, k, v) →
    stands r = .inHand ∨ p = q → p = q ∧ i = j

/-- The holder sets (R111). -/
structure Held (stands : RecId → RecState) (pending holders : RecId → List AttRef)
    (hand : Port → Slot → Option (RecId × Handle × Ticket)) : Prop where
  nodup : ∀ r, (holders r).Nodup
  unlisted : ∀ r, stands r = .unlisted → holders r ≠ []
  live : ∀ r, ∀ a ∈ holders r, stands r = .listed ∨ stands r = .unlisted ∨ stands r = .doomed
  gripped : ∀ r, ∀ a ∈ holders r, ∃ i t, hand a.port i = some (r, a.handle, t)
  apart : ∀ r, ∀ a ∈ holders r, a ∉ pending r

/-- The pending sets (R110). -/
structure Pends (σ : Seating) (stands : RecId → RecState) (channel : RecId → Option ChanId)
    (pending : RecId → List AttRef) : Prop where
  nodup : ∀ r, (pending r).Nodup
  listed : ∀ r, pending r ≠ [] ↔ stands r = .listed
  seat : ∀ r, ∀ a ∈ pending r, ∃ c, σ a = some (c, .subscriber) ∧ channel r = some c

/-- A record stands where its state says (R28, R30). -/
structure Stands (list : ChanId → List RecId) (stands : RecId → RecState) (ticket : RecId → Ticket)
    (channel : RecId → Option ChanId) (receipted : RecId → Bool)
    (hand : Port → Slot → Option (RecId × Handle × Ticket)) : Prop where
  listed : ∀ r, stands r = .queued ∨ stands r = .listed ∨ stands r = .doomed → ∃ c, channel r = some c ∧ r ∈ list c
  gripped : ∀ r, stands r = .inHand → ∃ p i h t, hand p i = some (r, h, t)
  settled : ∀ r, receipted r = true → stands r = .unlisted
  free : ∀ r, stands r = .free → channel r = none ∧ ticket r = MsgRecord.free.ticket

/-- The channel of the record in a slot. -/
def spotChannel (channel : RecId → Option ChanId) (hand : Port → Slot → Option (RecId × Handle × Ticket))
    (x : Port × Slot) : Option ChanId := (hand x.1 x.2).bind (fun g => channel g.1)

/-- How many slots hold a record of a channel. -/
def handCount (channel : RecId → Option ChanId) (hand : Port → Slot → Option (RecId × Handle × Ticket)) (c : ChanId) : Nat :=
  ∑ x : Port × Slot, if spotChannel channel hand x = some c then 1 else 0

/-- Law 3 (R50). -/
structure Deep (state : ChanId → ChanState) (kind : ChanId → Kind) (depth : ChanId → Nat) (list : ChanId → List RecId)
    (channel : RecId → Option ChanId) (hand : Port → Slot → Option (RecId × Handle × Ticket)) : Prop where
  opened : ∀ c, state c = .opened → (list c).length + (if kind c = .point then handCount channel hand c else 0) ≤ depth c
  purging : ∀ c, state c = .purging → kind c = .point → handCount channel hand c ≤ depth c

section
variable (σ : Seating) (P : Places)

/-! Each group of laws, of places. -/

abbrev SeatLaw : Prop := Seats σ P.state P.kind
abbrev WaitLaw : Prop := Waits σ P.waiters P.reserved P.wait
abbrev WorkLaw : Prop := Works P.state P.work
abbrev ListLaw : Prop := Lists P.state P.kind P.list P.stands P.channel
abbrev HandLaw : Prop := Hands σ P.kind P.stands P.ticket P.channel P.holders P.hand
abbrev HeldLaw : Prop := Held P.stands P.pending P.holders P.hand
abbrev PendLaw : Prop := Pends σ P.stands P.channel P.pending
abbrev PlaceLaw : Prop := Stands P.list P.stands P.ticket P.channel P.receipted P.hand
abbrev DeepLaw : Prop := Deep P.state P.kind P.depth P.list P.channel P.hand

/-- The laws of `State.lawful` over the places, but for those of the waits that an event may leave open for a while
(`Places.Quiet`), and but for the attachment that every channel in use has. The seating stands apart: while an attachment
is detached, the laws go on holding with it among them. -/
structure Core : Prop where
  seats : P.SeatLaw σ
  waits : P.WaitLaw σ
  works : P.WorkLaw
  lists : P.ListLaw
  hands : P.HandLaw σ
  heldBy : P.HeldLaw
  pends : P.PendLaw σ
  placed : P.PlaceLaw
  deep : P.DeepLaw

/-- The laws, with an attachment at every channel in use (Law 10). -/
structure Laws : Prop extends P.Core σ where
  seated : ∀ c, P.state c = .opened ∨ P.state c = .purging → ∃ a x, σ a = some (c, x)

end

/-- Law 9 and its like for a FANOUT channel, at one channel (R97). -/
structure Quiet (P : Places) (c : ChanId) : Prop where
  point : P.state c = .opened → P.kind c = .point → P.held c = false → P.list c = [] ∨ P.waiters c = []
  fanout : P.state c = .opened → P.kind c = .fanout → P.held c = false → ∀ p ∈ P.waiters c, ∀ h i, P.wait p = some (h, i) →
    ∀ r ∈ P.list c, ⟨p, h⟩ ∉ P.pending r

end Places

/-- A FREE channel or message record has the FREE values (R3, R26, R27). -/
structure State.tidy (s : State) : Prop where
  chan : ∀ c, (s.chan c).state = .free → s.chan c = Channel.free
  msg : ∀ r, (s.msg r).state = .free → s.msg r = MsgRecord.free

/-- The laws, but for the waits, with a seating that may hold an attachment on its way out. -/
structure Good (σ : Seating) (s : State) : Prop where
  laws : s.places.Laws σ
  tidy : s.tidy

/-- The laws with those of the waits, with a seating that may hold an attachment on its way out. -/
structure Fine (σ : Seating) (s : State) : Prop where
  good : Good σ s
  quiet : ∀ c, s.places.Quiet c

/-- The laws. -/
abbrev Sound (s : State) : Prop := Fine s.seats s

/-! ## They are the laws of the model -/

theorem listState_eq (ch : Channel) : listState ch = Places.standing ch.state ch.kind := by
  unfold listState Places.standing
  cases ch.state <;> cases ch.kind <;> rfl

end Sys2Proof.Machine
end

section
/-! SUPPORT. The laws over the places are the laws of the model (O60). -/

namespace Sys2Proof.Machine

variable {s : State}

/-! ## Reading the places -/

theorem grip_eq_some_iff {x : HandSlot} {r : RecId} {h : Handle} {t : Ticket} :
    x.grip = some (r, h, t) ↔ ∃ lease, x = .holding r h t lease := by
  cases x <;> simp [HandSlot.grip]

theorem hand_eq_some_iff {p : Port} {i : Slot} {r : RecId} {h : Handle} {t : Ticket} :
    s.places.hand p i = some (r, h, t) ↔ ∃ lease, s.slot p i = .holding r h t lease := grip_eq_some_iff

theorem seats_eq_some_iff {a : AttRef} {c : ChanId} {x : Role} :
    s.seats a = some (c, x) ↔ ∃ u, s.att a = some u ∧ u.channel = c ∧ u.role = x := by
  simp [State.seats]

theorem wait_eq_some_iff {p : Port} {h : Handle} {i : Slot} :
    s.places.wait p = some (h, i) ↔ ∃ w, (s.port p).parked = some w ∧ w.handle = h ∧ w.slot = i := by
  simp [State.places]

theorem reserved_iff {p : Port} {i : Slot} : s.places.reserved p i = true ↔ s.slot p i = .reserved := beq_iff_eq

theorem parkedOn_eq_some_iff {p : Port} {c : ChanId} {w : ParkedTake} : s.parkedOn p = some (c, w) ↔
    (s.port p).parked = some w ∧ ∃ x, s.seats ⟨p, w.handle⟩ = some (c, x) := by
  unfold State.parkedOn
  cases hw : (s.port p).parked with
  | none => simp
  | some v =>
    simp only [Option.map_eq_some_iff, Prod.mk.injEq, Option.some.injEq, seats_eq_some_iff]
    constructor
    · rintro ⟨u, hu, rfl, rfl⟩
      exact ⟨rfl, u.role, u, hu, rfl, rfl⟩
    · rintro ⟨rfl, x, u, hu, rfl, -⟩
      exact ⟨u, hu, rfl, rfl⟩

/-! ## Channels, attachments and waits -/

theorem seats_iff : s.places.SeatLaw s.seats ∧
    (∀ c, s.places.state c = .opened ∨ s.places.state c = .purging → ∃ a x, s.seats a = some (c, x)) ↔
      s.attachedOpen ∧ s.rolesFit := by
  constructor
  · rintro ⟨L, hseated⟩
    refine ⟨⟨fun p h u hu => L.opens ⟨p, h⟩ _ _ (seats_eq_some_iff.mpr ⟨u, hu, rfl, rfl⟩), fun c hc hnil => ?_⟩,
      fun p h k t ht u hu hc hx => L.once p h k (t.channel, t.role) (seats_eq_some_iff.mpr ⟨t, ht, rfl, rfl⟩)
        (seats_eq_some_iff.mpr ⟨u, hu, hc.symm, hx.symm⟩),
      fun p h u hu => L.suits ⟨p, h⟩ _ _ (seats_eq_some_iff.mpr ⟨u, hu, rfl, rfl⟩)⟩
    obtain ⟨a, x, ha⟩ := hseated c hc
    obtain ⟨u, hu, hc, -⟩ := seats_eq_some_iff.mp ha
    have := mem_attachmentsOf_iff.mpr ⟨u, hu, hc⟩
    simp [hnil] at this
  · rintro ⟨⟨hopens, hseated⟩, honce, hsuits⟩
    refine ⟨⟨fun a c x ha => ?_, fun p h k y hh hk => ?_, fun a c x ha => ?_⟩, fun c hc => ?_⟩
    · obtain ⟨u, hu, rfl, -⟩ := seats_eq_some_iff.mp ha
      exact hopens a.port a.handle u hu
    · obtain ⟨t, ht, htc, htx⟩ := seats_eq_some_iff.mp hh
      obtain ⟨u, hu, huc, hux⟩ := seats_eq_some_iff.mp hk
      exact honce p h k t ht u hu (htc.trans huc.symm) (htx.trans hux.symm)
    · obtain ⟨u, hu, rfl, rfl⟩ := seats_eq_some_iff.mp ha
      exact hsuits a.port a.handle u hu
    · obtain ⟨a, ha⟩ := List.exists_mem_of_ne_nil _ (hseated c hc)
      obtain ⟨u, hu, hc⟩ := mem_attachmentsOf_iff.mp ha
      exact ⟨a, u.role, seats_eq_some_iff.mpr ⟨u, hu, hc, rfl⟩⟩

theorem waits_iff : s.places.WaitLaw s.seats ↔
    s.waitersParked ∧ s.handsAgree := by
  constructor
  · intro L
    refine ⟨⟨fun c => ⟨L.nodup c, fun p hp => ?_⟩, fun p w hw => ?_⟩, fun p => ⟨fun i => ?_, fun w hw => ?_⟩⟩
    · obtain ⟨h, i, x, hwait, hx⟩ := L.waits c p hp
      obtain ⟨w, hw, rfl, rfl⟩ := wait_eq_some_iff.mp hwait
      rw [parkedOn_eq_some_iff.mpr ⟨hw, x, hx⟩]
      rfl
    · obtain ⟨c, x, hx, -, hin⟩ := L.listed p w.handle w.slot (wait_eq_some_iff.mpr ⟨w, hw, rfl, rfl⟩)
      obtain ⟨u, hu, rfl, -⟩ := seats_eq_some_iff.mp hx
      rw [hu]
      simpa [State.places] using hin
    · have := L.slot p i
      rw [reserved_iff] at this
      refine this.trans ?_
      simp [State.places]
    · obtain ⟨c, x, hx, hne, -⟩ := L.listed p w.handle w.slot (wait_eq_some_iff.mpr ⟨w, hw, rfl, rfl⟩)
      obtain ⟨u, hu, -, rfl⟩ := seats_eq_some_iff.mp hx
      rw [show (s.port p).attachments[w.handle] = some u from hu]
      simpa using hne
  · rintro ⟨⟨hwaits, hlisted⟩, hhands⟩
    refine ⟨fun c => (hwaits c).1, fun c p hp => ?_, fun p h i hw => ?_, fun p i => ?_⟩
    · obtain ⟨⟨d, w⟩, hw, rfl⟩ := Option.map_eq_some_iff.mp ((hwaits c).2 p hp)
      obtain ⟨hw, x, hx⟩ := parkedOn_eq_some_iff.mp hw
      exact ⟨w.handle, w.slot, x, wait_eq_some_iff.mpr ⟨w, hw, rfl, rfl⟩, hx⟩
    · obtain ⟨w, hparked, rfl, rfl⟩ := wait_eq_some_iff.mp hw
      have hin := hlisted p w hparked
      have hrole := (hhands p).2 w hparked
      change (s.att ⟨p, w.handle⟩).any _ = true at hrole
      cases hu : s.att ⟨p, w.handle⟩ with
      | none => simp [hu] at hin
      | some u =>
        rw [hu] at hin hrole
        exact ⟨u.channel, u.role, seats_eq_some_iff.mpr ⟨u, hu, rfl, rfl⟩, by simpa using hrole,
          by simpa [State.places] using hin⟩
    · rw [reserved_iff]
      refine ((hhands p).1 i).trans ?_
      simp [State.places]

theorem works_iff : s.places.WorkLaw ↔ s.reclaimAgrees := by
  have hmap : s.places.work.map Prod.fst = s.reclaim.map WorkEntry.channel := by
    simp [State.places, Function.comp_def]
  constructor
  · intro L
    refine ⟨hmap ▸ L.nodup, fun c => hmap ▸ L.busy c, fun e he => ?_⟩
    exact L.counted e.channel e.count.isSome (List.mem_map.mpr ⟨e, he, rfl⟩)
  · rintro ⟨hnodup, hbusy, hcount⟩
    refine ⟨hmap ▸ hnodup, fun c => hmap ▸ hbusy c, fun c b hb => ?_⟩
    obtain ⟨e, he, hcb⟩ := List.mem_map.mp hb
    cases hcb
    exact hcount e he

theorem quiet_iff : (∀ c, s.places.Quiet c) ↔ s.nobodyWaits ∧ s.nobodyPends := by
  constructor
  · refine fun L => ⟨fun c => (L c).point, fun c ho hk hh p hp w hw r hr => ?_⟩
    have := (L c).fanout ho hk hh p hp w.handle w.slot (wait_eq_some_iff.mpr ⟨w, hw, rfl, rfl⟩) r hr
    simpa [State.places] using this
  · rintro ⟨hpoint, hfanout⟩ c
    refine ⟨hpoint c, fun ho hk hh p hp h i hw r hr hmem => ?_⟩
    obtain ⟨w, hparked, rfl, rfl⟩ := wait_eq_some_iff.mp hw
    have := hfanout c ho hk hh p hp w hparked r hr
    have hin : (s.msg r).pending.contains ⟨p, w.handle⟩ = true := List.contains_iff_mem.mpr hmem
    exact absurd (this.symm.trans hin) (by simp)

/-! ## Records -/

theorem lists_iff : s.places.ListLaw ↔
    s.listsSound ∧ ∀ c, (s.chan c).state = .free → (s.chan c).list = [] := by
  constructor
  · exact fun L => ⟨fun c => ⟨L.nodup c, fun r hr => ⟨L.of c r hr, (L.suit c r hr).trans (listState_eq _).symm⟩⟩, L.free⟩
  · rintro ⟨hlists, hfree⟩
    exact ⟨fun c => (hlists c).1, fun c r hr => ((hlists c).2 r hr).1,
      fun c r hr => ((hlists c).2 r hr).2.trans (listState_eq _), hfree⟩

theorem mem_holdings_iff {x : Port × Slot × RecId} :
    x ∈ s.holdings ↔ ∃ h t, s.places.hand x.1 x.2.1 = some (x.2.2, h, t) := by
  obtain ⟨p, i, r⟩ := x
  simp only [State.holdings, List.mem_flatMap, List.mem_finRange, true_and, List.mem_filterMap, hand_eq_some_iff]
  constructor
  · rintro ⟨q, j, hx⟩
    split at hx
    · next r' h t lease hs =>
      cases hx
      exact ⟨h, t, lease, hs⟩
    · exact absurd hx (by simp)
  · rintro ⟨h, t, lease, hs⟩
    exact ⟨p, i, by rw [hs]⟩

theorem mem_inHands_iff {r : RecId} : r ∈ s.inHands ↔ ∃ p i h t, s.places.hand p i = some (r, h, t) := by
  simp only [State.inHands, List.mem_flatMap, List.mem_finRange, true_and, List.mem_filterMap, hand_eq_some_iff]
  constructor
  · rintro ⟨p, i, hx⟩
    split at hx
    · next r' h t lease hs =>
      cases hx
      exact ⟨p, i, h, t, lease, hs⟩
    · exact absurd hx (by simp)
  · rintro ⟨p, i, h, t, lease, hs⟩
    exact ⟨p, i, by rw [hs]⟩

/-- A slot is sound where its record and its attachment say so. -/
theorem slotSound_iff {p : Port} {i : Slot} : s.slotSound p i = true ↔ ∀ r h t, s.places.hand p i = some (r, h, t) →
    ∃ v, s.att ⟨p, h⟩ = some v ∧ (s.msg r).ticket = t ∧ (s.msg r).channel = some v.channel ∧
      ((s.chan v.channel).kind = .point → v.role = .consumer ∧ (s.msg r).state = .inHand) ∧
      ((s.chan v.channel).kind = .fanout → v.role = .subscriber ∧ ⟨p, h⟩ ∈ (s.msg r).holders) := by
  constructor
  · intro hs r h t hh
    obtain ⟨lease, hslot⟩ := hand_eq_some_iff.mp hh
    exact slotSound_holding hs hslot
  · intro hs
    unfold State.slotSound
    split
    · next r h t lease hslot =>
      obtain ⟨v, hv, hticket, hchannel, hpoint, hfanout⟩ := hs r h t (hand_eq_some_iff.mpr ⟨lease, hslot⟩)
      rw [hv]
      cases hk : (s.chan v.channel).kind with
      | point => simp [hk, hticket, hchannel, hpoint hk]
      | fanout => simp [hk, hticket, hchannel, hfanout hk]
    · rfl

theorem hands_iff : s.places.HandLaw s.seats ↔ s.slotsSound := by
  constructor
  · intro L
    refine ⟨fun p i => slotSound_iff.mpr (fun r h t hh => ?_), fun x hx y hy hxy hr => ?_⟩
    · obtain ⟨c, x, hc, hx⟩ := L.seat p i r h t hh
      obtain ⟨v, hv, rfl, rfl⟩ := seats_eq_some_iff.mp hx
      refine ⟨v, hv, L.label p i r h t hh, hc, fun hk => ?_, fun hk => ?_⟩
      · have := L.point p i r h t _ hh hc hk
        rw [hx] at this
        simpa [State.places] using this
      · have := L.fanout p i r h t _ hh hc hk
        rw [hx] at this
        simpa [State.places] using this
    · obtain ⟨p, i, r⟩ := x
      obtain ⟨q, j, r'⟩ := y
      obtain rfl : r = r' := hxy
      obtain ⟨h, t, hh⟩ := mem_holdings_iff.mp hx
      obtain ⟨k, v, hk⟩ := mem_holdings_iff.mp hy
      obtain ⟨rfl, rfl⟩ := L.once p i r h t q j k v hh hk hr
      rfl
  · rintro ⟨hsound, honce⟩
    have hs := fun p i r h t => slotSound_iff.mp (hsound p i) r h t
    refine ⟨fun p i r h t hh => ?_, fun p i r h t hh => ?_, fun p i r h t c hh hc hk => ?_, fun p i r h t c hh hc hk => ?_,
      fun p i r h t q j k v hh hk hr => ?_⟩
    · obtain ⟨v, hv, hticket, -⟩ := hs p i r h t hh
      exact hticket
    · obtain ⟨v, hv, -, hchannel, -⟩ := hs p i r h t hh
      exact ⟨v.channel, v.role, hchannel, seats_eq_some_iff.mpr ⟨v, hv, rfl, rfl⟩⟩
    · obtain ⟨v, hv, -, hchannel, hpoint, -⟩ := hs p i r h t hh
      obtain rfl : v.channel = c := Option.some.inj (hchannel.symm.trans hc)
      exact ⟨seats_eq_some_iff.mpr ⟨v, hv, rfl, (hpoint hk).1⟩, (hpoint hk).2⟩
    · obtain ⟨v, hv, -, hchannel, -, hfanout⟩ := hs p i r h t hh
      obtain rfl : v.channel = c := Option.some.inj (hchannel.symm.trans hc)
      exact ⟨seats_eq_some_iff.mpr ⟨v, hv, rfl, (hfanout hk).1⟩, (hfanout hk).2⟩
    · have := honce (p, i, r) (mem_holdings_iff.mpr ⟨h, t, hh⟩) (q, j, r) (mem_holdings_iff.mpr ⟨k, v, hk⟩) rfl hr
      simpa using this

theorem any_slot_iff {a : AttRef} {r : RecId} : ((List.finRange 4).any (fun i => match s.slot a.port i with
        | .holding q h _ _ => q == r && h == a.handle
        | _ => false) = true) ↔ ∃ i t, s.places.hand a.port i = some (r, a.handle, t) := by
  simp only [List.any_eq_true, List.mem_finRange, true_and, hand_eq_some_iff]
  constructor
  · rintro ⟨i, hi⟩
    split at hi
    · next q h t lease hs =>
      simp only [Bool.and_eq_true, beq_iff_eq] at hi
      obtain ⟨rfl, rfl⟩ := hi
      exact ⟨i, t, lease, hs⟩
    · exact absurd hi (by simp)
  · rintro ⟨i, t, lease, hs⟩
    exact ⟨i, by simp [hs]⟩

theorem heldBy_iff : s.places.HeldLaw ↔ s.holdersSound := by
  constructor
  · intro L r
    exact ⟨L.nodup r, L.unlisted r, fun a ha => ⟨L.live r a ha, any_slot_iff.mpr (L.gripped r a ha),
      by simpa [State.places] using L.apart r a ha⟩⟩
  · intro L
    refine ⟨fun r => (L r).1, fun r => (L r).2.1, fun r a ha => ((L r).2.2 a ha).1,
      fun r a ha => any_slot_iff.mp ((L r).2.2 a ha).2.1, fun r a ha => ?_⟩
    have := ((L r).2.2 a ha).2.2
    simpa [State.places] using this

theorem pends_iff : s.places.PendLaw s.seats ↔ s.pendingSound := by
  constructor
  · intro L r
    refine ⟨L.nodup r, L.listed r, fun a ha => ?_⟩
    obtain ⟨c, hseat, hc⟩ := L.seat r a ha
    obtain ⟨u, hu, rfl, hrole⟩ := seats_eq_some_iff.mp hseat
    have hc : (s.msg r).channel = some u.channel := hc
    simp [hu, hrole, hc]
  · intro L
    refine ⟨fun r => (L r).1, fun r => (L r).2.1, fun r a ha => ?_⟩
    have := (L r).2.2 a ha
    cases hu : s.att a with
    | none => simp [hu] at this
    | some u =>
      rw [hu] at this
      simp only [Option.any_some, Bool.and_eq_true, beq_iff_eq] at this
      exact ⟨u.channel, seats_eq_some_iff.mpr ⟨u, hu, rfl, this.1⟩, this.2⟩

theorem recordPlaced_iff {r : RecId} : s.recordPlaced r = true ↔
    ((s.msg r).state = .free → s.msg r = MsgRecord.free) ∧
    ((s.msg r).state = .queued ∨ (s.msg r).state = .listed ∨ (s.msg r).state = .doomed →
      ∃ c, (s.msg r).channel = some c ∧ r ∈ (s.chan c).list) ∧
    ((s.msg r).state = .inHand → ∃ p i h t, s.places.hand p i = some (r, h, t)) := by
  unfold State.recordPlaced
  cases hstate : (s.msg r).state <;> simp [Option.any_eq_true, ← mem_inHands_iff]

theorem placed_iff (hfree : ∀ r, (s.msg r).state = .free → s.msg r = MsgRecord.free) :
    s.places.PlaceLaw ↔
      s.statesSound := by
  constructor
  · exact fun L r => ⟨recordPlaced_iff.mpr ⟨hfree r, L.listed r, L.gripped r⟩, L.settled r⟩
  · intro L
    have hp := fun r => recordPlaced_iff.mp (L r).1
    refine ⟨fun r => (hp r).2.1, fun r => (hp r).2.2, fun r => (L r).2, fun r hr => ?_⟩
    have := hfree r hr
    exact ⟨congrArg MsgRecord.channel this, congrArg MsgRecord.ticket this⟩

/-! ## Depth -/

theorem inHands_eq : s.inHands = (List.finRange 4).flatMap (fun p => (List.finRange 4).filterMap (fun i =>
    (s.places.hand p i).map Prod.fst)) := by
  unfold State.inHands
  refine congrArg (fun g => List.flatMap g _) (funext fun p => congrArg (fun g => List.filterMap g _) (funext fun i => ?_))
  show _ = ((s.slot p i).grip).map Prod.fst
  cases s.slot p i <;> rfl

theorem countP_finRange {n : Nat} (f : Fin n → Bool) : (List.finRange n).countP f = ∑ i, if f i = true then 1 else 0 := by
  rw [Fin.sum_univ_def]
  induction List.finRange n with
  | nil => rfl
  | cons i l ih =>
    rw [List.countP_cons, ih, List.map_cons, List.sum_cons]
    exact Nat.add_comm _ _

theorem countP_inHands (f : RecId → Bool) : s.inHands.countP f =
    ∑ x : Port × Slot, if (s.places.hand x.1 x.2).any (fun g => f g.1) = true then 1 else 0 := by
  rw [inHands_eq, List.countP_flatMap, Fintype.sum_prod_type, Fin.sum_univ_def]
  refine congrArg List.sum (List.map_congr_left (fun p _ => ?_))
  rw [Function.comp_apply, List.countP_filterMap, countP_finRange]
  refine Finset.sum_congr rfl (fun i _ => ?_)
  cases s.places.hand p i <;> simp

section
variable (hl : s.places.ListLaw)
  (hh : s.places.HandLaw s.seats)

include hh in
/-- The records in hand of a POINT channel are those in the slots that hold a record of it. -/
theorem countP_inHands_channel {c : ChanId} (hk : (s.chan c).kind = .point) :
    s.inHands.countP (fun r => (s.msg r).state == .inHand && (s.msg r).channel == some c) =
      Places.handCount s.places.channel s.places.hand c := by
  rw [countP_inHands, Places.handCount]
  refine Finset.sum_congr rfl (fun x _ => if_congr ?_ rfl rfl)
  unfold Places.spotChannel
  cases hx : s.places.hand x.1 x.2 with
  | none => simp
  | some g =>
    obtain ⟨r, h, t⟩ := g
    simp only [Option.any_some, Bool.and_eq_true, beq_iff_eq, Option.bind_some]
    exact ⟨And.right, fun hc => ⟨(hh.point x.1 x.2 r h t c hx hc hk).2, hc⟩⟩

include hl in
theorem countP_list {c : ChanId} (x : RecState) : (s.chan c).list.countP (fun r => (s.msg r).state == x) =
    if Places.standing (s.chan c).state (s.chan c).kind = x then (s.chan c).list.length else 0 := by
  have hsuit : ∀ r ∈ (s.chan c).list, (s.msg r).state = Places.standing (s.chan c).state (s.chan c).kind := hl.suit c
  split_ifs with hx
  · exact List.countP_eq_length.mpr (fun r hr => by simp [hsuit r hr, hx])
  · exact List.countP_eq_zero.mpr (fun r hr => by simp [hsuit r hr, hx])

include hl hh

theorem occupancy_of_opened {c : ChanId} (ho : (s.chan c).state = .opened) : s.occupancy c =
    (s.chan c).list.length +
      (if (s.chan c).kind = .point then Places.handCount s.places.channel s.places.hand c else 0) := by
  have hlist := countP_list hl (c := c)
  cases hk : (s.chan c).kind with
  | point =>
    have hhand := countP_inHands_channel hh hk
    simp only [ho, hk] at hlist
    simp [State.occupancy, ho, hk, hlist, hhand, Places.standing]
  | fanout =>
    simp only [ho, hk] at hlist
    simp [State.occupancy, ho, hk, hlist, Places.standing]

theorem occupancy_of_purging {c : ChanId} (ho : (s.chan c).state = .purging) : s.occupancy c =
    if (s.chan c).kind = .point then Places.handCount s.places.channel s.places.hand c else 0 := by
  have hlist := countP_list hl (c := c)
  cases hk : (s.chan c).kind with
  | point =>
    have hhand := countP_inHands_channel hh hk
    simp only [ho, hk] at hlist
    simp [State.occupancy, ho, hk, hlist, hhand, Places.standing]
  | fanout =>
    simp only [ho, hk] at hlist
    simp [State.occupancy, ho, hk, hlist, Places.standing]

theorem deep_iff : s.places.DeepLaw ↔
    s.depthKept := by
  constructor
  · rintro L c (ho | ho)
    · rw [occupancy_of_opened hl hh ho]
      exact L.opened c ho
    · rw [occupancy_of_purging hl hh ho]
      split_ifs with hk
      · exact L.purging c ho hk
      · exact Nat.zero_le _
  · intro L
    refine ⟨fun c ho => ?_, fun c ho hk => ?_⟩
    · have := L c (Or.inl ho)
      rw [occupancy_of_opened hl hh ho] at this
      exact this
    · have := L c (Or.inr ho)
      rw [occupancy_of_purging hl hh ho, if_pos (show (s.chan c).kind = .point from hk)] at this
      exact this

end

/-! ## All of them -/

theorem sound_iff : Sound s ↔ s.lawful := by
  constructor
  · rintro ⟨⟨L, hfree, hrec⟩, hquiet⟩
    obtain ⟨hopen, hroles⟩ := seats_iff.mp ⟨L.seats, L.seated⟩
    obtain ⟨hwaits, hhands⟩ := waits_iff.mp L.waits
    obtain ⟨hpoint, hfanout⟩ := quiet_iff.mp hquiet
    exact ⟨⟨hopen, hroles, hwaits, hpoint⟩, hfanout, hhands, works_iff.mp L.works,
      ⟨(lists_iff.mp L.lists).1, hands_iff.mp L.hands, heldBy_iff.mp L.heldBy, pends_iff.mp L.pends,
        (placed_iff hrec).mp L.placed⟩, (deep_iff L.lists L.hands).mp L.deep, hfree⟩
  · rintro ⟨⟨hopen, hroles, hwaits, hpoint⟩, hfanout, hhands, hworks, ⟨hlists, hslots, hheld, hpends, hstates⟩, hdepth, hfree⟩
    have hrec : ∀ r, (s.msg r).state = .free → s.msg r = MsgRecord.free := fun r => (recordPlaced_iff.mp (hstates r).1).1
    have L := lists_iff.mpr ⟨hlists, fun c hc => by rw [hfree c hc]; rfl⟩
    have H := hands_iff.mpr hslots
    obtain ⟨hseats, hseated⟩ := seats_iff.mpr ⟨hopen, hroles⟩
    exact ⟨⟨⟨⟨hseats, waits_iff.mpr ⟨hwaits, hhands⟩, works_iff.mpr hworks, L, H, heldBy_iff.mpr hheld,
      pends_iff.mpr hpends, (placed_iff hrec).mpr hstates, (deep_iff L H).mpr hdepth⟩, hseated⟩, ⟨hfree, hrec⟩⟩,
      quiet_iff.mpr ⟨hpoint, hfanout⟩⟩

end Sys2Proof.Machine
end

section
/-! SUPPORT. The moves of messages and takes between the places, and that each keeps the laws (O60): waits, takes, frees. -/

namespace Sys2Proof.Machine.Places

variable {σ : Seating} {P : Places}

/-! ## How many slots hold a record of a channel -/

/-- Two counts of functions that differ at one place. -/
theorem sum_add_of_eq_off {α : Type} [Fintype α] [DecidableEq α] {F G : α → Nat} (a : α) (h : ∀ x, x ≠ a → G x = F x) :
    (∑ x, G x) + F a = (∑ x, F x) + G a := by
  have hF := Finset.add_sum_erase Finset.univ F (Finset.mem_univ a)
  have hG := Finset.add_sum_erase Finset.univ G (Finset.mem_univ a)
  have hrest : ∑ x ∈ Finset.univ.erase a, G x = ∑ x ∈ Finset.univ.erase a, F x :=
    Finset.sum_congr rfl (fun x hx => h x (Finset.ne_of_mem_erase hx))
  omega

/-- A slot that is written. -/
def setHand (hand : Port → Slot → Option (RecId × Handle × Ticket)) (p : Port) (i : Slot)
    (g : Option (RecId × Handle × Ticket)) : Port → Slot → Option (RecId × Handle × Ticket) :=
  fun q j => if q = p ∧ j = i then g else hand q j

section
variable (channel : RecId → Option ChanId) (hand : Port → Slot → Option (RecId × Handle × Ticket)) (p : Port) (i : Slot)

theorem spotChannel_setHand_self (g : Option (RecId × Handle × Ticket)) :
    spotChannel channel (setHand hand p i g) (p, i) = g.bind (fun x => channel x.1) := by simp [spotChannel, setHand]

theorem handCount_setHand (g : Option (RecId × Handle × Ticket)) (c : ChanId) :
    handCount channel (setHand hand p i g) c + (if spotChannel channel hand (p, i) = some c then 1 else 0) =
      handCount channel hand c + if spotChannel channel (setHand hand p i g) (p, i) = some c then 1 else 0 := by
  refine sum_add_of_eq_off (F := fun x => if spotChannel channel hand x = some c then 1 else 0)
    (G := fun x => if spotChannel channel (setHand hand p i g) x = some c then 1 else 0) (p, i) (fun x hx => ?_)
  have hx : ¬ (x.1 = p ∧ x.2 = i) := fun h => hx (Prod.ext h.1 h.2)
  have hspot : spotChannel channel (setHand hand p i g) x = spotChannel channel hand x := by
    simp [spotChannel, setHand, hx]
  rw [hspot]

/-- A record comes into an empty slot. -/
theorem handCount_fill {r : RecId} {h : Handle} {t : Ticket} {d : ChanId} (hi : hand p i = none) (hr : channel r = some d)
    (c : ChanId) : handCount channel (setHand hand p i (some (r, h, t))) c =
      handCount channel hand c + if c = d then 1 else 0 := by
  have key := handCount_setHand channel hand p i (some (r, h, t)) c
  rw [spotChannel_setHand_self] at key
  simp only [spotChannel, hi, Option.bind_none, Option.bind_some, hr, reduceCtorEq, if_false, Nat.add_zero,
    Option.some.injEq] at key
  rw [key]
  simp only [eq_comm]

/-- A record leaves its slot. -/
theorem handCount_clear {r : RecId} {h : Handle} {t : Ticket} {d : ChanId} (hi : hand p i = some (r, h, t))
    (hr : channel r = some d) (c : ChanId) : handCount channel (setHand hand p i none) c + (if c = d then 1 else 0) =
      handCount channel hand c := by
  have key := handCount_setHand channel hand p i none c
  rw [spotChannel_setHand_self] at key
  simp only [spotChannel, hi, Option.bind_none, Option.bind_some, hr, reduceCtorEq, if_false, Nat.add_zero,
    Option.some.injEq] at key
  rw [← key]
  simp only [eq_comm]

end

/-- No slot holds more than it did. -/
theorem handCount_le {channel channel' : RecId → Option ChanId} {hand hand' : Port → Slot → Option (RecId × Handle × Ticket)}
    {c : ChanId} (h : ∀ x, spotChannel channel' hand' x = some c → spotChannel channel hand x = some c) :
    handCount channel' hand' c ≤ handCount channel hand c := by
  refine Finset.sum_le_sum (fun x _ => ?_)
  by_cases hx : spotChannel channel' hand' x = some c
  · rw [if_pos hx, if_pos (h x hx)]
  · rw [if_neg hx]
    exact Nat.zero_le _

theorem length_filter_ne_lt {l : List RecId} {r : RecId} (hr : r ∈ l) : (l.filter (fun x => x != r)).length + 1 ≤ l.length :=
  List.length_filter_lt_length_iff_exists.mpr ⟨r, hr, by simp⟩

/-! ## A wait that ends -/

/-- A parked take ends without a message (R104 to R106). -/
def unpark (P : Places) (c : ChanId) (p : Port) (i : Slot) : Places :=
  { P with
    waiters := Function.update P.waiters c ((P.waiters c).filter (fun x => x != p))
    reserved := fun q j => if q = p ∧ j = i then false else P.reserved q j
    wait := Function.update P.wait p none }

theorem Laws.unpark (L : P.Laws σ) {c : ChanId} {p : Port} {h : Handle} {i : Slot} {x : Role}
    (hw : P.wait p = some (h, i)) (hs : σ ⟨p, h⟩ = some (c, x)) : (P.unpark c p i).Laws σ := by
  obtain ⟨hnodup, hwaits, hlisted, hslot⟩ := L.waits
  refine { L with waits := ⟨fun d => ?_, fun d q hq => ?_, fun q k j hk => ?_, fun q j => ?_⟩ }
  · simp only [Places.unpark, Function.update_apply]
    split_ifs
    · exact (hnodup c).filter _
    · exact hnodup d
  · simp only [Places.unpark, Function.update_apply] at hq ⊢
    grind
  · simp only [Places.unpark, Function.update_apply] at hk ⊢
    grind
  · simp only [Places.unpark, Function.update_apply]
    grind

/-! ## A take that parks -/

/-- A take parks (R96). -/
def park (P : Places) (c : ChanId) (p : Port) (h : Handle) (i : Slot) : Places :=
  { P with
    waiters := Function.update P.waiters c (P.waiters c ++ [p])
    reserved := fun q j => if q = p ∧ j = i then true else P.reserved q j
    wait := Function.update P.wait p (some (h, i)) }

theorem Laws.park (L : P.Laws σ) {c : ChanId} {p : Port} {h : Handle} {i : Slot} {x : Role}
    (hw : P.wait p = none) (hs : σ ⟨p, h⟩ = some (c, x)) (hx : x ≠ .producer) : (P.park c p h i).Laws σ := by
  obtain ⟨hnodup, hwaits, hlisted, hslot⟩ := L.waits
  refine { L with waits := ⟨fun d => ?_, fun d q hq => ?_, fun q k j hk => ?_, fun q j => ?_⟩ }
  · simp only [Places.park, Function.update_apply]
    split_ifs
    · refine List.Nodup.append (hnodup c) (List.nodup_singleton p) (fun q hq hqp => ?_)
      grind [List.mem_singleton]
    · exact hnodup d
  · simp only [Places.park, Function.update_apply] at hq ⊢
    by_cases hqp : q = p
    · subst hqp
      refine ⟨h, i, x, if_pos rfl, ?_⟩
      grind
    · simp only [if_neg hqp]
      grind [List.mem_singleton]
  · simp only [Places.park, Function.update_apply] at hk ⊢
    grind [List.mem_singleton]
  · simp only [Places.park, Function.update_apply]
    by_cases hqp : q = p
    · have hnone := hslot p j
      simp only [hw, reduceCtorEq, exists_false, iff_false] at hnone
      simp [hqp, hnone, eq_comm]
    · simp [hqp, hslot]

/-! ## A record that is taken -/

/-- A QUEUED record is taken into a slot (R76). -/
def takePoint (P : Places) (c : ChanId) (r : RecId) (p : Port) (i : Slot) (h : Handle) : Places :=
  { P with
    list := Function.update P.list c ((P.list c).filter (fun x => x != r))
    stands := Function.update P.stands r .inHand
    hand := setHand P.hand p i (some (r, h, P.ticket r)) }

/-- The state of a listed record in an OPEN channel. -/
theorem Laws.stands_of_opened (L : P.Laws σ) {c : ChanId} {r : RecId} (hr : r ∈ P.list c) (ho : P.state c = .opened) :
    P.stands r = if P.kind c = .point then .queued else .listed := by
  rw [L.lists.suit c r hr, ho]
  cases P.kind c <;> rfl

section
variable (L : P.Laws σ) {c : ChanId} {r : RecId} {p : Port} {i : Slot} {h : Handle} (hr : r ∈ P.list c)
  (ho : P.state c = .opened) (hk : P.kind c = .point) (hs : σ ⟨p, h⟩ = some (c, .consumer)) (hi : P.hand p i = none)

include L hr ho

theorem takePoint_lists : (P.takePoint c r p i h).ListLaw := by
  obtain ⟨lnodup, lof, lsuit, lfree⟩ := L.lists
  refine ⟨fun d => ?nodup, fun d q hq => ?_, fun d q hq => ?_, fun d hd => ?_⟩
  all_goals simp only [Places.takePoint, Function.update_apply] at *
  case nodup =>
    split_ifs
    · exact (lnodup c).filter _
    · exact lnodup d
  all_goals grind

include hk hi in
theorem takePoint_deep : (P.takePoint c r p i h).DeepLaw := by
  have hcount := handCount_fill (h := h) (t := P.ticket r) P.channel P.hand p i hi (L.lists.of c r hr)
  have hlen := length_filter_ne_lt hr
  refine ⟨fun d hd => ?_, fun d hd hdk => ?_⟩
  · have := L.deep.opened d hd
    simp only [Places.takePoint, Function.update_apply, hcount] at *
    grind
  · have := L.deep.purging d hd hdk
    simp only [Places.takePoint, hcount] at *
    grind

include hk in
theorem takePoint_pends : (P.takePoint c r p i h).PendLaw σ := by
  have hrs := L.stands_of_opened hr ho
  have hlisted := L.pends.listed
  refine ⟨L.pends.nodup, fun q => ?_, L.pends.seat⟩
  simp only [Places.takePoint, Function.update_apply]
  grind

include hk

include hi in
theorem takePoint_heldBy : (P.takePoint c r p i h).HeldLaw := by
  have hrs := L.stands_of_opened hr ho
  obtain ⟨dnodup, dunlisted, dlive, dgripped, dapart⟩ := L.heldBy
  refine ⟨dnodup, fun q => ?_, fun q => ?_, fun q a ha => ?_, dapart⟩
  · simp only [Places.takePoint, Function.update_apply]
    grind
  · simp only [Places.takePoint, Function.update_apply]
    grind
  · obtain ⟨j, t, hj⟩ := dgripped q a ha
    refine ⟨j, t, ?_⟩
    simp only [Places.takePoint, setHand]
    grind

include hi in
theorem takePoint_placed : (P.takePoint c r p i h).PlaceLaw := by
  have hrs := L.stands_of_opened hr ho
  obtain ⟨slisted, sgripped, ssettled, sfree⟩ := L.placed
  refine ⟨fun q hq => ?_, fun q hq => ?_, fun q hq => ?_, fun q hq => ?_⟩
  all_goals simp only [Places.takePoint, Function.update_apply, setHand] at *
  · grind
  · by_cases hqr : q = r
    · exact ⟨p, i, h, P.ticket r, by simp [hqr]⟩
    · obtain ⟨q', j, k, t, hj⟩ := sgripped q (by simpa [hqr] using hq)
      refine ⟨q', j, k, t, ?_⟩
      grind
  · grind
  · grind

include hs

theorem takePoint_hands : (P.takePoint c r p i h).HandLaw σ := by
  have hrc := L.lists.of c r hr
  have hrs := L.stands_of_opened hr ho
  obtain ⟨hlabel, hseat, hpoint, hfanout, honce⟩ := L.hands
  refine ⟨fun q j r' k t hg => ?_, fun q j r' k t hg => ?_, fun q j r' k t d hg => ?_, fun q j r' k t d hg => ?_,
      fun q j r' k t q' j' k' t' hg hg' => ?_⟩
  all_goals
    simp only [Places.takePoint, Function.update_apply, setHand] at *
    grind

include hi in
theorem Laws.takePoint : (P.takePoint c r p i h).Laws σ :=
  { L with
    lists := takePoint_lists L hr ho
    hands := takePoint_hands L hr ho hk hs
    heldBy := takePoint_heldBy L hr ho hk hi
    pends := takePoint_pends L hr ho hk
    placed := takePoint_placed L hr ho hk hi
    deep := takePoint_deep L hr ho hk hi }

end

end Sys2Proof.Machine.Places
end

section
/-! SUPPORT. The moves of messages and takes between the places (O60): a FANOUT record that is taken, and a record that is
freed. -/

namespace Sys2Proof.Machine.Places

variable {σ : Seating} {P : Places}

/-! ## Sets of attachments -/

theorem nodup_insertRef {a : AttRef} {l : List AttRef} (hl : l.Nodup) (ha : a ∉ l) : (insertRef a l).Nodup := by
  induction l with
  | nil => simp [insertRef]
  | cons b rest ih =>
    obtain ⟨hb, hrest⟩ := List.nodup_cons.mp hl
    simp only [List.mem_cons, not_or] at ha
    unfold insertRef
    rw [if_neg ha.1]
    split_ifs
    · exact List.nodup_cons.mpr ⟨by simpa using ha, hl⟩
    · refine List.nodup_cons.mpr ⟨fun h => ?_, ih hrest ha.2⟩
      rcases (mem_insertRef a b rest).mp h with h | h
      · exact ha.1 h.symm
      · exact hb h

theorem insertRef_ne_nil (a : AttRef) (l : List AttRef) : insertRef a l ≠ [] :=
  List.ne_nil_of_mem ((mem_insertRef a a l).mpr (Or.inl rfl))

theorem nodup_eraseRef {a : AttRef} {l : List AttRef} (hl : l.Nodup) : (eraseRef a l).Nodup := hl.filter _

/-! ## Lists that a record leaves -/

/-- A record leaves the lists, and no other record changes. -/
theorem Lists.leave {state : ChanId → ChanState} {kind : ChanId → Kind} {list list' : ChanId → List RecId}
    {stands stands' : RecId → RecState} {channel channel' : RecId → Option ChanId} (L : Lists state kind list stands channel)
    (r : RecId) (hlist : ∀ d, list' d = list d ∨ list' d = (list d).filter (fun x => x != r)) (hr : ∀ d, r ∉ list' d)
    (hrest : ∀ q, q ≠ r → stands' q = stands q ∧ channel' q = channel q) : Lists state kind list' stands' channel' := by
  have hmem : ∀ d q, q ∈ list' d → q ∈ list d ∧ q ≠ r := by
    intro d q hq
    refine ⟨?_, fun e => hr d (e ▸ hq)⟩
    rcases hlist d with h | h
    · exact h ▸ hq
    · exact List.mem_of_mem_filter (h ▸ hq)
  refine ⟨fun d => ?_, fun d q hq => ?_, fun d q hq => ?_, fun d hd => ?_⟩
  · rcases hlist d with h | h
    · exact h ▸ L.nodup d
    · exact h ▸ (L.nodup d).filter _
  · obtain ⟨hq, hqr⟩ := hmem d q hq
    exact (hrest q hqr).2.trans (L.of d q hq)
  · obtain ⟨hq, hqr⟩ := hmem d q hq
    exact (hrest q hqr).1.trans (L.suit d q hq)
  · rcases hlist d with h | h <;> simp [h, L.free d hd]

/-! ## A record that is freed -/

/-- A record is freed (R39): it leaves the lists and the hands. -/
def drop (P : Places) (r : RecId) : Places :=
  { P with
    list := fun c => (P.list c).filter (fun x => x != r)
    stands := Function.update P.stands r .free
    ticket := Function.update P.ticket r MsgRecord.free.ticket
    channel := Function.update P.channel r none
    pending := Function.update P.pending r []
    holders := Function.update P.holders r []
    receipted := Function.update P.receipted r false
    hand := fun p i => (P.hand p i).filter (fun g => g.1 != r) }

theorem drop_hand_eq_some_iff {r q : RecId} {p : Port} {i : Slot} {h : Handle} {t : Ticket} :
    (P.drop r).hand p i = some (q, h, t) ↔ P.hand p i = some (q, h, t) ∧ q ≠ r := by
  simp [Places.drop, Option.filter_eq_some_iff]

theorem handCount_drop_le (r : RecId) (c : ChanId) :
    handCount (P.drop r).channel (P.drop r).hand c ≤ handCount P.channel P.hand c := by
  refine handCount_le (fun x hx => ?_)
  obtain ⟨⟨q, h, t⟩, hg, hc⟩ := Option.bind_eq_some_iff.mp hx
  obtain ⟨hg, hqr⟩ := drop_hand_eq_some_iff.mp hg
  simp only [Places.drop, Function.update_apply, if_neg hqr] at hc
  exact Option.bind_eq_some_iff.mpr ⟨_, hg, hc⟩

section
variable (L : P.Laws σ) (r : RecId)
include L

theorem drop_lists : (P.drop r).ListLaw :=
  L.lists.leave r (fun d => Or.inr rfl) (fun d => by simp [Places.drop])
    (fun q hq => by simp [Places.drop, hq])

theorem drop_hands : (P.drop r).HandLaw σ := by
  obtain ⟨hlabel, hseat, hpoint, hfanout, honce⟩ := L.hands
  refine ⟨fun q j r' k t hg => ?_, fun q j r' k t hg => ?_, fun q j r' k t d hg => ?_, fun q j r' k t d hg => ?_,
      fun q j r' k t q' j' k' t' hg hg' => ?_⟩
  all_goals
    obtain ⟨hg, hqr⟩ := drop_hand_eq_some_iff.mp hg
    simp only [Places.drop, Function.update_apply, if_neg hqr]
  · exact hlabel q j r' k t hg
  · exact hseat q j r' k t hg
  · exact hpoint q j r' k t d hg
  · exact hfanout q j r' k t d hg
  · exact honce q j r' k t q' j' k' t' hg (drop_hand_eq_some_iff.mp hg').1

theorem drop_heldBy : (P.drop r).HeldLaw := by
  obtain ⟨dnodup, dunlisted, dlive, dgripped, dapart⟩ := L.heldBy
  refine ⟨fun q => ?_, fun q => ?_, fun q a ha => ?_, fun q a ha => ?_, fun q a ha => ?_⟩
  case refine_4 =>
    have hqr : q ≠ r := by
      rintro rfl
      simp [Places.drop] at ha
    simp only [Places.drop, Function.update_apply, if_neg hqr] at ha
    obtain ⟨j, t, hj⟩ := dgripped q a ha
    exact ⟨j, t, drop_hand_eq_some_iff.mpr ⟨hj, hqr⟩⟩
  all_goals
    simp only [Places.drop, Function.update_apply] at *
    grind

theorem drop_pends : (P.drop r).PendLaw σ := by
  obtain ⟨pnodup, plisted, pseat⟩ := L.pends
  refine ⟨fun q => ?_, fun q => ?_, fun q a ha => ?_⟩
  all_goals
    simp only [Places.drop, Function.update_apply] at *
    grind

theorem drop_placed : (P.drop r).PlaceLaw := by
  obtain ⟨slisted, sgripped, ssettled, sfree⟩ := L.placed
  refine ⟨fun q hq => ?_, fun q hq => ?_, fun q hq => ?_, fun q hq => ?_⟩
  case refine_2 =>
    have hqr : q ≠ r := by
      rintro rfl
      simp [Places.drop] at hq
    simp only [Places.drop, Function.update_apply, if_neg hqr] at hq
    obtain ⟨p, i, h, t, hg⟩ := sgripped q hq
    exact ⟨p, i, h, t, drop_hand_eq_some_iff.mpr ⟨hg, hqr⟩⟩
  all_goals
    simp only [Places.drop, Function.update_apply] at *
    grind

theorem drop_deep : (P.drop r).DeepLaw := by
  have hcount := handCount_drop_le (P := P) r
  have hlen : ∀ d, ((P.drop r).list d).length ≤ (P.list d).length := fun d => List.length_filter_le _ _
  refine ⟨fun d hd => ?_, fun d hd hdk => (hcount d).trans (L.deep.purging d hd hdk)⟩
  have := L.deep.opened d hd
  have := hlen d
  have := hcount d
  simp only [show (P.drop r).kind = P.kind from rfl, show (P.drop r).depth = P.depth from rfl]
  split_ifs at * <;> omega

theorem Laws.drop : (P.drop r).Laws σ :=
  { L with
    lists := drop_lists L r
    hands := drop_hands L r
    heldBy := drop_heldBy L r
    pends := drop_pends L r
    placed := drop_placed L r
    deep := drop_deep L r }

end

/-! ## A FANOUT record that is taken -/

/-- A subscriber takes a LISTED record into a slot (R77, R102): the record is unlisted if no other is pending (R119). -/
def takeFanout (P : Places) (c : ChanId) (r : RecId) (p : Port) (i : Slot) (h : Handle) : Places :=
  { P with
    list := fun d => if d = c ∧ eraseRef ⟨p, h⟩ (P.pending r) = [] then (P.list d).filter (fun x => x != r) else P.list d
    stands := Function.update P.stands r (if eraseRef ⟨p, h⟩ (P.pending r) = [] then .unlisted else .listed)
    pending := Function.update P.pending r (eraseRef ⟨p, h⟩ (P.pending r))
    holders := Function.update P.holders r (insertRef ⟨p, h⟩ (P.holders r))
    hand := setHand P.hand p i (some (r, h, P.ticket r)) }

section
variable (L : P.Laws σ) {c : ChanId} {r : RecId} {p : Port} {i : Slot} {h : Handle} (hr : r ∈ P.list c)
  (ho : P.state c = .opened) (hk : P.kind c = .fanout) (ha : ⟨p, h⟩ ∈ P.pending r) (hi : P.hand p i = none)

include L

theorem Laws.stands_of_pending {r : RecId} {a : AttRef} (ha : a ∈ P.pending r) : P.stands r = .listed :=
  (L.pends.listed r).mp (List.ne_nil_of_mem ha)

theorem Laws.not_held_of_pending {r : RecId} {a : AttRef} (ha : a ∈ P.pending r) : a ∉ P.holders r :=
  fun hh => L.heldBy.apart r a hh ha

/-- A port that awaits a record holds it in no slot. -/
theorem Laws.not_in_hand_of_pending (hk : P.kind c = .fanout) (hc : P.channel r = some c) (ha : ⟨p, h⟩ ∈ P.pending r)
    (j : Slot) (k : Handle) (t : Ticket) : P.hand p j ≠ some (r, k, t) := by
  intro hj
  obtain ⟨d, hseat, hd⟩ := L.pends.seat r _ ha
  obtain ⟨hs, hin⟩ := L.hands.fanout p j r k t c hj hc hk
  have hdc : d = c := Option.some.inj (hd.symm.trans hc)
  have hkh : k = h := L.seats.once p k h _ hs (hdc ▸ hseat)
  exact L.not_held_of_pending ha (hkh ▸ hin)

include ha

include hr in
theorem takeFanout_lists : (P.takeFanout c r p i h).ListLaw := by
  by_cases hlast : eraseRef ⟨p, h⟩ (P.pending r) = []
  · refine L.lists.leave r (fun d => ?_) (fun d => ?_) (fun q hq => ?_)
    · simp only [Places.takeFanout]
      split_ifs
      · exact Or.inr rfl
      · exact Or.inl rfl
    · have hof := L.lists.of
      have hrc := hof c r hr
      simp only [Places.takeFanout]
      grind
    · simp [Places.takeFanout, hq]
  · have hlist : (P.takeFanout c r p i h).list = P.list := by
      funext d
      simp [Places.takeFanout, hlast]
    have hstands : (P.takeFanout c r p i h).stands = P.stands := by
      funext q
      simp only [Places.takeFanout, Function.update_apply, if_neg hlast]
      split_ifs with hq
      · rw [hq, L.stands_of_pending ha]
      · rfl
    show Lists P.state P.kind (P.takeFanout c r p i h).list (P.takeFanout c r p i h).stands P.channel
    rw [hlist, hstands]
    exact L.lists

theorem takeFanout_heldBy (hi : P.hand p i = none) : (P.takeFanout c r p i h).HeldLaw := by
  have hrh := L.not_held_of_pending ha
  have hne := insertRef_ne_nil ⟨p, h⟩ (P.holders r)
  obtain ⟨dnodup, dunlisted, dlive, dgripped, dapart⟩ := L.heldBy
  refine ⟨fun q => ?nodup, fun q => ?unlisted, fun q a ha => ?_, fun q a ha => ?gripped, fun q a ha => ?apart⟩
  case nodup =>
    simp only [Places.takeFanout, Function.update_apply]
    split_ifs
    · exact nodup_insertRef (dnodup r) hrh
    · exact dnodup q
  case unlisted =>
    simp only [Places.takeFanout, Function.update_apply]
    grind
  case gripped =>
    simp only [Places.takeFanout, Function.update_apply, setHand] at ha ⊢
    by_cases hqr : q = r
    · rw [if_pos hqr, mem_insertRef] at ha
      rcases ha with rfl | ha
      · exact ⟨i, P.ticket r, by simp [hqr]⟩
      · obtain ⟨j, t, hj⟩ := dgripped r a ha
        exact ⟨j, t, by grind⟩
    · rw [if_neg hqr] at ha
      obtain ⟨j, t, hj⟩ := dgripped q a ha
      exact ⟨j, t, by grind⟩
  case apart =>
    simp only [Places.takeFanout, Function.update_apply] at ha ⊢
    split_ifs at ha ⊢ with hqr
    · rw [mem_eraseRef]
      rcases (mem_insertRef _ _ _).mp ha with h | h
      · exact fun hc => hc.2 h
      · exact fun hc => dapart r a h hc.1
    · exact dapart q a ha
  · simp only [Places.takeFanout, Function.update_apply] at ha ⊢
    grind

omit ha in
theorem takeFanout_pends : (P.takeFanout c r p i h).PendLaw σ := by
  obtain ⟨pnodup, plisted, pseat⟩ := L.pends
  refine ⟨fun q => ?_, fun q => ?_, fun q a ha => ?_⟩
  all_goals simp only [Places.takeFanout, Function.update_apply] at *
  · split_ifs
    · exact nodup_eraseRef (pnodup r)
    · exact pnodup q
  · grind
  · split_ifs at ha with hqr
    · exact hqr ▸ pseat r a ((mem_eraseRef _ _ _).mp ha).1
    · exact pseat q a ha

include hr

theorem takeFanout_placed (hi : P.hand p i = none) : (P.takeFanout c r p i h).PlaceLaw := by
  have hrs := L.stands_of_pending ha
  have hrc := L.lists.of c r hr
  obtain ⟨slisted, sgripped, ssettled, sfree⟩ := L.placed
  refine ⟨fun q hq => ?_, fun q hq => ?_, fun q hq => ?_, fun q hq => ?_⟩
  all_goals simp only [Places.takeFanout, Function.update_apply, setHand] at *
  · grind
  · have hqr : q ≠ r := by
      rintro rfl
      split_ifs at hq; simp_all
    obtain ⟨q', j, k, t, hj⟩ := sgripped q (by simpa [hqr] using hq)
    exact ⟨q', j, k, t, by grind⟩
  · grind
  · grind

include hk

theorem takeFanout_hands : (P.takeFanout c r p i h).HandLaw σ := by
  have hrc := L.lists.of c r hr
  have hrs := L.stands_of_pending ha
  have hrh := L.not_held_of_pending ha
  have hmem := mem_insertRef ⟨p, h⟩
  have hno := L.not_in_hand_of_pending hk hrc ha
  obtain ⟨d, hd, hdc⟩ := L.pends.seat r _ ha
  obtain ⟨hlabel, hseat, hpoint, hfanout, honce⟩ := L.hands
  refine ⟨fun q j r' k t hg => ?_, fun q j r' k t hg => ?_, fun q j r' k t d hg => ?_, fun q j r' k t d hg => ?_,
      fun q j r' k t q' j' k' t' hg hg' => ?_⟩
  all_goals
    simp only [Places.takeFanout, Function.update_apply, setHand] at *
    grind

include hi

omit ha in
theorem takeFanout_deep : (P.takeFanout c r p i h).DeepLaw := by
  have hcount := handCount_fill (h := h) (t := P.ticket r) P.channel P.hand p i hi (L.lists.of c r hr)
  have hlen := length_filter_ne_lt hr
  refine ⟨fun d hd => ?_, fun d hd hdk => ?_⟩
  · have := L.deep.opened d hd
    simp only [Places.takeFanout, hcount] at *
    grind
  · have := L.deep.purging d hd hdk
    simp only [Places.takeFanout, hcount] at *
    grind

theorem Laws.takeFanout : (P.takeFanout c r p i h).Laws σ :=
  { L with
    lists := takeFanout_lists L hr ha
    hands := takeFanout_hands L hr hk ha
    heldBy := takeFanout_heldBy L ha hi
    pends := takeFanout_pends L
    placed := takeFanout_placed L hr ha hi
    deep := takeFanout_deep L hr hk hi }

end

end Sys2Proof.Machine.Places
end

section
/-! SUPPORT. The moves of messages and takes between the places (O60): a record that is handed back, let go, unlisted or
awaited no more. -/

namespace Sys2Proof.Machine.Places

variable {σ : Seating} {P : Places}

/-! ## A POINT record that is requeued -/

/-- A record in hand goes back to the head of its list (R85). -/
def requeue (P : Places) (c : ChanId) (r : RecId) (p : Port) (i : Slot) : Places :=
  { P with
    list := Function.update P.list c (r :: P.list c)
    stands := Function.update P.stands r .queued
    hand := setHand P.hand p i none }

section
variable (L : P.Laws σ) {c : ChanId} {r : RecId} {p : Port} {i : Slot} {h : Handle} {t : Ticket}
  (hi : P.hand p i = some (r, h, t)) (hc : P.channel r = some c) (ho : P.state c = .opened) (hk : P.kind c = .point)

include L

theorem Laws.not_listed_of_inHand {r : RecId} (hs : P.stands r = .inHand) (d : ChanId) : r ∉ P.list d := by
  intro hr
  have := L.lists.suit d r hr
  rw [hs] at this
  unfold standing at this
  split at this <;> exact absurd this (by simp)

theorem Laws.holders_of_inHand {r : RecId} (hs : P.stands r = .inHand) : P.holders r = [] := by
  refine List.eq_nil_iff_forall_not_mem.mpr (fun a ha => ?_)
  have := L.heldBy.live r a ha
  simp [hs] at this

include hi hc hk

theorem Laws.stands_of_hand : P.stands r = .inHand := (L.hands.point p i r h t c hi hc hk).2

include ho in
theorem requeue_lists : (P.requeue c r p i).ListLaw := by
  have hrs := L.stands_of_hand hi hc hk
  have hno := L.not_listed_of_inHand hrs
  have hq : standing (P.state c) (P.kind c) = .queued := by rw [ho, hk]; rfl
  obtain ⟨lnodup, lof, lsuit, lfree⟩ := L.lists
  refine ⟨fun d => ?nodup, fun d q hq => ?_, fun d q hq => ?_, fun d hd => ?_⟩
  case nodup =>
    simp only [Places.requeue, Function.update_apply]
    split_ifs
    · exact List.nodup_cons.mpr ⟨hno c, lnodup c⟩
    · exact lnodup d
  all_goals
    simp only [Places.requeue, Function.update_apply] at *
    grind

theorem requeue_hands : (P.requeue c r p i).HandLaw σ := by
  have hrs := L.stands_of_hand hi hc hk
  obtain ⟨hlabel, hseat, hpoint, hfanout, honce⟩ := L.hands
  refine ⟨fun q j r' k t hg => ?_, fun q j r' k t hg => ?_, fun q j r' k t d hg => ?_, fun q j r' k t d hg => ?_,
      fun q j r' k t q' j' k' t' hg hg' => ?_⟩
  all_goals
    simp only [Places.requeue, Function.update_apply, setHand] at *
    grind

theorem requeue_heldBy : (P.requeue c r p i).HeldLaw := by
  have hrs := L.stands_of_hand hi hc hk
  have hnil := L.holders_of_inHand hrs
  obtain ⟨dnodup, dunlisted, dlive, dgripped, dapart⟩ := L.heldBy
  refine ⟨dnodup, fun q => ?_, fun q a ha => ?_, fun q a ha => ?_, dapart⟩
  · simp only [Places.requeue, Function.update_apply]
    grind
  · simp only [Places.requeue, Function.update_apply] at ha ⊢
    grind
  · obtain ⟨j, t, hj⟩ := dgripped q a ha
    simp only [Places.requeue, setHand] at ha ⊢
    exact ⟨j, t, by grind⟩

theorem requeue_pends : (P.requeue c r p i).PendLaw σ := by
  have hrs := L.stands_of_hand hi hc hk
  have plisted := L.pends.listed
  refine ⟨L.pends.nodup, fun q => ?_, L.pends.seat⟩
  simp only [Places.requeue, Function.update_apply]
  grind

theorem requeue_placed : (P.requeue c r p i).PlaceLaw := by
  have hrs := L.stands_of_hand hi hc hk
  obtain ⟨slisted, sgripped, ssettled, sfree⟩ := L.placed
  refine ⟨fun q hq => ?listed, fun q hq => ?gripped, fun q hq => ?_, fun q hq => ?_⟩
  all_goals simp only [Places.requeue, Function.update_apply, setHand] at *
  case listed =>
    by_cases hqr : q = r
    · exact ⟨c, by rw [hqr]; exact hc, by simp [hqr]⟩
    · obtain ⟨d, hd, hq⟩ := slisted q (by simpa [hqr] using hq)
      exact ⟨d, hd, by grind⟩
  case gripped =>
    have hqr : q ≠ r := by
      rintro rfl
      simp at hq
    obtain ⟨q', j, k, t, hj⟩ := sgripped q (by simpa [hqr] using hq)
    exact ⟨q', j, k, t, by grind⟩
  all_goals grind

theorem requeue_deep : (P.requeue c r p i).DeepLaw := by
  have hcount := handCount_clear P.channel P.hand p i hi hc
  refine ⟨fun d hd => ?_, fun d hd hdk => ?_⟩
  · have := L.deep.opened d hd
    have := hcount d
    simp only [Places.requeue, Function.update_apply] at *
    grind
  · have := L.deep.purging d hd hdk
    have := hcount d
    simp only [Places.requeue] at *
    omega

include ho in
theorem Laws.requeue : (P.requeue c r p i).Laws σ :=
  { L with
    lists := requeue_lists L hi hc ho hk
    hands := requeue_hands L hi hc hk
    heldBy := requeue_heldBy L hi hc hk
    pends := requeue_pends L hi hc hk
    placed := requeue_placed L hi hc hk
    deep := requeue_deep L hi hc hk }

end

/-! ## A FANOUT record that a holder lets go -/

/-- A holder lets a record go (R82, R86). -/
def letGo (P : Places) (r : RecId) (p : Port) (i : Slot) (h : Handle) : Places :=
  { P with
    holders := Function.update P.holders r (eraseRef ⟨p, h⟩ (P.holders r))
    hand := setHand P.hand p i none }

section
variable (L : P.Laws σ) {c : ChanId} {r : RecId} {p : Port} {i : Slot} {h : Handle} {t : Ticket}
  (hi : P.hand p i = some (r, h, t)) (hc : P.channel r = some c) (hk : P.kind c = .fanout)
  (hlast : P.stands r = .unlisted → eraseRef ⟨p, h⟩ (P.holders r) ≠ [])

include L hi hc hk

theorem Laws.live_of_hand : P.stands r ≠ .inHand := by
  have := L.heldBy.live r _ (L.hands.fanout p i r h t c hi hc hk).2
  rintro hs
  simp [hs] at this

theorem letGo_hands : (P.letGo r p i h).HandLaw σ := by
  have hmem := mem_eraseRef ⟨p, h⟩
  obtain ⟨hlabel, hseat, hpoint, hfanout, honce⟩ := L.hands
  refine ⟨fun q j r' k t hg => ?_, fun q j r' k t hg => ?_, fun q j r' k t d hg => ?_, fun q j r' k t d hg => ?_,
      fun q j r' k t q' j' k' t' hg hg' => ?_⟩
  all_goals
    simp only [Places.letGo, Function.update_apply, setHand] at *
    grind

omit hc hk in
include hlast in
theorem letGo_heldBy : (P.letGo r p i h).HeldLaw := by
  have hmem := mem_eraseRef ⟨p, h⟩
  obtain ⟨dnodup, dunlisted, dlive, dgripped, dapart⟩ := L.heldBy
  refine ⟨fun q => ?nodup, fun q => ?_, fun q a ha => ?_, fun q a ha => ?gripped, fun q a ha => ?_⟩
  case nodup =>
    simp only [Places.letGo, Function.update_apply]
    split_ifs
    · exact nodup_eraseRef (dnodup r)
    · exact dnodup q
  case gripped =>
    simp only [Places.letGo, Function.update_apply, setHand] at ha ⊢
    have hin : a ∈ P.holders q := by
      split_ifs at ha with hq
      · exact hq ▸ ((hmem _ _).mp ha).1
      · exact ha
    obtain ⟨j, t', hj⟩ := dgripped q a hin
    refine ⟨j, t', ?_⟩
    obtain ⟨pa, ka⟩ := a
    grind
  all_goals
    simp only [Places.letGo, Function.update_apply] at *
    grind

theorem letGo_placed : (P.letGo r p i h).PlaceLaw := by
  have hrs := L.live_of_hand hi hc hk
  refine ⟨L.placed.listed, fun q hq => ?_, L.placed.settled, L.placed.free⟩
  obtain ⟨q', j, k, t, hj⟩ := L.placed.gripped q hq
  simp only [Places.letGo, setHand] at hq ⊢
  exact ⟨q', j, k, t, by grind⟩

omit hk in
theorem letGo_deep : (P.letGo r p i h).DeepLaw := by
  have hcount := handCount_clear P.channel P.hand p i hi hc
  refine ⟨fun d hd => ?_, fun d hd hdk => ?_⟩
  · have := L.deep.opened d hd
    have := hcount d
    simp only [Places.letGo] at *
    grind
  · have := L.deep.purging d hd hdk
    have := hcount d
    simp only [Places.letGo] at *
    omega

include hlast in
theorem Laws.letGo : (P.letGo r p i h).Laws σ :=
  { L with
    hands := letGo_hands L hi hc hk
    heldBy := letGo_heldBy L hi hlast
    placed := letGo_placed L hi hc hk
    deep := letGo_deep L hi hc }

end

/-! ## A FANOUT record that leaves the list, and one that is awaited no more -/

/-- A record with holders leaves its list (R28): its outcome may be issued (R42, R67, R124). -/
def unlist (P : Places) (c : ChanId) (r : RecId) (b : Bool) : Places :=
  { P with
    list := Function.update P.list c ((P.list c).filter (fun x => x != r))
    stands := Function.update P.stands r .unlisted
    pending := Function.update P.pending r []
    receipted := Function.update P.receipted r b }

/-- A subscriber awaits a record no more, and others do (R20). -/
def unpend (P : Places) (r : RecId) (a : AttRef) : Places :=
  { P with pending := Function.update P.pending r (eraseRef a (P.pending r)) }

theorem Laws.unpend (L : P.Laws σ) {r : RecId} {a : AttRef} (hne : eraseRef a (P.pending r) ≠ []) :
    (P.unpend r a).Laws σ := by
  have hmem := mem_eraseRef a
  obtain ⟨pnodup, plisted, pseat⟩ := L.pends
  have hr : P.pending r ≠ [] := by
    rintro h
    simp [eraseRef, h] at hne
  have hsub : ∀ q, ∀ b ∈ (P.unpend r a).pending q, b ∈ P.pending q := by
    intro q b hb
    simp only [Places.unpend, Function.update_apply] at hb
    split_ifs at hb with hq
    · exact hq ▸ ((hmem _ _).mp hb).1
    · exact hb
  refine { L with
    heldBy := ⟨L.heldBy.nodup, L.heldBy.unlisted, L.heldBy.live, L.heldBy.gripped,
      fun q b hb hpend => L.heldBy.apart q b hb (hsub q b hpend)⟩
    pends := ⟨fun q => ?_, fun q => ?_, fun q b hb => pseat q b (hsub q b hb)⟩ }
  · simp only [Places.unpend, Function.update_apply]
    split_ifs
    · exact nodup_eraseRef (pnodup r)
    · exact pnodup q
  · simp only [Places.unpend, Function.update_apply]
    grind

section
variable (L : P.Laws σ) {c : ChanId} {r : RecId} (hr : r ∈ P.list c) (hne : P.holders r ≠ []) (b : Bool)
include L

theorem Laws.live_of_holders {r : RecId} (hne : P.holders r ≠ []) :
    P.stands r = .listed ∨ P.stands r = .unlisted ∨ P.stands r = .doomed := by
  obtain ⟨a, ha⟩ := List.exists_mem_of_ne_nil _ hne
  exact L.heldBy.live r a ha

include hr

theorem unlist_lists : (P.unlist c r b).ListLaw := by
  refine L.lists.leave r (fun d => ?_) (fun d => ?_) (fun q hq => ?_)
  · simp only [Places.unlist, Function.update_apply]
    split_ifs with hd
    · exact Or.inr (by rw [hd])
    · exact Or.inl rfl
  · have hof := L.lists.of
    have hrc := hof c r hr
    simp only [Places.unlist, Function.update_apply]
    grind
  · simp [Places.unlist, hq]

include hne

omit hr in
theorem unlist_hands : (P.unlist c r b).HandLaw σ := by
  have hrs := L.live_of_holders hne
  obtain ⟨hlabel, hseat, hpoint, hfanout, honce⟩ := L.hands
  refine ⟨hlabel, hseat, fun q j r' k t d hg => ?_, hfanout, fun q j r' k t q' j' k' t' hg hg' => ?_⟩
  all_goals
    simp only [Places.unlist, Function.update_apply] at *
    grind

omit hr in
theorem unlist_heldBy : (P.unlist c r b).HeldLaw := by
  obtain ⟨dnodup, dunlisted, dlive, dgripped, dapart⟩ := L.heldBy
  refine ⟨dnodup, fun q => ?_, fun q a ha => ?_, dgripped, fun q a ha => ?_⟩
  all_goals
    simp only [Places.unlist, Function.update_apply] at *
    grind

omit hr hne in
theorem unlist_pends : (P.unlist c r b).PendLaw σ := by
  obtain ⟨pnodup, plisted, pseat⟩ := L.pends
  refine ⟨fun q => ?_, fun q => ?_, fun q a ha => ?_⟩
  all_goals
    simp only [Places.unlist, Function.update_apply] at *
    grind

omit hne in
theorem unlist_placed : (P.unlist c r b).PlaceLaw := by
  have hrc := L.lists.of c r hr
  obtain ⟨slisted, sgripped, ssettled, sfree⟩ := L.placed
  refine ⟨fun q hq => ?_, fun q hq => ?_, fun q hq => ?_, fun q hq => ?_⟩
  all_goals
    simp only [Places.unlist, Function.update_apply] at *
    grind

omit hne in
theorem unlist_deep : (P.unlist c r b).DeepLaw := by
  have hlen := length_filter_ne_lt hr
  refine ⟨fun d hd => ?_, L.deep.purging⟩
  have := L.deep.opened d hd
  simp only [Places.unlist, Function.update_apply] at *
  grind

theorem Laws.unlist : (P.unlist c r b).Laws σ :=
  { L with
    lists := unlist_lists L hr b
    hands := unlist_hands L hne b
    heldBy := unlist_heldBy L hne b
    pends := unlist_pends L b
    placed := unlist_placed L hr b
    deep := unlist_deep L hr b }

end

end Sys2Proof.Machine.Places
end

section
/-! SUPPORT. The moves of channels, attachments and new records between the places (O60). -/

namespace Sys2Proof.Machine.Places

variable {σ : Seating} {P : Places}

/-! ## A list that is doomed -/

/-- The records of a channel's list are doomed, and the channel is PURGING or CLOSING (R23, R41, R45). -/
def doom (P : Places) (c : ChanId) (x : ChanState) (b : Bool) (w : List (ChanId × Bool)) : Places :=
  { P with
    state := Function.update P.state c x
    held := Function.update P.held c b
    stands := fun r => if r ∈ P.list c then .doomed else P.stands r
    pending := fun r => if r ∈ P.list c then [] else P.pending r
    work := w }

section
variable (L : P.Core σ) {c : ChanId} {x : ChanState} {b : Bool} {w : List (ChanId × Bool)}
include L

theorem Core.only_listed {r : RecId} {c d : ChanId} (hc : r ∈ P.list c) (hd : r ∈ P.list d) : d = c :=
  Option.some.inj ((L.lists.of d r hd).symm.trans (L.lists.of c r hc))

theorem Core.stands_of_list {r : RecId} {c : ChanId} (hr : r ∈ P.list c) :
    P.stands r = .queued ∨ P.stands r = .listed ∨ P.stands r = .doomed := by
  rw [L.lists.suit c r hr]
  unfold standing
  split <;> simp

variable (hx : x = .purging ∨ x = .closing)

include hx in
theorem doom_lists : (P.doom c x b w).ListLaw := by
  have hsuit : ∀ k, standing x k = .doomed := by
    rcases hx with rfl | rfl <;> intro k <;> rfl
  refine ⟨L.lists.nodup, L.lists.of, fun d r hr => ?_, fun d hd => ?_⟩
  · have hrd : r ∈ P.list d := hr
    simp only [Places.doom, Function.update_apply]
    by_cases hd : d = c
    · subst hd
      rw [if_pos hrd, if_pos rfl, hsuit]
    · have hno : r ∉ P.list c := fun h => hd (L.only_listed h hrd)
      rw [if_neg hno, if_neg hd, L.lists.suit d r hrd]
  · have hfree := L.lists.free d
    simp only [Places.doom, Function.update_apply] at hd ⊢
    split_ifs at hd with h
    · rcases hx with rfl | rfl <;> exact absurd hd (by simp)
    · exact hfree hd

theorem doom_hands : (P.doom c x b w).HandLaw σ := by
  have hlist := @L.stands_of_list
  obtain ⟨hlabel, hseat, hpoint, hfanout, honce⟩ := L.hands
  refine ⟨hlabel, hseat, fun q j r' k t d hg => ?_, hfanout, fun q j r' k t q' j' k' t' hg hg' => ?_⟩
  all_goals
    simp only [Places.doom] at *
    grind

theorem doom_heldBy : (P.doom c x b w).HeldLaw := by
  obtain ⟨dnodup, dunlisted, dlive, dgripped, dapart⟩ := L.heldBy
  refine ⟨dnodup, fun q => ?_, fun q a ha => ?_, dgripped, fun q a ha => ?_⟩
  all_goals
    simp only [Places.doom] at *
    grind

theorem doom_pends : (P.doom c x b w).PendLaw σ := by
  obtain ⟨pnodup, plisted, pseat⟩ := L.pends
  refine ⟨fun q => ?_, fun q => ?_, fun q a ha => ?_⟩
  all_goals
    simp only [Places.doom] at *
    grind

theorem doom_placed : (P.doom c x b w).PlaceLaw := by
  have hlist := @L.stands_of_list
  obtain ⟨slisted, sgripped, ssettled, sfree⟩ := L.placed
  refine ⟨fun q hq => ?_, fun q hq => ?_, fun q hq => ?_, fun q hq => ?_⟩
  case refine_2 =>
    simp only [Places.doom] at hq ⊢
    split_ifs at hq
    exact sgripped q hq
  all_goals
    simp only [Places.doom] at *
    grind

variable (hc : P.state c = .opened ∨ P.state c = .purging)

include hx hc in
theorem doom_deep : (P.doom c x b w).DeepLaw := by
  obtain ⟨dopened, dpurging⟩ := L.deep
  refine ⟨fun d hd => ?_, fun d hd hdk => ?_⟩
  · have := dopened d
    simp only [Places.doom, Function.update_apply] at *
    grind
  · have h1 := dopened d
    have h2 := dpurging d
    simp only [Places.doom, Function.update_apply] at *
    grind

include hx hc in
theorem Core.doom (hseat : x = .closing → ∀ a y, σ a ≠ some (c, y)) (hw : (P.doom c x b w).WorkLaw) :
    (P.doom c x b w).Core σ :=
  { L with
    seats := by
      refine ⟨fun a d y hd => ?_, L.seats.once, L.seats.suits⟩
      have := L.seats.opens a d y hd
      simp only [Places.doom, Function.update_apply]
      split_ifs with hdc
      · rcases hx with rfl | rfl
        · exact Or.inr rfl
        · exact absurd (hdc ▸ hd) (hseat rfl a y)
      · exact this
    works := hw
    lists := doom_lists L hx
    hands := doom_hands L
    heldBy := doom_heldBy L
    pends := doom_pends L
    placed := doom_placed L
    deep := doom_deep L hx hc }

end

/-! ## The work queue -/

section
variable {state : ChanId → ChanState} {work : List (ChanId × Bool)} (L : Works state work) {c : ChanId}
include L

/-- A channel that becomes PURGING or CLOSING joins the tail. -/
theorem Works.join {x : ChanState} {b : Bool} (hc : state c ≠ .purging ∧ state c ≠ .closing)
    (hx : x = .purging ∧ b = true ∨ x = .closing ∧ b = false) :
    Works (Function.update state c x) (work ++ [(c, b)]) := by
  have hno : c ∉ work.map Prod.fst := fun h => by
    rcases (L.busy c).mpr h with h | h
    · exact hc.1 h
    · exact hc.2 h
  refine ⟨?_, fun d => ?_, fun d y hd => ?_⟩
  · rw [List.map_append]
    exact List.Nodup.append L.nodup (List.nodup_singleton c) (fun d hd hdc => by
      rw [List.map_cons, List.map_nil, List.mem_singleton] at hdc
      exact hno ((show d = c from hdc) ▸ hd))
  · rw [Function.update_apply, List.map_append, List.mem_append, List.map_cons, List.map_nil, List.mem_singleton, ← L.busy d]
    by_cases hd : d = c
    · rcases hx with ⟨rfl, -⟩ | ⟨rfl, -⟩ <;> simp [hd]
    · simp [hd]
  · rw [Function.update_apply]
    rcases List.mem_append.mp hd with h | h
    · have hdc : d ≠ c := fun e => hno (e ▸ List.mem_map_of_mem (f := Prod.fst) h)
      rw [if_neg hdc]
      exact L.counted d y h
    · rw [List.mem_singleton, Prod.mk.injEq] at h
      obtain ⟨rfl, rfl⟩ := h
      rw [if_pos rfl]
      rcases hx with ⟨rfl, rfl⟩ | ⟨rfl, rfl⟩ <;> simp

/-- A PURGING channel that becomes CLOSING keeps its place and loses its count. -/
theorem Works.recount (hc : state c = .purging) : Works (Function.update state c .closing)
    (work.map (fun e => if e.1 = c then (e.1, false) else e)) := by
  have hmap : (work.map (fun e => if e.1 = c then (e.1, false) else e)).map Prod.fst = work.map Prod.fst := by
    rw [List.map_map]
    refine List.map_congr_left (fun e _ => ?_)
    rw [Function.comp_apply]
    split_ifs <;> rfl
  refine ⟨hmap ▸ L.nodup, fun d => ?_, fun d y hd => ?_⟩
  · rw [hmap, ← L.busy d, Function.update_apply]
    by_cases hd : d = c
    · simp [hd, hc]
    · simp [hd]
  · obtain ⟨⟨d', y'⟩, he, hd⟩ := List.mem_map.mp hd
    rw [Function.update_apply]
    by_cases hdc : d' = c
    · simp only [if_pos hdc, Prod.mk.injEq] at hd
      obtain ⟨rfl, rfl⟩ := hd
      simp [hdc]
    · simp only [if_neg hdc, Prod.mk.injEq] at hd
      obtain ⟨rfl, rfl⟩ := hd
      rw [if_neg hdc]
      exact L.counted d' y' he

/-- The entry of a channel that leaves the queue. -/
theorem Works.leave {x : ChanState} (hx : x ≠ .purging ∧ x ≠ .closing) :
    Works (Function.update state c x) (work.filter (fun e => e.1 != c)) := by
  have hmem : ∀ d, d ∈ (work.filter (fun e => e.1 != c)).map Prod.fst ↔ d ∈ work.map Prod.fst ∧ d ≠ c := by
    intro d
    simp only [List.mem_map, List.mem_filter, bne_iff_ne]
    constructor
    · rintro ⟨e, ⟨he, hec⟩, rfl⟩
      exact ⟨⟨e, he, rfl⟩, hec⟩
    · rintro ⟨⟨e, he, rfl⟩, hec⟩
      exact ⟨e, ⟨he, hec⟩, rfl⟩
  refine ⟨L.nodup.sublist (List.filter_sublist.map _), fun d => ?_, fun d y hd => ?_⟩
  · rw [hmem, ← L.busy d, Function.update_apply]
    by_cases hd : d = c
    · simp [hd, hx.1, hx.2]
    · simp [hd]
  · obtain ⟨he, hdc⟩ := List.mem_filter.mp hd
    have hdc : d ≠ c := by simpa using hdc
    rw [Function.update_apply, if_neg hdc]
    exact L.counted d y he

/-- The queue without its head, which is the entry of the channel. -/
theorem Works.tail_eq {b : Bool} {rest : List (ChanId × Bool)} (hw : work = (c, b) :: rest) :
    work.filter (fun e => e.1 != c) = rest := by
  have hn := L.nodup
  rw [hw, List.map_cons, List.nodup_cons] at hn
  have hout : ∀ e ∈ rest, (e.1 != c) = true := fun e he => by
    simpa using fun hec : e.1 = c => hn.1 (by
      have h : e.1 ∈ rest.map Prod.fst := List.mem_map_of_mem he
      exact hec ▸ h)
  rw [hw, List.filter_cons_of_neg (by simp), List.filter_eq_self.mpr hout]

end

/-! ## A channel that is freed, made, or done with its purge -/

/-- A channel takes new values, its list and its waiter list empty (R15, R22, R43). -/
def renew (P : Places) (c : ChanId) (x : ChanState) (k : Kind) (n : Nat) (w : List (ChanId × Bool)) : Places :=
  { P with
    state := Function.update P.state c x
    kind := Function.update P.kind c k
    depth := Function.update P.depth c n
    list := Function.update P.list c []
    waiters := Function.update P.waiters c []
    held := Function.update P.held c false
    work := w }

section
variable (L : P.Core σ) {c : ChanId} (hno : ∀ a y, σ a ≠ some (c, y))
include L hno

theorem Core.waiters_of_unseated : P.waiters c = [] := by
  refine List.eq_nil_iff_forall_not_mem.mpr (fun p hp => ?_)
  obtain ⟨h, i, y, -, hy⟩ := L.waits.waits c p hp
  exact hno _ _ hy

theorem Core.not_in_hand_of_unseated {p : Port} {i : Slot} {r : RecId} {h : Handle} {t : Ticket}
    (hg : P.hand p i = some (r, h, t)) : P.channel r ≠ some c := by
  obtain ⟨d, y, hd, hy⟩ := L.hands.seat p i r h t hg
  intro hc
  obtain rfl := Option.some.inj (hd.symm.trans hc)
  exact hno _ _ hy

theorem Core.handCount_of_unseated : handCount P.channel P.hand c = 0 := by
  refine Finset.sum_eq_zero (fun x _ => if_neg (fun hx => ?_))
  obtain ⟨⟨r, h, t⟩, hg, hc⟩ := Option.bind_eq_some_iff.mp hx
  exact L.not_in_hand_of_unseated hno hg hc

variable (hlist : P.list c = []) {x : ChanState} {k : Kind} {n : Nat} {w : List (ChanId × Bool)}
include hlist

theorem Core.renew (hw : (P.renew c x k n w).WorkLaw) : (P.renew c x k n w).Core σ := by
  have hlist' : (P.renew c x k n w).list = P.list := by
    funext d
    simp only [Places.renew, Function.update_apply]
    split_ifs with hd
    · rw [hd, hlist]
    · rfl
  have hwaiters' : (P.renew c x k n w).waiters = P.waiters := by
    funext d
    simp only [Places.renew, Function.update_apply]
    split_ifs with hd
    · rw [hd, L.waiters_of_unseated hno]
    · rfl
  have hcount := L.handCount_of_unseated hno
  have hother : ∀ d, d ≠ c → (P.renew c x k n w).state d = P.state d ∧ (P.renew c x k n w).kind d = P.kind d ∧
      (P.renew c x k n w).depth d = P.depth d := fun d hd => by simp [Places.renew, hd]
  refine { L with
    seats := ⟨fun a d y hd => ?_, L.seats.once, fun a d y hd => ?_⟩
    waits := by
      show Waits σ (P.renew c x k n w).waiters P.reserved P.wait
      rw [hwaiters']
      exact L.waits
    works := hw
    lists := ⟨hlist' ▸ L.lists.nodup, hlist' ▸ L.lists.of, fun d r hr => ?_, fun d hd => ?_⟩
    hands := ⟨L.hands.label, L.hands.seat, fun q j r h t d hg hd hk => ?_, fun q j r h t d hg hd hk => ?_, L.hands.once⟩
    placed := ⟨hlist' ▸ L.placed.listed, L.placed.gripped, L.placed.settled, L.placed.free⟩
    deep := ⟨fun d hd => ?_, fun d hd hdk => ?_⟩ }
  · have hdc : d ≠ c := fun e => hno a y (e ▸ hd)
    rw [(hother d hdc).1]
    exact L.seats.opens a d y hd
  · have hdc : d ≠ c := fun e => hno a y (e ▸ hd)
    rw [(hother d hdc).2.1]
    exact L.seats.suits a d y hd
  · rw [hlist'] at hr
    have hdc : d ≠ c := by
      rintro rfl
      simp [hlist] at hr
    rw [(hother d hdc).1, (hother d hdc).2.1]
    exact L.lists.suit d r hr
  · rw [hlist']
    by_cases hdc : d = c
    · rw [hdc, hlist]
    · exact L.lists.free d ((hother d hdc).1 ▸ hd)
  · have hdc : d ≠ c := fun e => L.not_in_hand_of_unseated hno hg (e ▸ hd)
    exact L.hands.point q j r h t d hg hd ((hother d hdc).2.1 ▸ hk)
  · have hdc : d ≠ c := fun e => L.not_in_hand_of_unseated hno hg (e ▸ hd)
    exact L.hands.fanout q j r h t d hg hd ((hother d hdc).2.1 ▸ hk)
  · show ((P.renew c x k n w).list d).length + (if _ then handCount P.channel P.hand d else 0) ≤ _
    rw [hlist']
    by_cases hdc : d = c
    · simp [hdc, hlist, hcount]
    · obtain ⟨h1, h2, h3⟩ := hother d hdc
      rw [h2, h3]
      exact L.deep.opened d (h1 ▸ hd)
  · show handCount P.channel P.hand d ≤ _
    by_cases hdc : d = c
    · simp [hdc, hcount]
    · obtain ⟨h1, h2, h3⟩ := hother d hdc
      rw [h3]
      exact L.deep.purging d (h1 ▸ hd) (h2 ▸ hdk)

end

/-- A PURGING channel whose list is empty is OPEN again (R43). -/
theorem Laws.reopen (L : P.Laws σ) {c : ChanId} (hc : P.state c = .purging) (hlist : P.list c = [])
    {w : List (ChanId × Bool)} (hw : Works (Function.update P.state c .opened) w) :
    ({ P with state := Function.update P.state c .opened, work := w } : Places).Laws σ := by
  refine { L with
    seats := ⟨fun a d y hd => ?_, L.seats.once, L.seats.suits⟩
    seated := fun d hd => ?_
    works := hw
    lists := ⟨L.lists.nodup, L.lists.of, fun d r hr => ?_, fun d hd => ?_⟩
    deep := ⟨fun d hd => ?_, fun d hd hdk => ?_⟩ }
  · have := L.seats.opens a d y hd
    simp only [Function.update_apply]
    grind
  · have hdc : d ≠ c := by
      rintro rfl
      simp [hlist] at hr
    simp only [Function.update_apply, if_neg hdc]
    exact L.lists.suit d r hr
  · have := L.lists.free d
    simp only [Function.update_apply] at hd
    grind
  · have h1 := L.deep.opened d
    have h2 := L.deep.purging d
    simp only [Function.update_apply] at hd ⊢
    grind
  · have := L.deep.purging d
    simp only [Function.update_apply] at hd
    grind
  · refine L.seated d ?_
    simp only [Function.update_apply] at hd
    grind

end Sys2Proof.Machine.Places
end

section
/-! SUPPORT. The moves of attachments and new records between the places, and what keeps the waits quiet (O60). -/

namespace Sys2Proof.Machine.Places

variable {σ : Seating} {P : Places}

/-! ## Attachments that come and go -/

section
variable (L : P.Core σ) {p : Port} {h : Handle} (hfree : σ ⟨p, h⟩ = none)
include L hfree

theorem Core.not_gripped_of_free {i : Slot} {r : RecId} {t : Ticket} : P.hand p i ≠ some (r, h, t) := by
  intro hg
  obtain ⟨c, x, -, hx⟩ := L.hands.seat p i r h t hg
  simp [hfree] at hx

theorem Core.not_holder_of_free (r : RecId) : ⟨p, h⟩ ∉ P.holders r := by
  intro hr
  obtain ⟨i, t, hg⟩ := L.heldBy.gripped r _ hr
  exact L.not_gripped_of_free hfree hg

theorem Core.not_pending_of_free (r : RecId) : ⟨p, h⟩ ∉ P.pending r := by
  intro hr
  obtain ⟨c, hc, -⟩ := L.pends.seat r _ hr
  simp [hfree] at hc

theorem Core.not_waiting_of_free {i : Slot} : P.wait p ≠ some (h, i) := by
  intro hw
  obtain ⟨c, x, hx, -⟩ := L.waits.listed p h i hw
  simp [hfree] at hx

/-- An attachment comes (R15, R17): to a channel in use, in a role that its port does not have there. -/
theorem Core.seat {c : ChanId} {x : Role} (hc : P.state c = .opened ∨ P.state c = .purging)
    (hx : roleSuits x (P.kind c) = true) (hone : ∀ k, σ ⟨p, k⟩ ≠ some (c, x)) :
    P.Core (Function.update σ ⟨p, h⟩ (some (c, x))) := by
  have hkeep : ∀ a y, σ a = some y → Function.update σ ⟨p, h⟩ (some (c, x)) a = some y := by
    intro a y ha
    have hne : a ≠ ⟨p, h⟩ := by
      rintro rfl
      simp [hfree] at ha
    rw [Function.update_apply, if_neg hne, ha]
  refine { L with
    seats := ⟨fun a d y ha => ?_, fun q j k y hj hk => ?_, fun a d y ha => ?_⟩
    waits := ⟨L.waits.nodup, fun d q hq => ?_, fun q k i hk => ?_, L.waits.slot⟩
    hands := ⟨L.hands.label, fun q i r k t hg => ?_, fun q i r k t d hg hd hk => ?_, fun q i r k t d hg hd hk => ?_, L.hands.once⟩
    pends := ⟨L.pends.nodup, L.pends.listed, fun r a ha => ?_⟩ }
  · rw [Function.update_apply] at ha
    split_ifs at ha
    · rw [Option.some.injEq, Prod.mk.injEq] at ha
      exact ha.1 ▸ hc
    · exact L.seats.opens a d y ha
  · have honce := L.seats.once q j k y
    simp only [Function.update_apply, AttRef.mk.injEq] at hj hk
    grind
  · rw [Function.update_apply] at ha
    split_ifs at ha
    · rw [Option.some.injEq, Prod.mk.injEq] at ha
      rw [← ha.1, ← ha.2]
      exact hx
    · exact L.seats.suits a d y ha
  · obtain ⟨k, i, y, hk, hy⟩ := L.waits.waits d q hq
    exact ⟨k, i, y, hk, hkeep _ _ hy⟩
  · obtain ⟨d, y, hy, hne, hin⟩ := L.waits.listed q k i hk
    exact ⟨d, y, hkeep _ _ hy, hne, hin⟩
  · obtain ⟨d, y, hd, hy⟩ := L.hands.seat q i r k t hg
    exact ⟨d, y, hd, hkeep _ _ hy⟩
  · exact ⟨hkeep _ _ (L.hands.point q i r k t d hg hd hk).1, (L.hands.point q i r k t d hg hd hk).2⟩
  · exact ⟨hkeep _ _ (L.hands.fanout q i r k t d hg hd hk).1, (L.hands.fanout q i r k t d hg hd hk).2⟩
  · obtain ⟨d, hd, hrd⟩ := L.pends.seat r a ha
    exact ⟨d, hkeep _ _ hd, hrd⟩

end

/-- A new subscriber joins the pending sets of the LISTED records of its channel (R117). -/
def replay (P : Places) (c : ChanId) (a : AttRef) : Places :=
  { P with pending := fun r => if r ∈ P.list c ∧ P.stands r = .listed then insertRef a (P.pending r) else P.pending r }

theorem Core.replay (L : P.Core σ) {c : ChanId} {a : AttRef} (ha : σ a = some (c, .subscriber))
    (hpend : ∀ r, a ∉ P.pending r) (hhold : ∀ r, a ∉ P.holders r) : (P.replay c a).Core σ := by
  refine { L with
    heldBy := ⟨L.heldBy.nodup, L.heldBy.unlisted, L.heldBy.live, L.heldBy.gripped, fun r b hb => ?_⟩
    pends := ⟨fun r => ?_, fun r => ?_, fun r b hb => ?_⟩ }
  all_goals simp only [Places.replay] at *
  · have hapart := L.heldBy.apart r b hb
    split_ifs
    · rw [mem_insertRef]
      rintro (rfl | hin)
      · exact hhold r hb
      · exact hapart hin
    · exact hapart
  · split_ifs
    · exact nodup_insertRef (L.pends.nodup r) (hpend r)
    · exact L.pends.nodup r
  · split_ifs with hr
    · exact ⟨fun _ => hr.2, fun _ => insertRef_ne_nil a _⟩
    · exact L.pends.listed r
  · split_ifs at hb with hr
    · rcases (mem_insertRef _ _ _).mp hb with rfl | hin
      · exact ⟨c, ha, L.lists.of c r hr.1⟩
      · exact L.pends.seat r b hin
    · exact L.pends.seat r b hb

/-- An attachment goes that holds nothing and awaits nothing (R18). -/
theorem Core.unseat (L : P.Core σ) {p : Port} {h : Handle} (hhand : ∀ i r t, P.hand p i ≠ some (r, h, t))
    (hwait : ∀ i, P.wait p ≠ some (h, i)) (hpend : ∀ r, ⟨p, h⟩ ∉ P.pending r) : P.Core (Function.update σ ⟨p, h⟩ none) := by
  have hkeep : ∀ q k y, (⟨q, k⟩ : AttRef) ≠ ⟨p, h⟩ → σ ⟨q, k⟩ = some y → Function.update σ ⟨p, h⟩ none ⟨q, k⟩ = some y := by
    intro q k y hne hy
    rw [Function.update_apply, if_neg hne, hy]
  have hback : ∀ a y, Function.update σ ⟨p, h⟩ none a = some y → σ a = some y := by
    intro a y ha
    rw [Function.update_apply] at ha
    split_ifs at ha
    exact ha
  refine { L with
    seats := ⟨fun a d y ha => L.seats.opens a d y (hback _ _ ha), fun q j k y hj hk => L.seats.once q j k y (hback _ _ hj)
      (hback _ _ hk), fun a d y ha => L.seats.suits a d y (hback _ _ ha)⟩
    waits := ⟨L.waits.nodup, fun d q hq => ?_, fun q k i hk => ?_, L.waits.slot⟩
    hands := ⟨L.hands.label, fun q i r k t hg => ?_, fun q i r k t d hg hd hk => ?_, fun q i r k t d hg hd hk => ?_, L.hands.once⟩
    pends := ⟨L.pends.nodup, L.pends.listed, fun r a ha => ?_⟩ }
  · obtain ⟨k, i, y, hk, hy⟩ := L.waits.waits d q hq
    exact ⟨k, i, y, hk, hkeep q k _ (by grind) hy⟩
  · obtain ⟨d, y, hy, hne, hin⟩ := L.waits.listed q k i hk
    exact ⟨d, y, hkeep q k _ (by grind) hy, hne, hin⟩
  · obtain ⟨d, y, hd, hy⟩ := L.hands.seat q i r k t hg
    exact ⟨d, y, hd, hkeep q k _ (by grind) hy⟩
  · exact ⟨hkeep q k _ (by grind) (L.hands.point q i r k t d hg hd hk).1, (L.hands.point q i r k t d hg hd hk).2⟩
  · exact ⟨hkeep q k _ (by grind) (L.hands.fanout q i r k t d hg hd hk).1, (L.hands.fanout q i r k t d hg hd hk).2⟩
  · obtain ⟨q, k⟩ := a
    obtain ⟨d, hd, hrd⟩ := L.pends.seat r _ ha
    exact ⟨d, hkeep q k _ (by grind) hd, hrd⟩

/-! ## A new record -/

/-- A post appends its record to the list (R57, R58). -/
def add (P : Places) (c : ChanId) (r : RecId) (t : Ticket) (x : RecState) (l : List AttRef) : Places :=
  { P with
    list := Function.update P.list c (P.list c ++ [r])
    stands := Function.update P.stands r x
    ticket := Function.update P.ticket r t
    channel := Function.update P.channel r (some c)
    pending := Function.update P.pending r l
    holders := Function.update P.holders r []
    receipted := Function.update P.receipted r false }

theorem Core.channel_of_free (L : P.Core σ) {r : RecId} (hr : P.stands r = .free) : P.channel r = none :=
  (L.placed.free r hr).1

theorem Core.not_listed_of_free (L : P.Core σ) {r : RecId} (hr : P.stands r = .free) (d : ChanId) : r ∉ P.list d := by
  intro h
  have := L.lists.of d r h
  simp [L.channel_of_free hr] at this

theorem Core.not_in_hand_of_free (L : P.Core σ) {r : RecId} (hr : P.stands r = .free) {q : Port} {j : Slot} {k : Handle}
    {v : Ticket} : P.hand q j ≠ some (r, k, v) := by
  intro h
  obtain ⟨d, y, hd, -⟩ := L.hands.seat q j r k v h
  simp [L.channel_of_free hr] at hd

section
variable (L : P.Laws σ) {c : ChanId} {r : RecId} {t : Ticket} {x : RecState} {l : List AttRef} (hr : P.stands r = .free)
  (ho : P.state c = .opened) (hx : x = standing .opened (P.kind c)) (hl : l.Nodup) (hlx : l ≠ [] ↔ x = .listed)
  (hseat : ∀ a ∈ l, σ a = some (c, .subscriber))
  (hdepth : (P.list c).length + (if P.kind c = .point then handCount P.channel P.hand c else 0) < P.depth c)
include L hr

include ho hx in
theorem add_lists : (P.add c r t x l).ListLaw := by
  have hno := L.not_listed_of_free hr
  obtain ⟨lnodup, lof, lsuit, lfree⟩ := L.lists
  refine ⟨fun d => ?nodup, fun d q hq => ?_, fun d q hq => ?_, fun d hd => ?_⟩
  all_goals simp only [Places.add, Function.update_apply] at *
  case nodup =>
    split_ifs
    · refine List.Nodup.append (lnodup c) (List.nodup_singleton r) (fun q hq hqr => ?_)
      exact hno c (List.mem_singleton.mp hqr ▸ hq)
    · exact lnodup d
  all_goals grind

theorem add_hands : (P.add c r t x l).HandLaw σ := by
  have hno : ∀ q j k v, P.hand q j ≠ some (r, k, v) := fun q j k v => L.not_in_hand_of_free hr
  obtain ⟨hlabel, hseat, hpoint, hfanout, honce⟩ := L.hands
  refine ⟨fun q j r' k t hg => ?_, fun q j r' k t hg => ?_, fun q j r' k t d hg => ?_, fun q j r' k t d hg => ?_,
      fun q j r' k t q' j' k' t' hg hg' => ?_⟩
  all_goals
    have hg : P.hand q j = some (r', k, _) := hg
    have hqr : r' ≠ r := by
      rintro rfl
      exact hno _ _ _ _ hg
    simp only [Places.add, Function.update_apply, if_neg hqr]
  · exact hlabel q j r' k t hg
  · exact hseat q j r' k t hg
  · exact hpoint q j r' k t d hg
  · exact hfanout q j r' k t d hg
  · exact honce q j r' k t q' j' k' t' hg hg'

omit hr in
include hx in
theorem add_heldBy : (P.add c r t x l).HeldLaw := by
  have hxs : x ≠ .unlisted := by rw [hx]; cases P.kind c <;> simp [standing]
  obtain ⟨dnodup, dunlisted, dlive, dgripped, dapart⟩ := L.heldBy
  refine ⟨fun q => ?_, fun q => ?_, fun q a ha => ?_, fun q a ha => ?_, fun q a ha => ?_⟩
  all_goals
    simp only [Places.add, Function.update_apply] at *
    grind

omit hr in
include hl hlx hseat in
theorem add_pends : (P.add c r t x l).PendLaw σ := by
  obtain ⟨pnodup, plisted, pseat⟩ := L.pends
  refine ⟨fun q => ?_, fun q => ?_, fun q a ha => ?_⟩
  all_goals
    simp only [Places.add, Function.update_apply] at *
    grind

include hx in
theorem add_placed : (P.add c r t x l).PlaceLaw := by
  have hxs : x = .queued ∨ x = .listed := by rw [hx]; cases P.kind c <;> simp [standing]
  have hno := L.not_listed_of_free hr
  obtain ⟨slisted, sgripped, ssettled, sfree⟩ := L.placed
  refine ⟨fun q hq => ?listed, fun q hq => ?gripped, fun q hq => ?_, fun q hq => ?_⟩
  all_goals simp only [Places.add, Function.update_apply] at *
  case listed =>
    by_cases hqr : q = r
    · exact ⟨c, if_pos hqr, by simp [hqr]⟩
    · obtain ⟨d, hd, hin⟩ := slisted q (by simpa [hqr] using hq)
      exact ⟨d, (if_neg hqr).trans hd, by grind⟩
  case gripped => exact sgripped q (by grind)
  all_goals grind

include hdepth in
theorem add_deep : (P.add c r t x l).DeepLaw := by
  have hcount : ∀ d, handCount (P.add c r t x l).channel (P.add c r t x l).hand d ≤ handCount P.channel P.hand d := by
    refine fun d => handCount_le (fun y hy => ?_)
    obtain ⟨⟨q, k, v⟩, hg, hc⟩ := Option.bind_eq_some_iff.mp hy
    have hqr : q ≠ r := by
      rintro rfl
      exact L.not_in_hand_of_free hr hg
    simp only [Places.add, Function.update_apply, if_neg hqr] at hc
    exact Option.bind_eq_some_iff.mpr ⟨_, hg, hc⟩
  refine ⟨fun d hd => ?_, fun d hd hdk => (hcount d).trans (L.deep.purging d hd hdk)⟩
  have h1 := hcount d
  have h2 := L.deep.opened d hd
  simp only [Places.add, Function.update_apply] at *
  grind

include ho hx hl hlx hseat hdepth in
theorem Laws.add : (P.add c r t x l).Laws σ :=
  { L with
    lists := add_lists L hr ho hx
    hands := add_hands L hr
    heldBy := add_heldBy L hx
    pends := add_pends L hl hlx hseat
    placed := add_placed L hr hx
    deep := add_deep L hr hdepth }

end

/-! ## Quiet waits -/

/-- From `P` to `Q` nothing joins a list, a waiter list or a pending set of a channel. -/
structure Calmer (P Q : Places) (c : ChanId) : Prop where
  state : Q.state c = .opened → P.state c = .opened
  kind : Q.state c = .opened → Q.kind c = P.kind c
  held : Q.held c = false → P.held c = false
  list : ∀ r ∈ Q.list c, r ∈ P.list c
  waiters : ∀ p ∈ Q.waiters c, p ∈ P.waiters c ∧ Q.wait p = P.wait p
  pending : ∀ r ∈ Q.list c, ∀ a ∈ Q.pending r, a ∈ P.pending r

theorem Quiet.calmer {P Q : Places} {c : ChanId} (H : P.Quiet c) (C : Calmer P Q c) : Q.Quiet c := by
  refine ⟨fun ho hk hh => ?_, fun ho hk hh p hp h i hw r hr hpend => ?_⟩
  · have hk := (C.kind ho).symm.trans hk
    rcases H.point (C.state ho) hk (C.held hh) with h | h
    · exact Or.inl (List.eq_nil_iff_forall_not_mem.mpr (fun r hr => by simpa [h] using C.list r hr))
    · exact Or.inr (List.eq_nil_iff_forall_not_mem.mpr (fun p hp => by simpa [h] using (C.waiters p hp).1))
  · obtain ⟨hp, hpw⟩ := C.waiters p hp
    exact H.fanout (C.state ho) ((C.kind ho).symm.trans hk) (C.held hh) p hp h i (hpw ▸ hw) r (C.list r hr)
      (C.pending r hr _ hpend)

theorem Calmer.refl (P : Places) (c : ChanId) : Calmer P P c :=
  ⟨id, fun _ => rfl, id, fun _ => id, fun _ h => ⟨h, rfl⟩, fun _ _ _ => id⟩

end Sys2Proof.Machine.Places
end

section
/-! SUPPORT. What leaves everything in its place (O60): events, arrivals, counters, notices and the passing of time. -/

namespace Sys2Proof.Machine

/-- From `s` to `t` every message, take and attachment keeps its place. -/
structure Still (s t : State) : Prop where
  places : t.places = s.places
  seats : t.seats = s.seats
  tidy : s.tidy → t.tidy

theorem Still.refl (s : State) : Still s s := ⟨rfl, rfl, id⟩

theorem Still.trans {s t u : State} (h : Still s t) (g : Still t u) : Still s u :=
  ⟨g.places.trans h.places, g.seats.trans h.seats, fun hs => g.tidy (h.tidy hs)⟩

theorem Still.foldl {α : Type} {f : State → α → State} (l : List α) (h : ∀ a ∈ l, ∀ s, Still s (f s a)) (s : State) :
    Still s (l.foldl f s) := by
  induction l generalizing s with
  | nil => exact .refl s
  | cons a rest ih =>
    exact (h a (by simp) s).trans (ih (fun b hb => h b (List.mem_cons_of_mem a hb)) (f s a))

theorem Still.good {s t : State} {σ : Seating} (h : Still s t) (hs : Good σ s) : Good σ t :=
  ⟨h.places ▸ hs.laws, h.tidy hs.tidy⟩

theorem Still.fine {s t : State} {σ : Seating} (h : Still s t) (hs : Fine σ s) : Fine σ t :=
  ⟨h.good hs.good, fun c => h.places ▸ hs.quiet c⟩

theorem Still.sound {s t : State} (h : Still s t) (hs : Sound s) : Sound t := by
  show Fine t.seats t
  rw [h.seats]
  exact h.fine hs

/-! ## Parts of the state that nothing stands in -/

theorem still_of_parts {s t : State} (hports : t.ports = s.ports) (hchan : ∀ c, t.chan c = s.chan c)
    (hmsg : ∀ r, t.msg r = s.msg r) (hwork : t.reclaim = s.reclaim) : Still s t := by
  have hslot : ∀ p i, t.slot p i = s.slot p i := fun p i => by rw [State.slot, State.port, hports]; rfl
  have hport : ∀ p, t.port p = s.port p := fun p => by rw [State.port, hports]; rfl
  have hatt : ∀ a, t.att a = s.att a := fun a => by rw [State.att, hport]; rfl
  refine ⟨?_, ?_, fun ht => ⟨fun c => hchan c ▸ ht.chan c, fun r => hmsg r ▸ ht.msg r⟩⟩
  · simp only [State.places, hchan, hmsg, hslot, hport, hwork]
  · funext a
    simp only [State.seats, hatt]

theorem modPort_still (s : State) (p : Port) (f : PortState → PortState) (h : (f (s.port p)).slots = (s.port p).slots ∧
    (f (s.port p)).parked = (s.port p).parked ∧ (f (s.port p)).attachments = (s.port p).attachments) :
    Still s (s.modPort p f) := by
  have hslot : ∀ q i, (s.modPort p f).slot q i = s.slot q i := modPort_slot_of_same s p f h.1
  have hatt : ∀ a, (s.modPort p f).att a = s.att a := modPort_att_of_same s p f h.2.2
  have hparked : ∀ q, ((s.modPort p f).port q).parked = (s.port q).parked := by
    intro q
    rw [port_modPort]
    split_ifs with hq
    · rw [h.2.1, hq]
    · rfl
  refine ⟨?_, ?_, fun ht => ⟨ht.chan, ht.msg⟩⟩
  · simp only [State.places, hslot, hparked, chan_modPort, msg_modPort, reclaim_modPort]
  · funext a
    simp only [State.seats, hatt]

theorem setAtt_still (s : State) (a : AttRef) (x : Option Attachment)
    (h : x.map (fun u => (u.channel, u.role)) = (s.att a).map (fun u => (u.channel, u.role))) : Still s (s.setAtt a x) := by
  have hparked : ∀ q, ((s.setAtt a x).port q).parked = (s.port q).parked := (setAtt_sameStores s a x).parked
  refine ⟨?_, ?_, fun ht => ⟨ht.chan, ht.msg⟩⟩
  · simp only [State.places, slot_setAtt, hparked, chan_setAtt, msg_setAtt, reclaim_setAtt]
  · funext b
    simp only [State.seats, att_setAtt]
    split_ifs with hb
    · rw [h, hb]
    · rfl

theorem modAtt_still (s : State) (a : AttRef) (f : Attachment → Attachment)
    (h : ∀ u, (f u).channel = u.channel ∧ (f u).role = u.role) : Still s (s.modAtt a f) := by
  refine setAtt_still s a _ ?_
  rw [Option.map_map]
  refine congrArg (fun g => (s.att a).map g) (funext fun u => ?_)
  simp [h u]

/-- What of a channel the laws of the places speak of. -/
def Channel.place (ch : Channel) : ChanState × Kind × Nat × List RecId × List Port × Bool :=
  (ch.state, ch.kind, ch.depthLimit, ch.list, ch.waiters, ch.held)

theorem modChan_still (s : State) (c : ChanId) (f : Channel → Channel) (h : (f (s.chan c)).place = (s.chan c).place)
    (hc : (s.chan c).state ≠ .free) : Still s (s.modChan c f) := by
  have hchan : ∀ d, ((s.modChan c f).chan d).place = (s.chan d).place := by
    intro d
    rw [chan_modChan]
    split_ifs with hd
    · rw [h, hd]
    · rfl
  simp only [Channel.place, Prod.mk.injEq] at hchan
  refine ⟨?_, ?_, fun ht => ⟨fun d hd => ?_, ht.msg⟩⟩
  · simp only [State.places, hchan, slot_modChan, msg_modChan, port_modChan, reclaim_modChan]
  · funext a
    simp only [State.seats, att_modChan]
  · have hstate := (hchan d).1
    have hdc : d ≠ c := by
      rintro rfl
      exact hc (hstate.symm.trans hd)
    rw [chan_modChan_of_ne s hdc] at hd ⊢
    exact ht.chan d hd

/-- What of a record the laws of the places speak of. -/
def MsgRecord.place (m : MsgRecord) : RecState × Ticket × Option ChanId × List AttRef × List AttRef × Bool :=
  (m.state, m.ticket, m.channel, m.pending, m.holders, m.receipted)

theorem modMsg_still (s : State) (r : RecId) (f : MsgRecord → MsgRecord) (h : (f (s.msg r)).place = (s.msg r).place)
    (hr : (s.msg r).state ≠ .free ∨ f (s.msg r) = s.msg r) : Still s (s.modMsg r f) := by
  have hmsg : ∀ q, ((s.modMsg r f).msg q).place = (s.msg q).place := by
    intro q
    rw [msg_modMsg]
    split_ifs with hq
    · rw [h, hq]
    · rfl
  simp only [MsgRecord.place, Prod.mk.injEq] at hmsg
  refine ⟨?_, ?_, fun ht => ⟨ht.chan, fun q hq => ?_⟩⟩
  · simp only [State.places, hmsg, slot_modMsg, chan_modMsg, port_modMsg, reclaim_modMsg]
  · funext a
    simp only [State.seats, att_modMsg]
  · have hstate := (hmsg q).1
    rw [msg_modMsg] at hq ⊢
    split_ifs at hq ⊢ with hqr
    · subst hqr
      rcases hr with hr | hr
      · exact absurd (((msg_modMsg_self s q f) ▸ hstate).symm.trans hq) hr
      · rw [hr] at hq ⊢
        exact ht.msg q hq
    · exact ht.msg q hq

/-! ## Events, counters and arrivals -/

theorem queueEvent_still (s : State) (p : Port) (e : Event) : Still s (queueEvent s p e) :=
  modPort_still s p _ ⟨rfl, rfl, rfl⟩

theorem notifyEach_still (s : State) (refs : List AttRef) (mk : AttRef → Event) : Still s (notifyEach s refs mk) :=
  Still.foldl refs (fun a _ s => queueEvent_still s a.port (mk a)) s

theorem announce_still (s : State) (c : ChanId) (k : EventKind) : Still s (announce s c k) := notifyEach_still s _ _

theorem bump_still (s : State) {c : ChanId} (k : Counter) (hc : (s.chan c).state ≠ .free) : Still s (bump s c k) := by
  unfold bump
  dsimp only
  split
  · refine .trans ?_ (notifyEach_still _ _ _)
    exact modChan_still s c _ rfl hc
  · exact modChan_still s c _ rfl hc

theorem clearLagReported_still (s : State) (a : AttRef) : Still s (clearLagReported s a) :=
  modAtt_still s a _ (fun u => by split <;> exact ⟨rfl, rfl⟩)

theorem arrive_still (s : State) (c : ChanId) (urgent : Bool) (a : AttRef) : Still s (arrive s c urgent a) := by
  unfold arrive
  split
  · exact .refl s
  · split
    · exact .refl s
    · split
      · refine .trans ?_ (queueEvent_still _ _ _)
        exact modAtt_still s a _ (fun _ => ⟨rfl, rfl⟩)
      · exact modAtt_still s a _ (fun _ => ⟨rfl, rfl⟩)

theorem arriveAll_still (s : State) (c : ChanId) (urgent : Bool) (refs : List AttRef) : Still s (arriveAll s c urgent refs) :=
  Still.foldl refs (fun a _ s => arrive_still s c urgent a) s

theorem chargeLag_still (s : State) (c : ChanId) (a : AttRef) : Still s (chargeLag s c a) := by
  have h : ∀ n, Still s (s.modAtt a (fun t => { t with lag := n, lagReported := true })) :=
    fun n => modAtt_still s a _ (fun _ => ⟨rfl, rfl⟩)
  unfold chargeLag
  split
  · exact .refl s
  · dsimp only
    split
    · exact h _
    · exact (h _).trans (queueEvent_still _ _ _)

theorem roomCheck_still (s : State) (c : ChanId) : Still s (roomCheck s c) := by
  unfold roomCheck
  split
  · refine Still.foldl _ (fun a _ s => ?_) s
    refine .trans ?_ (queueEvent_still _ _ _)
    exact modAtt_still s a _ (fun _ => ⟨rfl, rfl⟩)
  · exact .refl s

end Sys2Proof.Machine
end

section
/-! SUPPORT. Which move each operation of the part makes (O60): frees, unlists, binds, waits and hands. -/

namespace Sys2Proof.Machine

/-- From `s` to `t` the places become `Q`, and the attachments stay. -/
structure Shift (s t : State) (Q : Places) : Prop where
  places : t.places = Q
  seats : t.seats = s.seats
  tidy : s.tidy → t.tidy

theorem Still.shift {s t : State} (h : Still s t) : Shift s t s.places := ⟨h.places, h.seats, h.tidy⟩

theorem Shift.trans {s t u : State} {Q R : Places} (h : Shift s t Q) (g : Shift t u R) : Shift s u R :=
  ⟨g.places, g.seats.trans h.seats, fun hs => g.tidy (h.tidy hs)⟩

theorem Shift.still {s t u : State} {Q : Places} (h : Shift s t Q) (g : Still t u) : Shift s u Q :=
  ⟨g.places.trans h.places, g.seats.trans h.seats, fun hs => g.tidy (h.tidy hs)⟩

theorem Still.then {s t u : State} {Q : Places} (h : Still s t) (g : Shift t u Q) : Shift s u Q := h.shift.trans g

theorem Shift.congr {s t : State} {Q R : Places} (h : Shift s t Q) (e : Q = R) : Shift s t R := e ▸ h

theorem Shift.good {s t : State} {Q : Places} {σ : Seating} (h : Shift s t Q) (hQ : Q.Laws σ) (hs : s.tidy) : Good σ t :=
  ⟨h.places.symm ▸ hQ, h.tidy hs⟩

theorem Shift.fine {s t : State} {Q : Places} {σ : Seating} (h : Shift s t Q) (hQ : Q.Laws σ) (hs : s.tidy)
    (hq : ∀ c, Q.Quiet c) : Fine σ t :=
  ⟨h.good hQ hs, fun c => h.places.symm ▸ hq c⟩

/-! ## Writes of one channel and one record -/

section
variable {s t : State} {c : ChanId} {r : RecId} {ch : Channel} {m : MsgRecord} (W : Writes c r s t ch m)
include W

theorem Writes.tidy (hch : ch.state ≠ .free) (hm : m.state = .free → m = MsgRecord.free) (hs : s.tidy) : t.tidy := by
  refine ⟨fun d hd => ?_, fun q hq => ?_⟩
  · rw [W.chan] at hd ⊢
    split_ifs at hd ⊢
    · exact absurd hd hch
    · exact hs.chan d hd
  · rw [W.msg] at hq ⊢
    split_ifs at hq ⊢
    · exact hm hq
    · exact hs.msg q hq

/-- The places after a write of one channel and one record; the hands and waits are told by other rules. -/
theorem Writes.places (hch : ch.state = (s.chan c).state ∧ ch.kind = (s.chan c).kind ∧
      ch.depthLimit = (s.chan c).depthLimit ∧ ch.held = (s.chan c).held) (hwork : t.reclaim = s.reclaim) :
    t.places = { s.places with
      list := Function.update s.places.list c ch.list
      waiters := Function.update s.places.waiters c ch.waiters
      stands := Function.update s.places.stands r m.state
      ticket := Function.update s.places.ticket r m.ticket
      channel := Function.update s.places.channel r m.channel
      pending := Function.update s.places.pending r m.pending
      holders := Function.update s.places.holders r m.holders
      receipted := Function.update s.places.receipted r m.receipted
      hand := t.places.hand
      reserved := t.places.reserved
      wait := t.places.wait } := by
  obtain ⟨h1, h2, h3, h4⟩ := hch
  have hcs := W.chan_self
  have hc : ∀ d, d ≠ c → t.chan d = s.chan d := fun d hd => (W.chan d).trans (if_neg hd)
  have hr : ∀ q, q ≠ r → t.msg q = s.msg q := fun q hq => (W.msg q).trans (if_neg hq)
  have hchan : ∀ {α : Type} (f : Channel → α), f (t.chan c) = f (s.chan c) →
      (fun d => f (t.chan d)) = fun d => f (s.chan d) :=
    fun f hf => funext fun d => by
      by_cases hd : d = c
      · rw [hd, hf]
      · rw [hc d hd]
  have hset : ∀ {α : Type} (f : Channel → α) (x : α), f (t.chan c) = x →
      (fun d => f (t.chan d)) = Function.update (fun d => f (s.chan d)) c x := fun f x hf => funext fun d => by
    rw [Function.update_apply]
    split_ifs with hd
    · rw [hd, hf]
    · rw [hc d hd]
  have hmsg : ∀ {α : Type} (f : MsgRecord → α), (fun q => f (t.msg q)) = Function.update (fun q => f (s.msg q)) r (f m) :=
    fun f => funext fun q => by
      rw [Function.update_apply]
      split_ifs with hq
      · rw [hq, W.msg_self]
      · rw [hr q hq]
  refine Places.ext ?_ ?_ ?_ ?_ ?_ ?_ ?_ ?_ ?_ ?_ ?_ ?_ rfl rfl rfl ?_
  · exact hchan Channel.state (by rw [hcs]; exact h1)
  · exact hchan Channel.kind (by rw [hcs]; exact h2)
  · exact hchan Channel.depthLimit (by rw [hcs]; exact h3)
  · exact hset Channel.list _ (by rw [hcs])
  · exact hset Channel.waiters _ (by rw [hcs])
  · exact hchan Channel.held (by rw [hcs]; exact h4)
  · exact hmsg MsgRecord.state
  · exact hmsg MsgRecord.ticket
  · exact hmsg MsgRecord.channel
  · exact hmsg MsgRecord.pending
  · exact hmsg MsgRecord.holders
  · exact hmsg MsgRecord.receipted
  · simp only [State.places, hwork]

end

theorem SameHands.places {s t : State} (h : SameHands s t) : t.places.hand = s.places.hand ∧
    t.places.reserved = s.places.reserved ∧ t.places.wait = s.places.wait := by
  refine ⟨?_, ?_, ?_⟩
  · funext p i
    simp only [State.places, h.slot]
  · funext p i
    simp only [State.places, h.slot]
  · funext p
    simp only [State.places, h.parked]

theorem SameHands.seats {s t : State} (h : SameHands s t) : t.seats = s.seats := by
  funext a
  simp only [State.seats, h.att]

namespace Places

/-- A record takes the FREE values and leaves its channel's list. -/
def freed (P : Places) (c : ChanId) (r : RecId) : Places :=
  { P with
    list := Function.update P.list c ((P.list c).filter (fun x => x != r))
    stands := Function.update P.stands r .free
    ticket := Function.update P.ticket r MsgRecord.free.ticket
    channel := Function.update P.channel r none
    pending := Function.update P.pending r []
    holders := Function.update P.holders r []
    receipted := Function.update P.receipted r false }

/-- A slot is emptied. -/
def emptied (P : Places) (p : Port) (i : Slot) : Places := { P with hand := setHand P.hand p i none }

end Places

section
variable (s : State) {c : ChanId} (r : RecId) (hc : (s.chan c).state ≠ .free)
include hc

theorem freeRecord_shift (o : MsgOutcome) (n : Nat) : Shift s (freeRecord s c r o n) (s.places.freed c r) := by
  have W := freeRecord_writes s c r o n
  have hands := freeRecord_sameHands s c r o n
  obtain ⟨h1, h2, h3⟩ := hands.places
  refine ⟨?_, hands.seats, W.tidy hc (fun _ => rfl)⟩
  rw [W.places ⟨rfl, rfl, rfl, rfl⟩ (freeRecord_calm s c r o n).reclaim, h1, h2, h3]
  exact Places.ext rfl rfl rfl rfl (Function.update_eq_self c s.places.waiters) rfl rfl rfl rfl rfl rfl rfl rfl rfl rfl rfl

theorem unlist_shift : Shift s (unlist s c r) (s.places.unlist c r (s.msg r).receipted) := by
  have W := unlist_writes s c r
  have hands : SameHands s (unlist s c r) := sameHands_of_ports rfl
  obtain ⟨h1, h2, h3⟩ := hands.places
  refine ⟨?_, hands.seats, W.tidy hc (fun h => absurd h (by simp))⟩
  rw [W.places ⟨rfl, rfl, rfl, rfl⟩ rfl, h1, h2, h3]
  exact Places.ext rfl rfl rfl rfl (Function.update_eq_self c s.places.waiters) rfl rfl
    (Function.update_eq_self r s.places.ticket) (Function.update_eq_self r s.places.channel) rfl
    (Function.update_eq_self r s.places.holders) rfl rfl rfl rfl rfl

end

theorem receipted_issue (s : State) (c : ChanId) (r : RecId) (o : MsgOutcome) (n : Nat) :
    ((issue s c r o n).msg r).receipted = true := by
  unfold issue
  split
  · next h => exact h
  · rw [msg_queueReceipt, bump_msg, msg_modMsg_self]
    split <;> rfl

theorem issue_shift (s : State) {c : ChanId} {r : RecId} (hc : (s.chan c).state ≠ .free) (hr : (s.msg r).state ≠ .free)
    (o : MsgOutcome) (n : Nat) :
    Shift s (issue s c r o n) { s.places with receipted := Function.update s.places.receipted r true } := by
  have W : Writes c r s (issue s c r o n) (s.chan c) { s.msg r with
      receipted := true, wantsReceipt := ((issue s c r o n).msg r).wantsReceipt } := by
    refine ⟨chan_issue s c r o n, fun q => ?_⟩
    rw [msg_issue]
    split_ifs
    · rw [receipted_issue]
    · rfl
  have hands := issue_sameHands s c r o n
  obtain ⟨h1, h2, h3⟩ := hands.places
  refine ⟨?_, hands.seats, W.tidy hc (fun h => absurd h hr)⟩
  rw [W.places ⟨rfl, rfl, rfl, rfl⟩ (issue_calm s c r o n).reclaim, h1, h2, h3]
  exact Places.ext rfl rfl rfl (Function.update_eq_self c s.places.list) (Function.update_eq_self c s.places.waiters) rfl
    (Function.update_eq_self r s.places.stands) (Function.update_eq_self r s.places.ticket)
    (Function.update_eq_self r s.places.channel) (Function.update_eq_self r s.places.pending)
    (Function.update_eq_self r s.places.holders) rfl rfl rfl rfl rfl

/-- A record that is unlisted with its outcome (R42, R67, R124). -/
theorem issue_unlist_shift (s : State) {c : ChanId} (r : RecId) (hc : (s.chan c).state ≠ .free) (o : MsgOutcome) (n : Nat) :
    Shift s (issue (unlist s c r) c r o n) (s.places.unlist c r true) := by
  have W := unlist_writes s c r
  have h := unlist_shift s r hc
  refine (h.trans (issue_shift (unlist s c r) (by rw [W.chan_self]; exact hc) (by rw [W.msg_self]; simp) o n)).congr ?_
  rw [h.places]
  simp only [Places.unlist, Function.update_idem]

/-! ## Slots -/

section
variable {s : State} {p : Port} {i : Slot}

theorem parked_setSlot (s : State) (p : Port) (i : Slot) (x : HandSlot) (q : Port) :
    ((s.setSlot p i x).port q).parked = (s.port q).parked := by
  rw [port_setSlot]
  split_ifs with hq
  · rw [hq]
  · rfl

theorem setSlot_shift (s : State) (p : Port) (i : Slot) (x : HandSlot) : Shift s (s.setSlot p i x) { s.places with
    hand := Places.setHand s.places.hand p i x.grip
    reserved := fun q j => if q = p ∧ j = i then x == .reserved else s.places.reserved q j } := by
  have hslot := slot_setSlot s p i x
  refine ⟨?_, ?_, fun hs => ⟨hs.chan, hs.msg⟩⟩
  · refine Places.ext rfl rfl rfl rfl rfl rfl rfl rfl rfl rfl rfl rfl ?_ ?_ ?_ rfl
    · funext q j
      show ((s.setSlot p i x).slot q j).grip = Places.setHand s.places.hand p i x.grip q j
      rw [hslot, Places.setHand]
      split_ifs <;> rfl
    · funext q j
      show ((s.setSlot p i x).slot q j == .reserved) =
        if q = p ∧ j = i then x == .reserved else s.slot q j == .reserved
      rw [hslot]
      split_ifs <;> rfl
    · funext q
      simp only [State.places, parked_setSlot]
  · funext a
    simp only [State.seats, att_setSlot]

/-- What stands in a slot that is not RESERVED is not awaited there. -/
theorem reserved_kept {x : HandSlot} (hx : (x == .reserved) = s.places.reserved p i) :
    (fun q j => if q = p ∧ j = i then x == .reserved else s.places.reserved q j) = s.places.reserved := by
  funext q j
  split_ifs with h
  · rw [h.1, h.2, hx]
  · rfl

/-- A HOLDING slot is emptied. -/
theorem empty_shift {r : RecId} {h : Handle} {t : Ticket} (hi : s.places.hand p i = some (r, h, t)) :
    Shift s (s.setSlot p i .empty) (s.places.emptied p i) := by
  obtain ⟨lease, hs⟩ := hand_eq_some_iff.mp hi
  refine (setSlot_shift s p i .empty).congr ?_
  rw [reserved_kept (x := .empty) (by simp [State.places, hs])]
  rfl

/-- A record comes into an EMPTY slot. -/
theorem fillSlot_shift (hs : s.slot p i = .empty) (r : RecId) (h : Handle) : Shift s (fillSlot s p i r h)
    { s.places with hand := Places.setHand s.places.hand p i (some (r, h, (s.msg r).ticket)) } := by
  refine (setSlot_shift s p i _).congr ?_
  rw [reserved_kept (x := .holding r h (s.msg r).ticket _) (by simp [State.places, hs])]
  rfl

end

/-! ## Waits -/

section
variable {s : State} {c : ChanId} {p : Port}

theorem parked_shift (s : State) (p : Port) (x : Option ParkedTake) : Shift s (s.modPort p (fun q => { q with parked := x }))
    { s.places with wait := Function.update s.places.wait p (x.map (fun w => (w.handle, w.slot))) } := by
  have hslot := modPort_slot_of_same s p (fun q => { q with parked := x }) rfl
  have hatt := modPort_att_of_same s p (fun q => { q with parked := x }) rfl
  refine ⟨?_, ?_, fun hs => ⟨hs.chan, hs.msg⟩⟩
  · refine Places.ext rfl rfl rfl rfl rfl rfl rfl rfl rfl rfl rfl rfl ?_ ?_ ?_ rfl
    · funext q j
      exact congrArg HandSlot.grip (hslot q j)
    · funext q j
      exact congrArg (fun y => y == HandSlot.reserved) (hslot q j)
    · funext q
      show ((s.modPort p (fun q => { q with parked := x })).port q).parked.map (fun w => (w.handle, w.slot)) =
        Function.update s.places.wait p (x.map (fun w => (w.handle, w.slot))) q
      rw [port_modPort, Function.update_apply]
      split_ifs <;> rfl
  · funext a
    simp only [State.seats, hatt]

theorem modChan_shift (s : State) (c : ChanId) (f : Channel → Channel) (hc : (s.chan c).state ≠ .free)
    (hf : (f (s.chan c)).state = (s.chan c).state ∧ (f (s.chan c)).kind = (s.chan c).kind ∧
      (f (s.chan c)).depthLimit = (s.chan c).depthLimit ∧ (f (s.chan c)).held = (s.chan c).held) :
    Shift s (s.modChan c f) { s.places with
      list := Function.update s.places.list c (f (s.chan c)).list
      waiters := Function.update s.places.waiters c (f (s.chan c)).waiters } := by
  have W := modChan_writes s c 0 f
  refine ⟨?_, rfl, fun hs => W.tidy (by rw [hf.1]; exact hc) (hs.msg 0) hs⟩
  rw [W.places hf rfl]
  exact Places.ext rfl rfl rfl rfl rfl rfl (Function.update_eq_self 0 s.places.stands)
    (Function.update_eq_self 0 s.places.ticket) (Function.update_eq_self 0 s.places.channel)
    (Function.update_eq_self 0 s.places.pending) (Function.update_eq_self 0 s.places.holders)
    (Function.update_eq_self 0 s.places.receipted) rfl rfl rfl rfl

theorem modMsg_shift (s : State) (r : RecId) (f : MsgRecord → MsgRecord)
    (hr : (f (s.msg r)).state = .free → f (s.msg r) = MsgRecord.free) : Shift s (s.modMsg r f) { s.places with
      stands := Function.update s.places.stands r (f (s.msg r)).state
      ticket := Function.update s.places.ticket r (f (s.msg r)).ticket
      channel := Function.update s.places.channel r (f (s.msg r)).channel
      pending := Function.update s.places.pending r (f (s.msg r)).pending
      holders := Function.update s.places.holders r (f (s.msg r)).holders
      receipted := Function.update s.places.receipted r (f (s.msg r)).receipted } := by
  have W := modMsg_writes s 0 r f
  refine ⟨?_, rfl, fun hs => ⟨hs.chan, fun q hq => ?_⟩⟩
  · rw [W.places ⟨rfl, rfl, rfl, rfl⟩ rfl]
    exact Places.ext rfl rfl rfl (Function.update_eq_self 0 s.places.list) (Function.update_eq_self 0 s.places.waiters) rfl
      rfl rfl rfl rfl rfl rfl rfl rfl rfl rfl
  · rw [W.msg] at hq ⊢
    split_ifs at hq ⊢
    · exact hr hq
    · exact hs.msg q hq

theorem dropParked_shift {w : ParkedTake} (hc : (s.chan c).state ≠ .free) (hw : s.slot p w.slot = .reserved) :
    Shift s (dropParked s c p w) (s.places.unpark c p w.slot) := by
  have h1 := modChan_shift s c (fun ch => { ch with waiters := ch.waiters.filter (fun x => x != p) }) hc ⟨rfl, rfl, rfl, rfl⟩
  have h2 := setSlot_shift (s.modChan c (fun ch => { ch with waiters := ch.waiters.filter (fun x => x != p) })) p w.slot .empty
  have h3 := parked_shift ((s.modChan c (fun ch => { ch with waiters := ch.waiters.filter (fun x => x != p) })).setSlot p
    w.slot .empty) p none
  refine ((h1.trans h2).trans h3).congr ?_
  rw [h2.places, h1.places]
  refine Places.ext rfl rfl rfl (Function.update_eq_self c s.places.list) rfl rfl rfl rfl rfl rfl rfl rfl ?_ rfl rfl rfl
  funext q j
  show (if q = p ∧ j = w.slot then none else s.places.hand q j) = s.places.hand q j
  split_ifs with h
  · rw [h.1, h.2]
    show none = (s.slot p w.slot).grip
    rw [hw]
    rfl
  · rfl

theorem parkTake_shift {a : AttRef} {i : Slot} (hc : (s.chan c).state ≠ .free) (hi : s.slot a.port i = .empty) (wait : Word) :
    Shift s (parkTake s c a i wait) (s.places.park c a.port a.handle i) := by
  have h1 := setSlot_shift s a.port i .reserved
  have h2 := parked_shift (s.setSlot a.port i .reserved) a.port (some ⟨a.handle, i, wait.toNat⟩)
  have h3 := modChan_shift ((s.setSlot a.port i .reserved).modPort a.port (fun q =>
    { q with parked := some ⟨a.handle, i, wait.toNat⟩ })) c (fun ch => { ch with waiters := ch.waiters ++ [a.port] }) hc
    ⟨rfl, rfl, rfl, rfl⟩
  refine ((h1.trans h2).trans h3).congr ?_
  rw [h2.places, h1.places]
  refine Places.ext rfl rfl rfl (Function.update_eq_self c s.places.list) rfl rfl rfl rfl rfl rfl rfl rfl ?_ rfl rfl rfl
  funext q j
  show (if q = a.port ∧ j = i then none else s.places.hand q j) = s.places.hand q j
  split_ifs with h
  · rw [h.1, h.2]
    show none = (s.slot a.port i).grip
    rw [hi]
    rfl
  · rfl

end

/-! ## Takes and binds -/

namespace Places

/-- A QUEUED record goes into a hand (R76). -/
def grasped (P : Places) (c : ChanId) (r : RecId) : Places :=
  { P with
    list := Function.update P.list c ((P.list c).filter (fun x => x != r))
    stands := Function.update P.stands r .inHand }

/-- A subscriber joins the holders of a LISTED record (R77). -/
def shared (P : Places) (c : ChanId) (r : RecId) (a : AttRef) : Places :=
  { P with
    list := fun d => if d = c ∧ eraseRef a (P.pending r) = [] then (P.list d).filter (fun x => x != r) else P.list d
    stands := Function.update P.stands r (if eraseRef a (P.pending r) = [] then .unlisted else .listed)
    pending := Function.update P.pending r (eraseRef a (P.pending r))
    holders := Function.update P.holders r (insertRef a (P.holders r)) }

end Places

section
variable {s : State} {c : ChanId} {r : RecId} (hc : (s.chan c).state ≠ .free)
include hc

theorem takeIntoHand_shift : Shift s (takeIntoHand s c r) (s.places.grasped c r) := by
  have h1 := modChan_shift s c (fun ch => { ch with list := ch.list.filter (fun x => x != r) }) hc ⟨rfl, rfl, rfl, rfl⟩
  have h2 := modMsg_shift (leaveList s c r) r (fun m => { m with state := .inHand, expiring := false })
    (fun h => absurd h (by simp))
  refine (h1.trans h2).congr ?_
  rw [show (leaveList s c r).places = _ from h1.places]
  exact Places.ext rfl rfl rfl rfl (Function.update_eq_self c s.places.waiters) rfl rfl
    (Function.update_eq_self r s.places.ticket) (Function.update_eq_self r s.places.channel)
    (Function.update_eq_self r s.places.pending) (Function.update_eq_self r s.places.holders)
    (Function.update_eq_self r s.places.receipted) rfl rfl rfl rfl

theorem takeByHolder_shift {a : AttRef} (hr : (s.msg r).state = .listed) :
    Shift s (takeByHolder s c r a) (s.places.shared c r a) := by
  have h1 := modMsg_shift s r (fun m => { m with
    pending := eraseRef a m.pending, holders := insertRef a m.holders, taken := min (m.taken + 1) Config.takenMax })
    (fun h => absurd (hr.symm.trans h) (by simp))
  unfold takeByHolder
  rw [settlePending_eq, msg_modMsg_self]
  dsimp only
  rw [if_neg (Places.insertRef_ne_nil a (s.msg r).holders)]
  split_ifs with hlast
  · refine (h1.trans (unlist_shift _ r hc)).congr ?_
    have hlast' : eraseRef a (s.places.pending r) = [] := hlast
    rw [h1.places, msg_modMsg_self]
    refine Places.ext rfl rfl rfl ?_ rfl rfl ?_ (Function.update_eq_self r s.places.ticket)
      (Function.update_eq_self r s.places.channel) ?_ rfl ?_ rfl rfl rfl rfl
    · funext d
      simp only [Places.unlist, Places.shared, Function.update_apply, hlast', and_true]
      split_ifs with hd
      · rw [hd]
      · rfl
    · simp only [Places.unlist, Places.shared, Function.update_idem, hlast', if_true]
    · simp only [Places.unlist, Places.shared, Function.update_idem, hlast']
    · simp only [Places.unlist, Function.update_idem]
      exact Function.update_eq_self r s.places.receipted
  · refine h1.congr ?_
    have hlast' : ¬ eraseRef a (s.places.pending r) = [] := hlast
    refine Places.ext rfl rfl rfl ?_ rfl rfl ?_ (Function.update_eq_self r s.places.ticket)
      (Function.update_eq_self r s.places.channel) rfl rfl (Function.update_eq_self r s.places.receipted) rfl rfl rfl rfl
    · funext d
      simp only [Places.shared, hlast', and_false, if_false]
    · simp only [Places.shared, hlast', if_false, hr]

end

theorem settlePending_sameHands (s : State) (c : ChanId) (r : RecId) : SameHands s (settlePending s c r) := by
  rw [settlePending_eq]
  split_ifs
  · exact freeRecord_sameHands s c r _ _
  · exact sameHands_of_ports rfl
  · exact .refl s

theorem takeByHolder_sameHands (s : State) (c : ChanId) (r : RecId) (a : AttRef) : SameHands s (takeByHolder s c r a) :=
  (modMsg_sameHands s r _).trans (settlePending_sameHands _ c r)

section
variable {s : State} {c : ChanId} {r : RecId} {p : Port} (hc : (s.chan c).state ≠ .free)
include hc

/-- What a bind does at the port of the parked take (R99). -/
theorem bindSlot_shift {w : ParkedTake} : Shift s (bindSlot s c r p w) { s.places.unpark c p w.slot with
    hand := Places.setHand s.places.hand p w.slot (some (r, w.handle, (s.msg r).ticket)) } := by
  have h1 := setSlot_shift s p w.slot (.holding r w.handle (s.msg r).ticket (leaseTimer (s.port p).lease))
  have h2 := modChan_shift (fillSlot s p w.slot r w.handle) c
    (fun ch => { ch with waiters := ch.waiters.filter (fun x => x != p) }) hc ⟨rfl, rfl, rfl, rfl⟩
  have h3 := parked_shift ((fillSlot s p w.slot r w.handle).modChan c
    (fun ch => { ch with waiters := ch.waiters.filter (fun x => x != p) })) p none
  have hlast : Still (bindHands s c r p w) (bindSlot s c r p w) := by
    rw [bindSlot_eq]
    exact (clearLagReported_still _ _).trans (queueEvent_still _ _ _)
  refine (((h1.trans h2).trans h3).congr ?_).still hlast
  rw [h2.places, show (fillSlot s p w.slot r w.handle).places = _ from h1.places]
  exact Places.ext rfl rfl rfl (Function.update_eq_self c s.places.list) rfl rfl rfl rfl rfl rfl rfl rfl rfl rfl rfl rfl

theorem bindPoint_shift {w : ParkedTake} (hw : (s.port p).parked = some w) :
    Shift s (bindPoint s c r p) ((s.places.unpark c p w.slot).takePoint c r p w.slot w.handle) := by
  have h1 := takeIntoHand_shift (r := r) hc
  have hc' : ((takeIntoHand s c r).chan c).state ≠ .free := by
    rw [show ((takeIntoHand s c r).chan c).state = _ from congrFun (congrArg Places.state h1.places) c]
    exact hc
  simp only [bindPoint, hw]
  refine (h1.trans (bindSlot_shift hc' (w := w))).congr ?_
  have hticket : ((takeIntoHand s c r).msg r).ticket = (s.msg r).ticket := congrFun (congrArg Places.ticket h1.places) r
  rw [h1.places, hticket]
  rfl

theorem bindFanout_shift {w : ParkedTake} (hw : (s.port p).parked = some w) (hr : (s.msg r).state = .listed)
    (hpend : ⟨p, w.handle⟩ ∈ (s.msg r).pending) :
    Shift s (bindFanout s c r p) ((s.places.unpark c p w.slot).takeFanout c r p w.slot w.handle) := by
  have h1 := takeByHolder_shift (a := ⟨p, w.handle⟩) hc hr
  have hc' : ((takeByHolder s c r ⟨p, w.handle⟩).chan c).state ≠ .free := by
    rw [show ((takeByHolder s c r ⟨p, w.handle⟩).chan c).state = _ from congrFun (congrArg Places.state h1.places) c]
    exact hc
  simp only [bindFanout, hw]
  rw [if_pos (List.contains_iff_mem.mpr hpend)]
  refine (h1.trans (bindSlot_shift hc' (w := w))).congr ?_
  have hticket : ((takeByHolder s c r ⟨p, w.handle⟩).msg r).ticket = (s.msg r).ticket :=
    congrFun (congrArg Places.ticket h1.places) r
  rw [h1.places, hticket]
  rfl

variable {i : Slot} {h : Handle} (hi : s.slot p i = .empty)
include hi

theorem takePoint_shift : Shift s (fillSlot (takeIntoHand s c r) p i r h) (s.places.takePoint c r p i h) := by
  have h1 := takeIntoHand_shift (r := r) hc
  have hticket : ((takeIntoHand s c r).msg r).ticket = (s.msg r).ticket := congrFun (congrArg Places.ticket h1.places) r
  refine (h1.trans (fillSlot_shift (show (takeIntoHand s c r).slot p i = .empty from hi) r h)).congr ?_
  rw [h1.places, hticket]
  rfl

theorem takeFanout_shift (hr : (s.msg r).state = .listed) :
    Shift s (fillSlot (takeByHolder s c r ⟨p, h⟩) p i r h) (s.places.takeFanout c r p i h) := by
  have h1 := takeByHolder_shift (a := ⟨p, h⟩) hc hr
  have hslot : (takeByHolder s c r ⟨p, h⟩).slot p i = .empty := ((takeByHolder_sameHands s c r ⟨p, h⟩).slot p i).trans hi
  have hticket : ((takeByHolder s c r ⟨p, h⟩).msg r).ticket = (s.msg r).ticket :=
    congrFun (congrArg Places.ticket h1.places) r
  refine (h1.trans (fillSlot_shift hslot r h)).congr ?_
  rw [h1.places, hticket]
  rfl

end

/-! ## Hand-backs -/

/-- A record that goes back to the head of its list, before it is bound or announced (R85). -/
theorem requeued_shift {s : State} {c : ChanId} (r : RecId) (hc : (s.chan c).state ≠ .free) : Shift s (requeued s c r)
    { s.places with
      list := Function.update s.places.list c (r :: s.places.list c)
      stands := Function.update s.places.stands r .queued } := by
  have h1 := modMsg_shift s r (fun m => { m with state := .queued, redelivery := m.redelivery + 1, expiring := false })
    (fun h => absurd h (by simp))
  have h2 := modChan_shift (s.modMsg r (fun m => { m with
    state := .queued, redelivery := m.redelivery + 1, expiring := false })) c (fun ch => { ch with list := r :: ch.list }) hc
    ⟨rfl, rfl, rfl, rfl⟩
  refine (h1.trans h2).congr ?_
  rw [h1.places]
  exact Places.ext rfl rfl rfl rfl (Function.update_eq_self c s.places.waiters) rfl rfl
    (Function.update_eq_self r s.places.ticket) (Function.update_eq_self r s.places.channel)
    (Function.update_eq_self r s.places.pending) (Function.update_eq_self r s.places.holders)
    (Function.update_eq_self r s.places.receipted) rfl rfl rfl rfl

end Sys2Proof.Machine
end

section
/-! SUPPORT. What each move leaves of the waits, and frees as moves (O60). -/

namespace Sys2Proof.Machine.Places

variable {σ : Seating} {P : Places}

theorem Quiet.of_not_opened {c : ChanId} (h : P.state c ≠ .opened) : P.Quiet c :=
  ⟨fun ho => absurd ho h, fun ho => absurd ho h⟩

theorem Quiet.of_list_nil {c : ChanId} (h : P.list c = []) : P.Quiet c :=
  ⟨fun _ _ _ => Or.inl h, fun _ _ _ _ _ _ _ _ r hr => by simp [h] at hr⟩

theorem Quiet.of_waiters_nil {c : ChanId} (h : P.waiters c = []) : P.Quiet c :=
  ⟨fun _ _ _ => Or.inr h, fun _ _ _ p hp => by simp [h] at hp⟩

theorem Quiet.of_held {c : ChanId} (h : P.held c = true) : P.Quiet c :=
  ⟨fun _ _ hh => by simp [h] at hh, fun _ _ hh => by simp [h] at hh⟩

theorem Calmer.trans {P Q R : Places} {c : ChanId} (h : Calmer P Q c) (g : Calmer Q R c) : Calmer P R c where
  state ho := h.state (g.state ho)
  kind ho := (g.kind ho).trans (h.kind (g.state ho))
  held hh := h.held (g.held hh)
  list r hr := h.list r (g.list r hr)
  waiters p hp := ⟨(h.waiters p (g.waiters p hp).1).1, (g.waiters p hp).2.trans (h.waiters p (g.waiters p hp).1).2⟩
  pending r hr a ha := h.pending r (g.list r hr) a (g.pending r hr a ha)

/-- A move that changes neither kinds, states and held flags nor waits is told by the lists and pending sets. -/
theorem Calmer.of_records {Q : Places} {c : ChanId} (hstate : Q.state = P.state) (hkind : Q.kind = P.kind)
    (hheld : Q.held = P.held) (hwaiters : Q.waiters = P.waiters) (hwait : Q.wait = P.wait)
    (hlist : ∀ r ∈ Q.list c, r ∈ P.list c) (hpending : ∀ r ∈ Q.list c, ∀ a ∈ Q.pending r, a ∈ P.pending r) :
    Calmer P Q c :=
  ⟨fun h => hstate ▸ h, fun _ => by rw [hkind], fun h => hheld ▸ h, hlist, fun p hp => ⟨hwaiters ▸ hp, by rw [hwait]⟩,
   hpending⟩

/-- A port waits on one channel. -/
theorem Core.one_wait (L : P.Core σ) {c d : ChanId} {p : Port} {h : Handle} {i : Slot} {x : Role}
    (hw : P.wait p = some (h, i)) (hs : σ ⟨p, h⟩ = some (c, x)) (hp : p ∈ P.waiters d) : d = c := by
  obtain ⟨k, j, y, hk, hy⟩ := L.waits.waits d p hp
  rw [hw, Option.some.injEq, Prod.mk.injEq] at hk
  rw [← hk.1, hs, Option.some.injEq, Prod.mk.injEq] at hy
  exact hy.1.symm

section
variable {c : ChanId} {r : RecId} {p : Port} {i : Slot} {h : Handle}

theorem mem_update_filter {list : ChanId → List RecId} {d : ChanId} {q : RecId}
    (hq : q ∈ Function.update list c ((list c).filter (fun x => x != r)) d) : q ∈ list d := by
  rw [Function.update_apply] at hq
  split_ifs at hq with hd
  · exact hd ▸ List.mem_of_mem_filter hq
  · exact hq

theorem calmer_unpark (L : P.Core σ) {x : Role} (hw : P.wait p = some (h, i)) (hs : σ ⟨p, h⟩ = some (c, x)) (d : ChanId) :
    Calmer P (P.unpark c p i) d := by
  refine ⟨id, fun _ => rfl, id, fun _ => id, fun q hq => ?_, fun _ _ _ => id⟩
  have hqd : q ∈ P.waiters d ∧ q ≠ p := by
    simp only [Places.unpark, Function.update_apply] at hq
    split_ifs at hq with hd
    · rw [List.mem_filter] at hq
      exact ⟨hd ▸ hq.1, by simpa using hq.2⟩
    · exact ⟨hq, fun e => hd (L.one_wait hw hs (e ▸ hq))⟩
  exact ⟨hqd.1, by simp [Places.unpark, hqd.2]⟩

theorem calmer_takePoint (d : ChanId) : Calmer P (P.takePoint c r p i h) d :=
  .of_records rfl rfl rfl rfl rfl (fun _ => mem_update_filter) (fun _ _ _ => id)

theorem calmer_takeFanout (d : ChanId) : Calmer P (P.takeFanout c r p i h) d := by
  refine .of_records rfl rfl rfl rfl rfl (fun q hq => ?_) (fun q _ a ha => ?_)
  · simp only [Places.takeFanout] at hq
    split_ifs at hq
    · exact List.mem_of_mem_filter hq
    · exact hq
  · simp only [Places.takeFanout, Function.update_apply] at ha
    split_ifs at ha with hqr
    · exact hqr ▸ ((mem_eraseRef _ _ _).mp ha).1
    · exact ha

theorem calmer_drop (d : ChanId) : Calmer P (P.drop r) d := by
  refine .of_records rfl rfl rfl rfl rfl (fun q hq => List.mem_of_mem_filter hq) (fun q _ a ha => ?_)
  simp only [Places.drop, Function.update_apply] at ha
  split_ifs at ha
  · exact absurd ha (by simp)
  · exact ha

theorem calmer_letGo (d : ChanId) : Calmer P (P.letGo r p i h) d :=
  .of_records rfl rfl rfl rfl rfl (fun _ => id) (fun _ _ _ => id)

theorem calmer_unlist (b : Bool) (d : ChanId) : Calmer P (P.unlist c r b) d := by
  refine .of_records rfl rfl rfl rfl rfl (fun _ => mem_update_filter) (fun q _ a ha => ?_)
  simp only [Places.unlist, Function.update_apply] at ha
  split_ifs at ha
  · exact absurd ha (by simp)
  · exact ha

theorem calmer_unpend (a : AttRef) (d : ChanId) : Calmer P (P.unpend r a) d := by
  refine .of_records rfl rfl rfl rfl rfl (fun _ => id) (fun q _ b hb => ?_)
  simp only [Places.unpend, Function.update_apply] at hb
  split_ifs at hb with hqr
  · exact hqr ▸ ((mem_eraseRef _ _ _).mp hb).1
  · exact hb

theorem quiet_doom {x : ChanState} {b : Bool} {w : List (ChanId × Bool)} (hx : x ≠ .opened) (H : ∀ d, P.Quiet d)
    (d : ChanId) : (P.doom c x b w).Quiet d := by
  by_cases hd : d = c
  · refine .of_not_opened ?_
    simpa [Places.doom, hd] using hx
  · refine (H d).calmer ⟨?_, fun _ => rfl, ?_, fun _ => id, fun _ hp => ⟨hp, rfl⟩, fun q _ a ha => ?_⟩
    · simp [Places.doom, hd]
    · simp [Places.doom, hd]
    · simp only [Places.doom] at ha
      split_ifs at ha
      · exact absurd ha (by simp)
      · exact ha

theorem quiet_renew {x : ChanState} {k : Kind} {n : Nat} {w : List (ChanId × Bool)} (H : ∀ d, P.Quiet d) (d : ChanId) :
    (P.renew c x k n w).Quiet d := by
  by_cases hd : d = c
  · refine .of_list_nil ?_
    simp [Places.renew, hd]
  · refine (H d).calmer ⟨?_, ?_, ?_, ?_, ?_, fun _ _ _ => id⟩
    all_goals simp [Places.renew, hd]

/-- A record that goes back to its list and from there to a waiter (R101) leaves the list as it was. -/
theorem calmer_requeue_bound (L : P.Core σ) {q : Port} {j : Slot} {k : Handle} {x : Role} (hw : P.wait q = some (k, j))
    (hs : σ ⟨q, k⟩ = some (c, x)) (d : ChanId) :
    Calmer P (((P.requeue c r p i).unpark c q j).takePoint c r q j k) d := by
  have C := (calmer_unpark L hw hs d).trans
    (calmer_takePoint (P := P.unpark c q j) (c := c) (r := r) (p := q) (i := j) (h := k) d)
  refine ⟨C.state, C.kind, C.held, fun y hy => ?_, C.waiters, fun _ _ _ => id⟩
  simp only [Places.takePoint, Places.unpark, Places.requeue, Function.update_apply, if_true] at hy
  split_ifs at hy with hd
  · rw [List.filter_cons_of_neg (by simp)] at hy
    exact hd ▸ List.mem_of_mem_filter hy
  · exact hy

end

/-! ## Frees as moves -/

section
variable (L : P.Core σ) {c : ChanId} {r : RecId}
include L

theorem list_filter_of_channel (hc : P.channel r = some c ∨ P.channel r = none) (d : ChanId) :
    Function.update P.list c ((P.list c).filter (fun x => x != r)) d = (P.list d).filter (fun x => x != r) := by
  rw [Function.update_apply]
  split_ifs with hd
  · rw [hd]
  · refine (List.filter_eq_self.mpr (fun q hq => ?_)).symm
    have hqr : q ≠ r := by
      rintro rfl
      have hof := L.lists.of d q hq
      rcases hc with hc | hc
      · exact hd (Option.some.inj (hof.symm.trans hc))
      · simp [hof] at hc
    simpa using hqr

/-- The free of a record that no slot holds. -/
theorem freed_eq_drop (hc : P.channel r = some c ∨ P.channel r = none)
    (hno : ∀ q j k v, P.hand q j ≠ some (r, k, v)) : P.freed c r = P.drop r := by
  refine Places.ext rfl rfl rfl (funext fun d => list_filter_of_channel L hc d) rfl rfl rfl rfl rfl rfl rfl rfl ?_ rfl rfl rfl
  funext q j
  show P.hand q j = (P.hand q j).filter (fun g => g.1 != r)
  cases hg : P.hand q j with
  | none => rfl
  | some g =>
    obtain ⟨y, k, v⟩ := g
    have hy : y ≠ r := by
      rintro rfl
      exact hno q j k v hg
    simp [Option.filter, hy]

/-- The free of a record whose one slot has been emptied. -/
theorem emptied_freed_eq_drop (hc : P.channel r = some c ∨ P.channel r = none) {p : Port} {i : Slot} {h : Handle} {t : Ticket}
    (hi : P.hand p i = some (r, h, t)) (hone : ∀ q j k v, P.hand q j = some (r, k, v) → q = p ∧ j = i) :
    (P.emptied p i).freed c r = P.drop r := by
  refine Places.ext rfl rfl rfl (funext fun d => list_filter_of_channel L hc d) rfl rfl rfl rfl rfl rfl rfl rfl ?_ rfl rfl rfl
  funext q j
  show setHand P.hand p i none q j = (P.hand q j).filter (fun g => g.1 != r)
  rw [setHand]
  split_ifs with hqj
  · rw [hqj.1, hqj.2, hi]
    simp [Option.filter]
  · cases hg : P.hand q j with
    | none => rfl
    | some g =>
      obtain ⟨y, k, v⟩ := g
      have hy : y ≠ r := by
        rintro rfl
        exact hqj (hone q j k v hg)
      simp [Option.filter, hy]

end

end Sys2Proof.Machine.Places
end

section
/-! SUPPORT. Binds, hand-backs and releases keep the laws (O60). -/

namespace Sys2Proof.Machine

variable {σ : Seating} {s : State}

/-- From `s` to `t` the attachments stay, and the laws hold of `t`. -/
structure Leads (σ : Seating) (s t : State) : Prop where
  fine : Fine σ t
  seats : t.seats = s.seats

theorem Leads.refl (F : Fine σ s) : Leads σ s s := ⟨F, rfl⟩

theorem Leads.trans {t u : State} (h : Leads σ s t) (g : Leads σ t u) : Leads σ s u := ⟨g.fine, g.seats.trans h.seats⟩

theorem Shift.leads {t : State} {Q : Places} (h : Shift s t Q) (F : Fine σ s) (hQ : Q.Laws σ) (hq : ∀ c, Q.Quiet c) :
    Leads σ s t := ⟨h.fine hQ F.good.tidy hq, h.seats⟩

theorem Still.leads {t : State} (h : Still s t) (F : Fine σ s) : Leads σ s t := ⟨h.fine F, h.seats⟩

theorem Leads.foldl {α : Type} {f : State → α → State} {l : List α} (h : ∀ a ∈ l, ∀ t, Fine σ t → Leads σ t (f t a))
    (F : Fine σ s) : Leads σ s (l.foldl f s) := by
  induction l generalizing s with
  | nil => exact .refl F
  | cons a rest ih =>
    have ha := h a (by simp) s F
    exact ha.trans (ih (fun b hb => h b (List.mem_cons_of_mem a hb)) ha.fine)

/-! ## Channels in use -/

section
variable (G : Good σ s)
include G

theorem Good.live_of_seat {a : AttRef} {c : ChanId} {x : Role} (ha : σ a = some (c, x)) : (s.chan c).state ≠ .free := by
  have := G.laws.seats.opens a c x ha
  change (s.chan c).state = _ ∨ (s.chan c).state = _ at this
  rcases this with h | h <;> simp [h]

theorem Good.live_of_list {c : ChanId} {r : RecId} (hr : r ∈ (s.chan c).list) : (s.chan c).state ≠ .free := by
  intro h
  have := G.laws.lists.free c h
  change (s.chan c).list = [] at this
  simp [this] at hr

theorem Good.live_of_hand {p : Port} {i : Slot} {r : RecId} {h : Handle} {t : Ticket} {c : ChanId}
    (hi : s.places.hand p i = some (r, h, t)) (hc : (s.msg r).channel = some c) : (s.chan c).state ≠ .free := by
  obtain ⟨d, x, hd, hx⟩ := G.laws.hands.seat p i r h t hi
  obtain rfl : d = c := Option.some.inj (hd.symm.trans hc)
  exact G.live_of_seat hx

/-- A waiter's parked take, its seat and its slot. -/
theorem Good.waiter {c : ChanId} {q : Port} (hq : q ∈ (s.chan c).waiters) : ∃ w x, (s.port q).parked = some w ∧
    σ ⟨q, w.handle⟩ = some (c, x) ∧ x ≠ .producer ∧ s.slot q w.slot = .reserved := by
  obtain ⟨h, i, x, hwait, hx⟩ := G.laws.waits.waits c q hq
  obtain ⟨w, hw, rfl, rfl⟩ := wait_eq_some_iff.mp hwait
  obtain ⟨d, y, hy, hne, -⟩ := G.laws.waits.listed q w.handle w.slot hwait
  have hslot := (G.laws.waits.slot q w.slot).mpr ⟨_, hwait⟩
  rw [hx, Option.some.injEq, Prod.mk.injEq] at hy
  exact ⟨w, x, hw, hx, hy.2 ▸ hne, reserved_iff.mp hslot⟩

end

theorem hand_of_slot {p : Port} {i : Slot} (h : s.slot p i = .reserved ∨ s.slot p i = .empty) : s.places.hand p i = none := by
  rcases h with h | h <;> simp [State.places, h, HandSlot.grip]

theorem role_of_point {x : Role} (h : roleSuits x .point = true) (hne : x ≠ .producer) : x = .consumer := by
  cases x <;> simp_all [roleSuits]

theorem role_of_fanout {x : Role} (h : roleSuits x .fanout = true) (hne : x ≠ .producer) : x = .subscriber := by
  cases x <;> simp_all [roleSuits]

/-! ## Waits that end -/

section
variable (G : Good σ s) {p : Port} {w : ParkedTake} {c : ChanId} {x : Role} (hw : (s.port p).parked = some w)
  (hx : σ ⟨p, w.handle⟩ = some (c, x))
include G hw hx

theorem Good.dropParked_shift : Shift s (dropParked s c p w) (s.places.unpark c p w.slot) :=
  Machine.dropParked_shift (G.live_of_seat hx)
    (reserved_iff.mp ((G.laws.waits.slot p w.slot).mpr ⟨w.handle, wait_eq_some_iff.mpr ⟨w, hw, rfl, rfl⟩⟩))

omit G in
theorem Fine.dropParked (F : Fine σ s) : Leads σ s (dropParked s c p w) := by
  have hwait : s.places.wait p = some (w.handle, w.slot) := wait_eq_some_iff.mpr ⟨w, hw, rfl, rfl⟩
  exact (F.good.dropParked_shift hw hx).leads F (F.good.laws.unpark hwait hx)
    (fun d => (F.quiet d).calmer (Places.calmer_unpark F.good.laws.toCore hwait hx d))

end

/-! ## Binds -/

section
variable (G : Good σ s) {c : ChanId} {r : RecId} {q : Port} {w : ParkedTake} (hr : r ∈ (s.chan c).list)
  (ho : (s.chan c).state = .opened) (hq : q ∈ (s.chan c).waiters) (hw : (s.port q).parked = some w)
include G hr ho hq hw

theorem Good.bindPoint_laws (hk : (s.chan c).kind = .point) :
    ((s.places.unpark c q w.slot).takePoint c r q w.slot w.handle).Laws σ := by
  obtain ⟨w', x, hw', hx, hne, hslot⟩ := G.waiter hq
  obtain rfl : w = w' := Option.some.inj (hw.symm.trans hw')
  have hsuits := G.laws.seats.suits _ _ _ hx
  change roleSuits x (s.chan c).kind = true at hsuits
  rw [hk] at hsuits
  obtain rfl := role_of_point hsuits hne
  exact (G.laws.unpark (wait_eq_some_iff.mpr ⟨w, hw, rfl, rfl⟩) hx).takePoint hr ho hk hx
    (hand_of_slot (Or.inl hslot))

omit ho in
theorem Good.bindFanout_laws (hk : (s.chan c).kind = .fanout) (hpend : ⟨q, w.handle⟩ ∈ (s.msg r).pending) :
    ((s.places.unpark c q w.slot).takeFanout c r q w.slot w.handle).Laws σ := by
  obtain ⟨w', x, hw', hx, hne, hslot⟩ := G.waiter hq
  obtain rfl : w = w' := Option.some.inj (hw.symm.trans hw')
  exact (G.laws.unpark (wait_eq_some_iff.mpr ⟨w, hw, rfl, rfl⟩) hx).takeFanout hr hk hpend
    (hand_of_slot (Or.inl hslot))

end

/-! ## POINT records that leave a hand -/

section
variable {p : Port} {i : Slot} {r : RecId} {h : Handle} {t : Ticket} {c : ChanId}

/-- A record that leaves its one slot and is freed. -/
theorem Fine.free_from_hand (F : Fine σ s) (hi : s.places.hand p i = some (r, h, t)) (hc : (s.msg r).channel = some c)
    (hone : ∀ q j k v, s.places.hand q j = some (r, k, v) → q = p ∧ j = i) {x : State}
    (hx : Shift s x (s.places.emptied p i)) (o : MsgOutcome) (n : Nat) : Leads σ s (freeRecord x c r o n) := by
  have hlive : (x.chan c).state ≠ .free := by
    rw [show (x.chan c).state = _ from congrFun (congrArg Places.state hx.places) c]
    exact F.good.live_of_hand hi hc
  refine ((hx.trans (freeRecord_shift x r hlive o n)).congr ?_).leads F (F.good.laws.drop r)
    (fun d => (F.quiet d).calmer (Places.calmer_drop d))
  rw [hx.places]
  exact Places.emptied_freed_eq_drop F.good.laws.toCore (Or.inl hc) hi hone

variable (F : Fine σ s) (hi : s.places.hand p i = some (r, h, t)) (hc : (s.msg r).channel = some c)
  (hk : (s.chan c).kind = .point)
include F hi hc hk

theorem Fine.point_once : ∀ q j k v, s.places.hand q j = some (r, k, v) → q = p ∧ j = i := by
  intro q j k v hg
  have := F.good.laws.hands.once p i r h t q j k v hi hg (Or.inl (F.good.laws.stands_of_hand hi hc hk))
  exact ⟨this.1.symm, this.2.symm⟩

/-- A POINT record comes back to its list, and binds to the first waiter of an unheld channel (R85, R101). -/
theorem Fine.requeue (ho : (s.chan c).state = .opened) {x : State} (hx : Shift s x (s.places.emptied p i)) :
    Leads σ s (requeue x c r) := by
  have hchan : ∀ d, (x.chan d).state = (s.chan d).state ∧ (x.chan d).held = (s.chan d).held ∧
      (x.chan d).waiters = (s.chan d).waiters := fun d =>
    ⟨congrFun (congrArg Places.state hx.places) d, congrFun (congrArg Places.held hx.places) d,
      congrFun (congrArg Places.waiters hx.places) d⟩
  have hlive : (x.chan c).state ≠ .free := by
    rw [(hchan c).1, ho]
    simp
  have L := F.good.laws.requeue hi hc ho hk
  have hback : Shift s (requeued x c r) (s.places.requeue c r p i) := by
    refine (hx.trans (requeued_shift r hlive)).congr ?_
    rw [hx.places]
    rfl
  have Gback : Good σ (requeued x c r) := hback.good L F.good.tidy
  by_cases hwaits : (x.chan c).held = false ∧ (x.chan c).waiters ≠ []
  · obtain ⟨hheld, hne⟩ := hwaits
    obtain ⟨q, rest, hwaiters⟩ := List.exists_cons_of_ne_nil hne
    have hchanb : ((requeued x c r).chan c) = { x.chan c with
        list := r :: (x.chan c).list, stats := ((requeued x c r).chan c).stats } := (requeued_writes x c r).chan_self
    have hq : q ∈ ((requeued x c r).chan c).waiters := by rw [hchanb]; simp [hwaiters]
    obtain ⟨w, y, hw, hy, -, -⟩ := Gback.waiter hq
    have hbind := bindPoint_shift (r := r) (c := c) (by rw [hchanb]; exact hlive) hw
    rw [requeue_of_waiter hheld hwaiters hw]
    have heq : bindPoint (requeued x c r) c r q = bindSlot (takeIntoHand (requeued x c r) c r) c r q w := by
      simp only [bindPoint, hw]
    rw [← heq]
    refine ((hback.trans hbind).congr (by rw [hback.places])).leads F ?_ (fun d => (F.quiet d).calmer ?_)
    · have := Gback.bindPoint_laws (r := r) (w := w) (by rw [hchanb]; simp) (by rw [hchanb, ← ho, ← (hchan c).1]) hq hw
        (by rw [hchanb, ← hk]; exact congrFun (congrArg Places.kind hx.places) c)
      rw [hback.places] at this
      exact this
    · have hwait : (requeued x c r).places.wait q = some (w.handle, w.slot) := wait_eq_some_iff.mpr ⟨w, hw, rfl, rfl⟩
      rw [hback.places] at hwait
      exact Places.calmer_requeue_bound F.good.laws.toCore hwait hy d
  · have hnobody : (x.chan c).held = true ∨ (x.chan c).waiters = [] := by
      by_contra hno
      push Not at hno
      exact hwaits ⟨by simpa using hno.1, hno.2⟩
    rw [requeue_of_nobody hnobody]
    refine (hback.still (arriveAll_still _ _ _ _)).leads F L (fun d => ?_)
    by_cases hd : d = c
    · subst hd
      rw [(hchan d).2.1, (hchan d).2.2] at hnobody
      rcases hnobody with hn | hn
      · exact .of_held hn
      · exact .of_waiters_nil hn
    · refine (F.quiet d).calmer (.of_records rfl rfl rfl rfl rfl (fun y hy => ?_) (fun _ _ _ => id))
      simpa [Places.requeue, hd] using hy

/-- The hand-back of a POINT record (R84). -/
theorem Fine.handBackPoint {x : State} (hx : Shift s x (s.places.emptied p i)) : Leads σ s (handBackPoint x c r).1 := by
  have hlive : (x.chan c).state ≠ .free := by
    rw [show (x.chan c).state = _ from congrFun (congrArg Places.state hx.places) c]
    exact F.good.live_of_hand hi hc
  have hbump := hx.still (bump_still x .returned hlive)
  by_cases hre : (x.chan c).state = .opened ∧ (x.msg r).redelivery < 7
  · rw [handBackPoint_of_requeues hre.1 hre.2]
    refine F.requeue hi hc hk ?_ hbump
    rw [← hre.1]
    exact (congrFun (congrArg Places.state hx.places) c).symm
  · rw [handBackPoint_of_not_requeues hre]
    exact F.free_from_hand hi hc (F.point_once hi hc hk) hbump _ _

end

/-! ## FANOUT records that leave a hand -/

section
variable {p : Port} {i : Slot} {r : RecId} {h : Handle} {t : Ticket} {c : ChanId} (F : Fine σ s)
  (hi : s.places.hand p i = some (r, h, t)) (hc : (s.msg r).channel = some c) (hk : (s.chan c).kind = .fanout)
include F hi hc hk

/-- A holder that is the only one has the record's only slot. -/
theorem Fine.fanout_once (hlast : eraseRef ⟨p, h⟩ (s.msg r).holders = []) :
    ∀ q j k v, s.places.hand q j = some (r, k, v) → q = p ∧ j = i := by
  intro q j k v hg
  have hin := (F.good.laws.hands.fanout q j r k v c hg hc hk).2
  have hqk : (⟨q, k⟩ : AttRef) = ⟨p, h⟩ := by
    by_contra hne
    have : (⟨q, k⟩ : AttRef) ∈ eraseRef ⟨p, h⟩ (s.msg r).holders := (mem_eraseRef _ _ _).mpr ⟨hin, hne⟩
    simp [hlast] at this
  have hqp : q = p := congrArg AttRef.port hqk
  have := F.good.laws.hands.once p i r h t q j k v hi hg (Or.inr hqp.symm)
  exact ⟨hqp, this.2.symm⟩

omit F hi hc hk in
theorem letGo_shift (x : State) (r : RecId) (a : AttRef) (hr : (x.msg r).state ≠ .free) :
    Shift x (x.modMsg r (fun m => m.letGo a))
      { x.places with holders := Function.update x.places.holders r (eraseRef a (x.places.holders r)) } := by
  refine (modMsg_shift x r (fun m => m.letGo a) (fun hf => absurd hf hr)).congr ?_
  exact Places.ext rfl rfl rfl rfl rfl rfl (Function.update_eq_self r x.places.stands)
    (Function.update_eq_self r x.places.ticket) (Function.update_eq_self r x.places.channel)
    (Function.update_eq_self r x.places.pending) rfl (Function.update_eq_self r x.places.receipted) rfl rfl rfl rfl

/-- A holder of a FANOUT record lets it go (R82, R86). -/
theorem Fine.releaseFanout {x : State} (hx : Shift s x (s.places.emptied p i)) : Leads σ s (releaseFanout x c r ⟨p, h⟩) := by
  have hmsg : (x.msg r).state = (s.msg r).state ∧ (x.msg r).holders = (s.msg r).holders :=
    ⟨congrFun (congrArg Places.stands hx.places) r, congrFun (congrArg Places.holders hx.places) r⟩
  have hnotfree : (x.msg r).state ≠ .free := by
    intro hf
    have := (F.good.laws.placed.free r (hmsg.1.symm.trans hf)).1
    change (s.msg r).channel = none at this
    simp [hc] at this
  have hlet := letGo_shift x r ⟨p, h⟩ hnotfree
  rw [releaseFanout_eq]
  split_ifs with hlast
  · have hlive : ((x.modMsg r (fun m => m.letGo ⟨p, h⟩)).chan c).state ≠ .free := by
      rw [show ((x.modMsg r (fun m => m.letGo ⟨p, h⟩)).chan c).state = _ from
        congrFun (congrArg Places.state hx.places) c]
      exact F.good.live_of_hand hi hc
    have hone := F.fanout_once hi hc hk (by rw [← hmsg.2]; exact hlast.2)
    refine (((hx.trans hlet).trans (freeRecord_shift _ r hlive _ _)).congr ?_).leads F (F.good.laws.drop r)
      (fun d => (F.quiet d).calmer (Places.calmer_drop d))
    rw [hlet.places, hx.places, ← Places.emptied_freed_eq_drop F.good.laws.toCore (Or.inl hc) hi hone]
    refine Places.ext rfl rfl rfl rfl rfl rfl rfl rfl rfl rfl ?_ rfl rfl rfl rfl rfl
    simp only [Places.freed, Function.update_idem]
  · refine ((hx.trans hlet).congr (by rw [hx.places]; rfl)).leads F
      (F.good.laws.letGo hi hc hk (fun hu hl => hlast ⟨hmsg.1.trans hu, ?_⟩))
      (fun d => (F.quiet d).calmer (Places.calmer_letGo d))
    rw [hmsg.2]
    exact hl

end

/-! ## Hand-backs and releases of a slot -/

section
variable {p : Port} {i : Slot} {r : RecId} {h : Handle} {t : Ticket} (F : Fine σ s)
  (hi : s.places.hand p i = some (r, h, t)) {x : State} (hx : Shift s x (s.places.emptied p i))
include F hi hx

/-- The record of an emptied slot is handed back or let go (R84, R86). -/
theorem Fine.handBackRecord : Leads σ s (handBackRecord x r ⟨p, h⟩) := by
  obtain ⟨c, y, hc, -⟩ := F.good.laws.hands.seat p i r h t hi
  have hxc : (x.msg r).channel = some c := (congrFun (congrArg Places.channel hx.places) r).trans hc
  have hkind : (x.chan c).kind = (s.chan c).kind := congrFun (congrArg Places.kind hx.places) c
  unfold Machine.handBackRecord
  simp only [hxc]
  cases hk : (s.chan c).kind with
  | point => simpa only [hkind, hk] using F.handBackPoint hi hc hk hx
  | fanout => simpa only [hkind, hk] using F.releaseFanout hi hc hk hx

/-- The record of an emptied slot is released (R81, R82). -/
theorem Fine.releaseRecord : Leads σ s (releaseRecord x r ⟨p, h⟩) := by
  obtain ⟨c, y, hc, -⟩ := F.good.laws.hands.seat p i r h t hi
  have hxc : (x.msg r).channel = some c := (congrFun (congrArg Places.channel hx.places) r).trans hc
  have hkind : (x.chan c).kind = (s.chan c).kind := congrFun (congrArg Places.kind hx.places) c
  unfold Machine.releaseRecord
  simp only [hxc]
  cases hk : (s.chan c).kind with
  | point => simpa only [hkind, hk] using F.free_from_hand hi hc (F.point_once hi hc hk) hx _ _
  | fanout => simpa only [hkind, hk] using F.releaseFanout hi hc hk hx

end

theorem Fine.handBackSlot (F : Fine σ s) (p : Port) (i : Slot) : Leads σ s (handBackSlot s p i) := by
  unfold Machine.handBackSlot
  split
  · next r h t lease hs =>
    have hi := hand_eq_some_iff.mpr ⟨lease, hs⟩
    exact F.handBackRecord hi (empty_shift hi)
  · exact .refl F

theorem Fine.handBackThrough (F : Fine σ s) (a : AttRef) : Leads σ s (handBackThrough s a) := by
  rw [handBackThrough_eq]
  refine Leads.foldl (fun i _ t G => ?_) F
  unfold lookAt
  split
  · split_ifs
    · exact G.handBackSlot a.port i
    · exact .refl G
  · exact .refl G

theorem Fine.handBackAll (F : Fine σ s) (p : Port) : Leads σ s (handBackAll s p) :=
  Leads.foldl (fun i _ _ G => G.handBackSlot p i) F

end Sys2Proof.Machine
end

section
/-! SUPPORT. Records that leave their list keep the laws (O60): expiries, sheds, reclaim steps, and subscribers that go. -/

namespace Sys2Proof.Machine

variable {σ : Seating} {s : State}

/-- A pending set is written. -/
theorem pending_shift (x : State) (r : RecId) (g : List AttRef → List AttRef) (hr : (x.msg r).state ≠ .free) :
    Shift x (x.modMsg r (fun m => { m with pending := g m.pending }))
      { x.places with pending := Function.update x.places.pending r (g (x.places.pending r)) } := by
  refine (modMsg_shift x r (fun m => { m with pending := g m.pending }) (fun hf => absurd hf hr)).congr ?_
  exact Places.ext rfl rfl rfl rfl rfl rfl (Function.update_eq_self r x.places.stands)
    (Function.update_eq_self r x.places.ticket) (Function.update_eq_self r x.places.channel) rfl
    (Function.update_eq_self r x.places.holders) (Function.update_eq_self r x.places.receipted) rfl rfl rfl rfl

theorem Good.live_record {c : ChanId} {r : RecId} (G : Good σ s) (hr : r ∈ (s.chan c).list) : (s.msg r).state ≠ .free := by
  rcases G.laws.stands_of_list hr with h | h | h <;> rw [show (s.msg r).state = _ from h] <;> simp

section
variable {c : ChanId} {r : RecId} (F : Fine σ s) (hr : r ∈ (s.chan c).list) {x : State} {l : List AttRef}
  (hx : Shift s x { s.places with pending := Function.update s.places.pending r l })
include F hr hx

/-- A listed record that nobody holds is freed. -/
theorem Fine.free_listed_shift (hh : (s.chan c).kind = .fanout → (s.msg r).holders = []) (o : MsgOutcome) (n : Nat) :
    Shift s (freeRecord x c r o n) (s.places.drop r) := by
  have L := F.good.laws
  have hc : (s.msg r).channel = some c := L.lists.of c r hr
  have hlive : (x.chan c).state ≠ .free := by
    rw [show (x.chan c).state = _ from congrFun (congrArg Places.state hx.places) c]
    exact F.good.live_of_list hr
  have hno : ∀ q j k v, s.places.hand q j ≠ some (r, k, v) := by
    intro q j k v hg
    cases hk : (s.chan c).kind with
    | point =>
      have hstands := L.stands_of_list hr
      rw [(L.hands.point q j r k v c hg hc hk).2] at hstands
      simp at hstands
    | fanout =>
      have hin : _ ∈ (s.msg r).holders := (L.hands.fanout q j r k v c hg hc hk).2
      simp [hh hk] at hin
  refine (hx.trans (freeRecord_shift x r hlive o n)).congr ?_
  rw [hx.places, ← Places.freed_eq_drop L.toCore (Or.inl hc) hno]
  refine Places.ext rfl rfl rfl rfl rfl rfl rfl rfl rfl ?_ rfl rfl rfl rfl rfl rfl
  simp only [Places.freed, Function.update_idem]

theorem Fine.free_listed (hh : (s.chan c).kind = .fanout → (s.msg r).holders = []) (o : MsgOutcome) (n : Nat) :
    Leads σ s (freeRecord x c r o n) :=
  (F.free_listed_shift hr hx hh o n).leads F (F.good.laws.drop r) (fun d => (F.quiet d).calmer (Places.calmer_drop d))

variable (hh : (s.msg r).holders ≠ [])
include hh

theorem Fine.unlist_listed : Leads σ s (unlist x c r) := by
  have hlive : (x.chan c).state ≠ .free := by
    rw [show (x.chan c).state = _ from congrFun (congrArg Places.state hx.places) c]
    exact F.good.live_of_list hr
  refine ((hx.trans (unlist_shift x r hlive)).congr ?_).leads F (F.good.laws.unlist hr hh (s.msg r).receipted)
    (fun d => (F.quiet d).calmer (Places.calmer_unlist _ d))
  rw [show (x.msg r).receipted = _ from congrFun (congrArg Places.receipted hx.places) r, hx.places]
  refine Places.ext rfl rfl rfl rfl rfl rfl rfl rfl rfl ?_ rfl rfl rfl rfl rfl rfl
  simp only [Places.unlist, Function.update_idem]

omit hh in
/-- A listed record that is held leaves the list with its outcome. -/
theorem Fine.issue_unlisted_shift (o : MsgOutcome) (n : Nat) :
    Shift s (issue (unlist x c r) c r o n) (s.places.unlist c r true) := by
  have hlive : (x.chan c).state ≠ .free := by
    rw [show (x.chan c).state = _ from congrFun (congrArg Places.state hx.places) c]
    exact F.good.live_of_list hr
  refine (hx.trans (issue_unlist_shift x r hlive o n)).congr ?_
  rw [hx.places]
  refine Places.ext rfl rfl rfl rfl rfl rfl rfl rfl rfl ?_ rfl rfl rfl rfl rfl rfl
  simp only [Places.unlist, Function.update_idem]

theorem Fine.issue_unlisted (o : MsgOutcome) (n : Nat) : Leads σ s (issue (unlist x c r) c r o n) :=
  (F.issue_unlisted_shift hr hx o n).leads F (F.good.laws.unlist hr hh true)
    (fun d => (F.quiet d).calmer (Places.calmer_unlist _ d))

end

section
variable {c : ChanId} {r : RecId} (F : Fine σ s) (hr : r ∈ (s.chan c).list)
include F hr

omit F hr in
theorem pending_self (s : State) (r : RecId) :
    Shift s s { s.places with pending := Function.update s.places.pending r (s.places.pending r) } := by
  refine (Still.refl s).shift.congr ?_
  rw [Function.update_eq_self]

theorem Fine.expireRecord : Leads σ s (expireRecord s c r) := by
  have hx := pending_self s r
  unfold Machine.expireRecord
  cases hk : (s.chan c).kind with
  | point => exact F.free_listed hr hx (fun h => by simp [hk] at h) _ _
  | fanout =>
    dsimp only
    split
    · next hh => exact F.free_listed hr hx (fun _ => List.isEmpty_iff.mp hh) _ _
    · next hh => exact F.issue_unlisted hr hx (fun h => hh (by simp [h])) _ _

theorem Fine.reclaimRecord : Leads σ s (reclaimRecord s c r) := by
  have hx := pending_self s r
  unfold Machine.reclaimRecord
  cases hk : (s.chan c).kind with
  | point => exact F.free_listed hr hx (fun h => by simp [hk] at h) _ _
  | fanout =>
    dsimp only
    split
    · next hh => exact F.free_listed hr hx (fun _ => List.isEmpty_iff.mp hh) _ _
    · next hh => exact F.issue_unlisted hr hx (fun h => hh (by simp [h])) _ _

/-- A post sheds the head of a list (R55, R124): the record is freed, or held on outside the list. -/
theorem Fine.shedRecord_shift : ∃ Q : Places, (Q = s.places.drop r ∨ Q = s.places.unlist c r true ∧ s.places.holders r ≠ []) ∧
    Shift s (shedRecord s c r) Q := by
  unfold Machine.shedRecord
  cases hk : (s.chan c).kind with
  | point => exact ⟨_, Or.inl rfl, F.free_listed_shift hr (pending_self s r) (fun h => by simp [hk] at h) _ _⟩
  | fanout =>
    have hcharge : Still s ((s.msg r).pending.foldl (fun s a => chargeLag s c a) s) :=
      Still.foldl _ (fun a _ s => chargeLag_still s c a) s
    have hrec : ∀ {α : Type} (f : Places → RecId → α), f ((s.msg r).pending.foldl (fun s a => chargeLag s c a) s).places r =
        f s.places r := fun f => congrFun (congrArg f hcharge.places) r
    have hmod := pending_shift ((s.msg r).pending.foldl (fun s a => chargeLag s c a) s) r (fun _ => [])
      (fun h => F.good.live_record hr ((hrec Places.stands).symm.trans h))
    have hx := (hcharge.then hmod).congr (R := { s.places with pending := Function.update s.places.pending r [] })
      (by rw [hcharge.places])
    have hholders : ∀ y : State, Shift s y { s.places with pending := Function.update s.places.pending r [] } →
        (y.msg r).holders = (s.msg r).holders := fun y hy => congrFun (congrArg Places.holders hy.places) r
    have hheld := hholders _ hx
    dsimp only
    unfold shedFanout
    dsimp only
    split
    · next hh =>
      exact ⟨_, Or.inl rfl, F.free_listed_shift hr hx (fun _ => by rw [← hheld]; exact List.isEmpty_iff.mp hh) _ _⟩
    · next hh =>
      refine ⟨_, Or.inr ⟨rfl, fun h => hh ?_⟩, F.issue_unlisted_shift hr hx _ _⟩
      rw [hheld, show (s.msg r).holders = [] from h]
      rfl

theorem Fine.shedRecord : Leads σ s (shedRecord s c r) := by
  obtain ⟨Q, (rfl | ⟨rfl, hh⟩), H⟩ := F.shedRecord_shift hr
  · exact H.leads F (F.good.laws.drop r) (fun d => (F.quiet d).calmer (Places.calmer_drop d))
  · exact H.leads F (F.good.laws.unlist hr hh true) (fun d => (F.quiet d).calmer (Places.calmer_unlist _ d))

end

/-! ## Subscribers that leave the pending sets (R20) -/

theorem Fine.settleWithout (F : Fine σ s) {c : ChanId} {x : Role} {a : AttRef} (ha : σ a = some (c, x)) (r : RecId) :
    Leads σ s (settleWithout c a s r) := by
  unfold Machine.settleWithout
  split
  · next hin =>
    have hpend : a ∈ (s.msg r).pending := List.contains_iff_mem.mp hin
    have L := F.good.laws
    obtain ⟨d, hd, hrd⟩ := L.pends.seat r a hpend
    rw [ha, Option.some.injEq, Prod.mk.injEq] at hd
    obtain ⟨e, he, hr⟩ := L.placed.listed r (Or.inr (Or.inl (L.stands_of_pending hpend)))
    obtain rfl : e = c := Option.some.inj ((he.symm.trans hrd).trans (by rw [hd.1]))
    have hx := pending_shift s r (eraseRef a) (F.good.live_record hr)
    rw [settlePending_eq, msg_modMsg_self]
    dsimp only
    split_ifs with hlast hheld
    · exact F.free_listed hr hx (fun _ => hheld) _ _
    · exact F.unlist_listed hr hx hheld
    · exact hx.leads F (L.unpend hlast) (fun d => (F.quiet d).calmer (Places.calmer_unpend a d))
  · exact .refl F

theorem Fine.leavePending (F : Fine σ s) {c : ChanId} {x : Role} {a : AttRef} (ha : σ a = some (c, x)) :
    Leads σ s (leavePending s c a) := by
  rw [leavePending_eq]
  exact Leads.foldl (fun r _ _ G => G.settleWithout ha r) F

end Sys2Proof.Machine
end

section
/-! SUPPORT. Channels that are freed, closed, purged or made, as moves (O60). -/

namespace Sys2Proof.Machine

variable {σ : Seating} {s t : State} {c : ChanId} {ch : Channel}

/-- One field of the channels after a write of one of them. -/
theorem field_update {α : Type} (hchan : ∀ d, t.chan d = if d = c then ch else s.chan d) (f : Channel → α) :
    (fun d => f (t.chan d)) = Function.update (fun d => f (s.chan d)) c (f ch) := by
  funext d
  rw [Function.update_apply, hchan]
  split_ifs <;> rfl

theorem field_kept {α : Type} (hchan : ∀ d, t.chan d = if d = c then ch else s.chan d) (f : Channel → α)
    (hf : f ch = f (s.chan c)) : (fun d => f (t.chan d)) = fun d => f (s.chan d) := by
  rw [field_update hchan f, hf]
  exact Function.update_eq_self c (fun d => f (s.chan d))

theorem tidy_of_chan (hchan : ∀ d, t.chan d = if d = c then ch else s.chan d) (hfree : ch.state = .free → ch = Channel.free)
    (hs : s.tidy) (d : ChanId) (hd : (t.chan d).state = .free) : t.chan d = Channel.free := by
  rw [hchan] at hd ⊢
  split_ifs at hd ⊢
  · exact hfree hd
  · exact hs.chan d hd

/-- A channel takes new values, with no list and no waiters. -/
theorem renew_shift (hchan : ∀ d, t.chan d = if d = c then ch else s.chan d)
    (hch : ch.list = [] ∧ ch.waiters = [] ∧ ch.held = false)
    (hfree : ch.state = .free → ch = Channel.free) (hmsg : ∀ r, t.msg r = s.msg r) (hands : SameHands s t) :
    Shift s t (s.places.renew c ch.state ch.kind ch.depthLimit t.places.work) := by
  obtain ⟨hlist, hwaiters, hheld⟩ := hch
  obtain ⟨hhand, hreserved, hwait⟩ := hands.places
  have hrec : ∀ {α : Type} (f : MsgRecord → α), (fun r => f (t.msg r)) = fun r => f (s.msg r) :=
    fun f => funext fun r => by rw [hmsg]
  refine ⟨?_, hands.seats, fun hs => ⟨tidy_of_chan hchan hfree hs, fun r hr => hmsg r ▸ hs.msg r (hmsg r ▸ hr)⟩⟩
  refine Places.ext (field_update hchan Channel.state) (field_update hchan Channel.kind) (field_update hchan Channel.depthLimit)
    ?_ ?_ ?_ (hrec MsgRecord.state) (hrec MsgRecord.ticket) (hrec MsgRecord.channel) (hrec MsgRecord.pending)
    (hrec MsgRecord.holders) (hrec MsgRecord.receipted) hhand hreserved hwait rfl
  · exact (field_update hchan Channel.list).trans (by rw [hlist]; rfl)
  · exact (field_update hchan Channel.waiters).trans (by rw [hwaiters]; rfl)
  · exact (field_update hchan Channel.held).trans (by rw [hheld]; rfl)

/-- What the doom of a channel's list makes of its records (R41). -/
theorem doom_place (L : s.places.Core σ) {r : RecId} (hr : r ∈ (s.chan c).list) :
    (s.msg r).doom.place = (.doomed, (s.msg r).ticket, (s.msg r).channel, [], (s.msg r).holders, (s.msg r).receipted) := by
  by_cases h : (s.msg r).state = .queued ∨ (s.msg r).state = .listed
  · rw [doom_of_listed h]
    rfl
  · have hdoomed : (s.msg r).state = .doomed := by
      rcases L.stands_of_list hr with hs | hs | hs
      · exact absurd (Or.inl hs) h
      · exact absurd (Or.inr hs) h
      · exact hs
    have hnil : (s.msg r).pending = [] := by
      by_contra hne
      have hlisted : (s.msg r).state = .listed := (L.pends.listed r).mp hne
      simp [hdoomed] at hlisted
    rw [doom_of_state (by simp [hdoomed])]
    simp [MsgRecord.place, hdoomed, hnil]

/-- The list of a channel is doomed, and its state changes. -/
theorem doom_shift (L : s.places.Core σ) (hchan : ∀ d, t.chan d = if d = c then ch else s.chan d)
    (hch : ch.kind = (s.chan c).kind ∧ ch.depthLimit = (s.chan c).depthLimit ∧ ch.list = (s.chan c).list ∧
      ch.waiters = (s.chan c).waiters)
    (hx : ch.state ≠ .free) (hmsg : ∀ r, t.msg r = if r ∈ (s.chan c).list then (s.msg r).doom else s.msg r)
    (hands : SameHands s t) : Shift s t (s.places.doom c ch.state ch.held t.places.work) := by
  obtain ⟨hkind, hdepth, hlist, hwaiters⟩ := hch
  obtain ⟨hhand, hreserved, hwait⟩ := hands.places
  have hplace : ∀ r, (t.msg r).place = if r ∈ (s.chan c).list then
      (.doomed, (s.msg r).ticket, (s.msg r).channel, [], (s.msg r).holders, (s.msg r).receipted) else (s.msg r).place := by
    intro r
    rw [hmsg]
    split_ifs with hr
    · exact doom_place L hr
    · rfl
  have hkeep : ∀ {α : Type} (f : RecState × Ticket × Option ChanId × List AttRef × List AttRef × Bool → α),
      (∀ r, f (.doomed, (s.msg r).ticket, (s.msg r).channel, [], (s.msg r).holders, (s.msg r).receipted) =
        f (s.msg r).place) →
      (fun r => f (t.msg r).place) = fun r => f (s.msg r).place := by
    intro α f hf
    funext r
    rw [hplace]
    split_ifs
    · exact hf r
    · rfl
  refine ⟨?_, hands.seats, fun hs => ⟨tidy_of_chan hchan (fun h => absurd h hx) hs, fun r hr => ?_⟩⟩
  · refine Places.ext (field_update hchan Channel.state) (field_kept hchan Channel.kind hkind)
      (field_kept hchan Channel.depthLimit hdepth) (field_kept hchan Channel.list hlist)
      (field_kept hchan Channel.waiters hwaiters) (field_update hchan Channel.held) ?_ (hkeep (fun x => x.2.1) (fun _ => rfl))
      (hkeep (fun x => x.2.2.1) (fun _ => rfl)) ?_ (hkeep (fun x => x.2.2.2.2.1) (fun _ => rfl))
      (hkeep (fun x => x.2.2.2.2.2) (fun _ => rfl)) hhand hreserved hwait rfl
    · funext r
      refine (congrArg Prod.fst (hplace r)).trans ?_
      show _ = if r ∈ (s.chan c).list then RecState.doomed else (s.msg r).state
      split_ifs <;> rfl
    · funext r
      refine (congrArg (fun x => x.2.2.2.1) (hplace r)).trans ?_
      show _ = if r ∈ (s.chan c).list then [] else (s.msg r).pending
      split_ifs <;> rfl
  · have hstate := congrArg Prod.fst (hplace r)
    rw [hmsg] at hr ⊢
    split_ifs at hr hstate ⊢ with hin
    · rw [doom_place L hin |> congrArg Prod.fst |> fun h => (h : (s.msg r).doom.state = .doomed)] at hr
      exact absurd hr (by simp)
    · exact hs.msg r hr

/-! ## Channels without attachments (R22, R23) -/

theorem freeChannel_shift (s : State) (c : ChanId) : Shift s (freeChannel s c)
    (s.places.renew c .free .point 1 (s.places.work.filter (fun e => e.1 != c))) := by
  have hwork : (freeChannel s c).places.work = s.places.work.filter (fun e => e.1 != c) := by
    show (s.reclaim.filter (fun e => e.channel != c)).map (fun e => (e.channel, e.count.isSome)) = _
    rw [State.places, List.filter_map]
    rfl
  have h := renew_shift (s := s) (t := freeChannel s c) (ch := Channel.free)
    (fun d => chan_modChan s c (fun _ => Channel.free) d) ⟨rfl, rfl, rfl⟩ (fun _ => rfl) (fun _ => rfl)
    (sameHands_of_ports rfl)
  rw [hwork] at h
  exact h

/-- The work queue once a channel has closed (R40). -/
def Places.workClosed (P : Places) (c : ChanId) : List (ChanId × Bool) :=
  if P.state c = .opened then P.work ++ [(c, false)] else P.work.map (fun e => if e.1 = c then (e.1, false) else e)

theorem closeChannel_shift (L : s.places.Core σ) : Shift s (closeChannel s c)
    (s.places.doom c .closing false (s.places.workClosed c)) := by
  have hreclaim : (closeChannel s c).reclaim = if (s.chan c).state = .opened then s.reclaim ++ [⟨c, none⟩] else
      s.reclaim.map (fun e => if e.channel = c then { e with count := none } else e) := by
    unfold closeChannel
    simp only [beq_iff_eq]
    rw [doomList_eq]
    split_ifs <;> rfl
  have hwork : (closeChannel s c).places.work = s.places.workClosed c := by
    show (closeChannel s c).reclaim.map _ = _
    rw [hreclaim, Places.workClosed]
    refine (apply_ite _ _ _ _).trans (if_congr Iff.rfl ?_ ?_)
    · simp [State.places]
    · simp only [State.places, List.map_map]
      refine List.map_congr_left (fun e _ => ?_)
      simp only [Function.comp_apply]
      split_ifs <;> rfl
  have hchan : ∀ d, (closeChannel s c).chan d = if d = c then
      { s.chan c with state := .closing, held := false, watch := none, purger := none } else s.chan d := by
    intro d
    have h : (closeChannel s c).chan d = ((doomList s c).modChan c
        (fun ch => { ch with state := .closing, held := false, watch := none, purger := none })).chan d := by
      unfold closeChannel
      dsimp only
      split_ifs <;> rfl
    rw [h, chan_modChan, doomList_chan, doomList_chan]
  have hmsg : ∀ r, (closeChannel s c).msg r = if r ∈ (s.chan c).list then (s.msg r).doom else s.msg r := by
    intro r
    rw [← msg_doomList]
    unfold closeChannel
    dsimp only
    split_ifs <;> rfl
  have hports : (closeChannel s c).ports = s.ports := by
    unfold closeChannel
    dsimp only
    rw [doomList_eq]
    split_ifs <;> rfl
  exact (doom_shift L hchan ⟨rfl, rfl, rfl, rfl⟩ (by simp) hmsg (sameHands_of_ports hports)).congr (by rw [hwork])

theorem startPurge_shift (L : s.places.Core σ) (a : AttRef) : Shift s (startPurge s c a)
    (s.places.doom c .purging (s.chan c).held (s.places.work ++ [(c, true)])) := by
  have hwork : (startPurge s c a).places.work = s.places.work ++ [(c, true)] := by
    show (startPurge s c a).reclaim.map _ = _
    rw [reclaim_startPurge, List.map_append]
    rfl
  exact (doom_shift L (chan_startPurge a) ⟨rfl, rfl, rfl, rfl⟩ (by simp) (fun r => msg_doomList s c r)
    (sameHands_of_ports (ports_startPurge a))).congr (by rw [hwork])

/-! ## The laws -/

theorem Places.Core.workClosed {P : Places} (L : P.Core σ) (hc : P.state c = .opened ∨ P.state c = .purging) :
    Places.Works (Function.update P.state c .closing) (P.workClosed c) := by
  unfold Places.workClosed
  split_ifs with ho
  · exact L.works.join (by simp [ho]) (Or.inr ⟨rfl, rfl⟩)
  · exact L.works.recount (hc.resolve_left ho)

/-- PURGE (R45). -/
theorem Fine.startPurge (F : Fine σ s) (ho : (s.chan c).state = .opened) (a : AttRef) : Leads σ s (startPurge s c a) := by
  have L := F.good.laws
  refine (startPurge_shift L.toCore a).leads F ⟨L.toCore.doom (Or.inl rfl) (Or.inl ho) (by simp) ?_, fun d hd => ?_⟩
    (Places.quiet_doom (by simp) F.quiet)
  · exact L.works.join (show _ ∧ _ by rw [show s.places.state c = _ from ho]; simp) (Or.inl ⟨rfl, rfl⟩)
  · refine L.seated d ?_
    simp only [Places.doom, Function.update_apply] at hd
    split_ifs at hd with hdc
    · exact Or.inl (hdc ▸ ho)
    · exact hd

end Sys2Proof.Machine
end

section
/-! SUPPORT. DETACH keeps the laws (O60): what the attachment held and awaited is settled while it still counts as seated;
then it goes, and its channel with it if it was the last (R18 to R23). -/

namespace Sys2Proof.Machine

variable {σ : Seating} {s t : State}

/-! ## What is settled -/

/-- An attachment record is freed while its seat counts still. -/
theorem Fine.setAtt (F : Fine σ s) (a : AttRef) (x : Option Attachment) : Fine σ (s.setAtt a x) := by
  have hparked : ∀ q, ((s.setAtt a x).port q).parked = (s.port q).parked := (setAtt_sameStores s a x).parked
  have hplaces : (s.setAtt a x).places = s.places := by
    simp only [State.places, slot_setAtt, hparked, chan_setAtt, msg_setAtt, reclaim_setAtt]
  exact ⟨⟨hplaces.symm ▸ F.good.laws, ⟨F.good.tidy.chan, F.good.tidy.msg⟩⟩, fun d => hplaces.symm ▸ F.quiet d⟩

section
variable (F : Sound s) {a : AttRef} {u : Attachment} (hu : s.att a = some u)
include F hu

theorem Fine.letGo_attachment : Fine s.seats (letGo s u.channel a) := by
  have G : Fine s.seats (s.setAtt a none) := F.setAtt a none
  have hseat : s.seats a = some (u.channel, u.role) := seats_eq_some_iff.mpr ⟨u, hu, rfl, rfl⟩
  unfold Machine.letGo
  split
  · next w hw =>
    split_ifs with hh
    · have hparked : ((s.setAtt a none).port a.port).parked = some w := ((setAtt_sameStores s a none).parked a.port).trans hw
      refine (Fine.dropParked hparked (x := u.role) ?_ G).fine
      rw [hh]
      exact hseat
    · exact G
  · exact G

theorem Fine.settleAll : Fine s.seats (settleAll s u a) := by
  have H := (F.letGo_attachment hu).handBackThrough a
  unfold Machine.settleAll
  split
  · exact (H.fine.leavePending (seats_eq_some_iff.mpr ⟨u, hu, rfl, rfl⟩)).fine
  · exact H.fine

end

theorem alike_refl (c : ChanId) (s : State) : Alike c s s :=
  { SameHands.refl s with
    chan := fun _ => rfl
    msg := fun _ => rfl
    lease := fun _ => rfl
    moves := moves_of_same c rfl (fun _ _ => rfl) (fun _ => ⟨rfl, rfl, rfl, rfl⟩) }

/-! ## Nothing is left of the attachment -/

section
variable {p : Port} {h : Handle} {u : Attachment} (L : Leaving s p h u) (M : Settled s t p h u.channel)
include L M

/-- No record is bound to a waiter of the port itself: a port has one consumer at a channel. -/
theorem Leaving.handsLeft_self : (t.port p).parked = s.parkedLeft p (oneHandle h) p ∧
    ∀ i, t.slot p i = s.slotLeft p (oneHandle h) p i := by
  refine (M.hands p).2 (fun c x hx hxp => ?_)
  by_cases hc : c = u.channel
  · subst hc
    unfold State.bindsBack at hx
    split_ifs at hx
    · simp at hx
    · obtain ⟨hcoming, hwaiter⟩ := List.of_mem_zip hx
      obtain ⟨hgo, hb⟩ := List.mem_filter.mp hcoming
      simp only [Bool.and_eq_true, beq_iff_eq] at hb
      exact (L.waiter_consumer hgo hb.1.2 hwaiter).1 hxp
  · rw [L.bindsBack_of_ne hc] at hx
    simp at hx

theorem Leaving.grips_nothing (i : Slot) (r : RecId) (v : Ticket) : t.places.hand p i ≠ some (r, h, v) := by
  intro hg
  obtain ⟨lease, hslot⟩ := hand_eq_some_iff.mp hg
  rw [(L.handsLeft_self M).2, State.slotLeft] at hslot
  split at hslot
  · next hs =>
    split_ifs at hslot with hl
    cases hslot
    simp at hl
  · split_ifs at hslot
  · cases hslot

theorem Leaving.waits_nowhere (i : Slot) : t.places.wait p ≠ some (h, i) := by
  intro hw
  obtain ⟨w, hparked, hh, -⟩ := wait_eq_some_iff.mp hw
  rw [(L.handsLeft_self M).1, State.parkedLeft] at hparked
  split_ifs at hparked with hl
  exact hl (waiter_leaves_iff.mpr ⟨rfl, w, hparked, hh⟩)

theorem Leaving.awaits_nothing (r : RecId) : ⟨p, h⟩ ∉ t.places.pending r := by
  show ⟨p, h⟩ ∉ (t.msg r).pending
  rw [M.msg]
  by_cases hpend : ⟨p, h⟩ ∈ (s.msg r).pending
  · have hk := L.fanout_of_subscriber (L.awaiting hpend).1
    rw [(L.recordMid_of_awaited hpend hk).2]
    split_ifs
    · simp [MsgRecord.free]
    · simp
    · simp [mem_eraseRef]
  · exact L.notMem_pending_recordMid hpend

omit L in
theorem Settled.seats : t.seats = Function.update s.seats ⟨p, h⟩ none := by
  funext b
  rw [Function.update_apply, State.seats, M.att]
  split_ifs
  · rfl
  · rw [Option.map_map]
    refine congrArg (fun g => (s.att b).map g) (funext fun v => ?_)
    obtain ⟨hc, hr, -⟩ := heard_keeps s p (oneHandle h) (s.lettingGo p (oneHandle h)) v
    simp only [Function.comp_apply, hc, hr]

end

/-! ## The last attachment -/

/-- The laws, but for the attachment that every channel in use has, which one channel may lack. -/
structure Almost (c : ChanId) (s : State) : Prop where
  core : s.places.Core s.seats
  seated : ∀ d, d ≠ c → s.places.state d = .opened ∨ s.places.state d = .purging → ∃ a x, s.seats a = some (d, x)
  tidy : s.tidy
  quiet : ∀ d, s.places.Quiet d

theorem Almost.still {c : ChanId} (A : Almost c s) (h : Still s t) : Almost c t where
  core := by rw [h.places, h.seats]; exact A.core
  seated d := by rw [h.places, h.seats]; exact A.seated d
  tidy := h.tidy A.tidy
  quiet d := h.places.symm ▸ A.quiet d

theorem unseated_of_isEmpty {c : ChanId} (hnil : (s.attachmentsOf c).isEmpty = true) (a : AttRef) (y : Role) :
    s.seats a ≠ some (c, y) := by
  intro ha
  obtain ⟨u, hu, hc, -⟩ := seats_eq_some_iff.mp ha
  have hmem : a ∈ s.attachmentsOf c := mem_attachmentsOf_iff.mpr ⟨u, hu, hc⟩
  simp [List.isEmpty_iff.mp hnil] at hmem

/-- A channel whose last attachment has gone is freed, or closes (R22, R23). -/
theorem Almost.closeIfLast {c : ChanId} (A : Almost c s) : Sound (closeIfLast s c) := by
  have hstate : ∀ d, s.places.state d = (s.chan d).state := fun _ => rfl
  unfold Machine.closeIfLast
  split_ifs with hlast hempty
  · obtain ⟨hopen, hnil⟩ := hlast
    have hno := unseated_of_isEmpty hnil
    have H := freeChannel_shift s c
    show Fine (freeChannel s c).seats _
    rw [H.seats]
    refine H.fine ⟨A.core.renew hno (List.isEmpty_iff.mp hempty) ?_, fun d hd => ?_⟩ A.tidy (Places.quiet_renew A.quiet)
    · exact A.core.works.leave (by simp)
    · have hdc : d ≠ c := by
        rintro rfl
        simp [Places.renew] at hd
      refine A.seated d hdc ?_
      simpa [Places.renew, hdc] using hd
  · obtain ⟨hopen, hnil⟩ := hlast
    have hno := unseated_of_isEmpty hnil
    have H := closeChannel_shift (c := c) A.core
    show Fine (closeChannel s c).seats _
    rw [H.seats]
    refine H.fine ⟨A.core.doom (Or.inr rfl) hopen (fun _ => hno) ?_, fun d hd => ?_⟩ A.tidy
      (Places.quiet_doom (by simp) A.quiet)
    · exact A.core.workClosed hopen
    · have hdc : d ≠ c := by
        rintro rfl
        simp [Places.doom] at hd
      refine A.seated d hdc ?_
      simpa [Places.doom, hdc] using hd
  · refine ⟨⟨⟨A.core, fun d hd => ?_⟩, A.tidy⟩, A.quiet⟩
    by_cases hdc : d = c
    · subst hdc
      have hne : (s.attachmentsOf d).isEmpty ≠ true := fun hnil => hlast ⟨hd, hnil⟩
      obtain ⟨b, hb⟩ := List.exists_mem_of_ne_nil _ (fun hnil => hne (List.isEmpty_iff.mpr hnil))
      obtain ⟨v, hv, hc⟩ := mem_attachmentsOf_iff.mp hb
      exact ⟨b, v.role, seats_eq_some_iff.mpr ⟨v, hv, hc, rfl⟩⟩
    · exact A.seated d hdc hd

/-- DETACH (R18). -/
theorem sound_detach (F : Sound s) (a : AttRef) : Sound (detach s a) := by
  cases hu : s.att a with
  | none =>
    unfold detach
    rw [hu]
    exact F
  | some u =>
    obtain ⟨p, h⟩ := a
    have L := leaving_of_lawful hu (sound_iff.mp F)
    have M := settled_settleAll L (alike_refl u.channel s)
    have H := F.settleAll hu
    have hseat : s.seats ⟨p, h⟩ = some (u.channel, u.role) := seats_eq_some_iff.mpr ⟨u, hu, rfl, rfl⟩
    have A : Almost u.channel (settleAll s u ⟨p, h⟩) := by
      refine ⟨?_, fun d hd ho => ?_, H.good.tidy, H.quiet⟩
      · rw [M.seats]
        exact H.good.laws.unseat (L.grips_nothing M) (L.waits_nowhere M) (L.awaits_nothing M)
      · obtain ⟨b, x, hb⟩ := H.good.laws.seated d ho
        have hne : b ≠ ⟨p, h⟩ := by
          rintro rfl
          rw [hseat, Option.some.injEq, Prod.mk.injEq] at hb
          exact hd hb.1.symm
        exact ⟨b, x, by rw [M.seats, Function.update_apply, if_neg hne, hb]⟩
    rw [detach_eq hu]
    exact (A.still (modChan_still _ _ _ rfl (H.good.live_of_seat hseat))).closeIfLast

end Sys2Proof.Machine
end

section
/-! SUPPORT. HELLO and ticks keep the laws (O60): what they write of ports and records apart from the places, and the session
teardown (R181). -/

namespace Sys2Proof.Machine

variable {s t : State}

/-! ## Passing time and receipt flags -/

/-- Places, attachments and free records stay where every part of the state keeps what the laws speak of. -/
theorem still_of_fields (hchan : ∀ c, t.chan c = s.chan c)
    (hmsg : ∀ r, (t.msg r).place = (s.msg r).place ∧ ((s.msg r).state = .free → t.msg r = s.msg r))
    (hslot : ∀ p i, (t.slot p i).grip = (s.slot p i).grip ∧ (t.slot p i == .reserved) = (s.slot p i == .reserved))
    (hparked : ∀ p, (t.port p).parked.map (fun w => (w.handle, w.slot)) = (s.port p).parked.map (fun w => (w.handle, w.slot)))
    (hatt : ∀ a, (t.att a).map (fun u => (u.channel, u.role)) = (s.att a).map (fun u => (u.channel, u.role)))
    (hreclaim : t.reclaim = s.reclaim) : Still s t := by
  have hplace := fun r => (hmsg r).1
  have hgrip := fun p i => (hslot p i).1
  have hreserved := fun p i => (hslot p i).2
  simp only [MsgRecord.place, Prod.mk.injEq] at hplace
  refine ⟨?_, ?_, fun hs => ⟨fun c hc => ?_, fun r hr => ?_⟩⟩
  · simp only [State.places, hchan, hplace, hgrip, hreserved, hparked, hreclaim]
  · funext a
    simp only [State.seats, hatt]
  · rw [hchan] at hc ⊢
    exact hs.chan c hc
  · have hfree : (s.msg r).state = .free := (hplace r).1.symm.trans hr
    rw [(hmsg r).2 hfree]
    exact hs.msg r hfree

theorem place_lowerLifetime (k : Nat) (m : MsgRecord) : (lowerLifetime k m).place = m.place := by
  unfold lowerLifetime
  split
  · rfl
  · split <;> rfl

/-- Passing time moves nothing (R1). -/
theorem advance_still (n : Nat) (s : State) : Still s (advance n s) := by
  refine still_of_fields (fun _ => rfl) (fun r => ?_) (fun p i => ?_) (fun p => ?_) (fun a => ?_) rfl
  · rw [msg_advance]
    split_ifs with h1 h2
    · exact ⟨rfl, fun _ => rfl⟩
    · refine ⟨place_lowerLifetime _ _, fun hf => ?_⟩
      simp [State.lifetimeRunning, hf] at h2
    · exact ⟨rfl, fun _ => rfl⟩
  · rw [slot_advance]
    cases s.slot p i <;> exact ⟨rfl, rfl⟩
  · have h : ((advance n s).port p).parked = (s.port p).parked.map (fun w => { w with timer := w.timer - n }) := by
      simp [advancePort]
    rw [h, Option.map_map]
    rfl
  · rw [att_advance, Option.map_map]
    rfl

theorem place_disown (p : Port) (m : MsgRecord) : (m.disown p).place = m.place := by
  unfold MsgRecord.disown
  split <;> rfl

/-- A port's queues and receipt flags are none of the laws' matter (R160, R181). -/
theorem emptyQueues_still (s : State) (p : Port) : Still s (emptyQueues s p) := by
  have h1 : Still s (s.modPort p (fun q => { q with events := [], receipts := [], reservations := 0 })) :=
    modPort_still s p _ ⟨rfl, rfl, rfl⟩
  refine h1.trans (still_of_fields (fun _ => rfl) (fun r => ?_) (fun _ _ => ⟨rfl, rfl⟩) (fun _ => rfl) (fun _ => rfl) rfl)
  have hmsg : (emptyQueues s p).msg r = (s.msg r).disown p := Table.get_mapAll _ _ (disown_free p) _ _
  rw [hmsg]
  refine ⟨place_disown p _, fun hf => ?_⟩
  unfold MsgRecord.disown
  rw [if_neg (fun h => h.1 hf)]
  rfl

/-! ## Sound states -/

theorem Leads.sound (h : Leads s.seats s t) : Sound t := by
  show Fine t.seats t
  rw [h.seats]
  exact h.fine

theorem foldl_sound {α : Type} {f : State → α → State} (h : ∀ s a, Sound s → Sound (f s a)) (l : List α) (F : Sound s) :
    Sound (l.foldl f s) := by
  induction l generalizing s with
  | nil => exact F
  | cons a rest ih => exact ih (h s a F)

theorem sound_dropOwnParked (F : Sound s) (p : Port) : Sound (dropOwnParked s p) := by
  unfold dropOwnParked
  split
  · next c w hw =>
    obtain ⟨hparked, x, hx⟩ := parkedOn_eq_some_iff.mp hw
    exact (Fine.dropParked hparked hx F).sound
  · exact F

/-- Session teardown (R181). -/
theorem sound_teardown (F : Sound s) (p : Port) : Sound (teardown s p) := by
  have hback : Sound (handBackAll (dropOwnParked s p) p) := ((sound_dropOwnParked F p).handBackAll p).sound
  exact (emptyQueues_still _ p).sound (foldl_sound (fun _ h G => sound_detach G ⟨p, h⟩) _ hback)

/-- HELLO (R179 to R181). -/
theorem sound_helloBody (F : Sound s) (p : Port) (lease : Word) (options : Byte) : Sound (helloBody p lease options s).state := by
  have hopen : ∀ u : State, Sound u → Sound (openSession u p lease (optionAttention options)) :=
    fun u hu => (modPort_still u p _ ⟨rfl, rfl, rfl⟩).sound hu
  unfold helloBody
  split_ifs
  · exact hopen _ (sound_teardown F p)
  · exact hopen _ F
  · exact F

end Sys2Proof.Machine
end

section
/-! SUPPORT. CREATE and ATTACH keep the laws (O60): a FREE channel is made, and an attachment comes (R15, R17). -/

namespace Sys2Proof.Machine

variable {s t : State}

/-- The queue stays where a channel outside it stays outside. -/
theorem Places.Works.outside {state : ChanId → ChanState} {work : List (ChanId × Bool)} (W : Places.Works state work)
    {c : ChanId} {x : ChanState} (hc : state c ≠ .purging ∧ state c ≠ .closing) (hx : x ≠ .purging ∧ x ≠ .closing) :
    Places.Works (Function.update state c x) work := by
  have hno : c ∉ work.map Prod.fst := fun h => by
    rcases (W.busy c).mpr h with h | h
    · exact hc.1 h
    · exact hc.2 h
  have hsame : work.filter (fun e => e.1 != c) = work := by
    refine List.filter_eq_self.mpr (fun e he => ?_)
    have hec : e.1 ≠ c := fun hec => hno (hec ▸ List.mem_map_of_mem he)
    simpa using hec
  exact hsame ▸ W.leave hx

theorem setAtt_places (s : State) (a : AttRef) (x : Option Attachment) : (s.setAtt a x).places = s.places := by
  have hparked : ∀ q, ((s.setAtt a x).port q).parked = (s.port q).parked := (setAtt_sameStores s a x).parked
  simp only [State.places, slot_setAtt, hparked, chan_setAtt, msg_setAtt, reclaim_setAtt]

theorem seats_setAtt (s : State) (a : AttRef) (v : Attachment) :
    (s.setAtt a (some v)).seats = Function.update s.seats a (some (v.channel, v.role)) := by
  funext b
  rw [Function.update_apply, State.seats, att_setAtt]
  split_ifs <;> rfl

theorem seats_eq_none_iff {a : AttRef} : s.seats a = none ↔ s.att a = none := Option.map_eq_none_iff

/-! ## An attachment comes -/

section
variable {c : ChanId} {p : Port} {h : Handle} (hfree : s.att ⟨p, h⟩ = none)
include hfree

theorem Almost.seat (A : Almost c s) {v : Attachment} (hv : v.channel = c)
    (hc : (s.chan c).state = .opened ∨ (s.chan c).state = .purging) (hx : roleSuits v.role (s.chan c).kind = true)
    (hone : ∀ k, s.seats ⟨p, k⟩ ≠ some (c, v.role)) : Sound (s.setAtt ⟨p, h⟩ (some v)) := by
  have hplaces := setAtt_places s ⟨p, h⟩ (some v)
  have hnone := seats_eq_none_iff.mpr hfree
  subst hv
  refine ⟨⟨⟨?_, fun d hd => ?_⟩, ⟨A.tidy.chan, A.tidy.msg⟩⟩, fun d => hplaces.symm ▸ A.quiet d⟩
  · rw [hplaces, seats_setAtt]
    exact A.core.seat hnone hc hx hone
  · rw [hplaces] at hd
    rw [seats_setAtt]
    by_cases hdc : d = v.channel
    · exact ⟨⟨p, h⟩, v.role, by rw [Function.update_self, hdc]⟩
    · obtain ⟨b, y, hb⟩ := A.seated d hdc hd
      have hne : b ≠ ⟨p, h⟩ := by
        rintro rfl
        simp [hnone] at hb
      exact ⟨b, y, by rw [Function.update_of_ne hne, hb]⟩

end

theorem Fine.almost (F : Sound s) (c : ChanId) : Almost c s :=
  ⟨F.good.laws.toCore, fun d _ => F.good.laws.seated d, F.good.tidy, F.quiet⟩

/-! ## CREATE (R15) -/

section
variable {c : ChanId} (F : Sound s) (hc : (s.chan c).state = .free)
include F hc

/-- A FREE channel has no attachments. -/
theorem Fine.unseated_of_free (a : AttRef) (y : Role) : s.seats a ≠ some (c, y) := fun ha => F.good.live_of_seat ha hc

theorem Fine.almost_made {ch : Channel} (ho : ch.state = .opened)
    (hch : ch.list = [] ∧ ch.waiters = [] ∧ ch.held = false) : Almost c (s.modChan c (fun _ => ch)) := by
  have H : Shift s (s.modChan c (fun _ => ch)) (s.places.renew c ch.state ch.kind ch.depthLimit s.places.work) :=
    renew_shift (fun d => chan_modChan s c (fun _ => ch) d) hch (fun h => by simp [ho] at h) (fun _ => rfl)
      (sameHands_of_ports rfl)
  have hlist : s.places.list c = [] := F.good.laws.lists.free c hc
  refine ⟨?_, fun d hd hopen => ?_, H.tidy F.good.tidy, fun d => H.places.symm ▸ Places.quiet_renew F.quiet d⟩
  · rw [H.places, H.seats]
    refine F.good.laws.toCore.renew (F.unseated_of_free hc) hlist ?_
    have hfree : s.places.state c = .free := hc
    exact F.good.laws.works.outside (by simp [hfree]) (by simp [ho])
  · rw [H.places] at hopen
    rw [H.seats]
    refine F.good.laws.seated d ?_
    simpa [Places.renew, hd] using hopen

end

theorem roleSuits_of_createArgs {name : Word} {kind depth mark policy role : Byte} {code : AccessCode} {g : CreateArgs}
    (h : createArgs name kind depth mark policy code role = some g) : roleSuits g.role g.kind = true := by
  unfold createArgs at h
  split at h
  · split at h
    · next hr =>
      cases h
      exact hr.2.2.2.2
    · cases h
  · cases h

theorem sound_createBody (F : Sound s) (p : Port) (name : Word) (kind depth mark policy : Byte) (code : AccessCode)
    (role : Byte) : Sound (createBody p name kind depth mark policy code role s).state := by
  unfold createBody
  split
  · exact F
  split
  · exact F
  next g hg =>
  split
  · exact F
  split
  · exact F
  next h hh =>
  split
  · exact F
  next c hc =>
  have hfree := (freeChannelOf_eq_some_iff.mp hc).1
  have A := F.almost_made hfree (ch := { Channel.free with
      state := .opened, name := g.name, kind := g.kind, depthLimit := g.depthLimit, roomMark := g.roomMark,
      policy := g.policy, code := g.code }) rfl ⟨rfl, rfl, rfl⟩
  refine A.seat ?_ (v := Attachment.fresh c g.role) rfl (Or.inl ?_) ?_ (fun k => F.unseated_of_free hfree _ _)
  · exact (freeHandleOf_eq_some_iff.mp hh).1
  · rw [chan_modChan_self]
  · rw [chan_modChan_self]
    exact roleSuits_of_createArgs hg

/-! ## ATTACH (R17) -/

theorem replay_shift (s : State) (c : ChanId) (a : AttRef) : Shift s (replay s c a) (s.places.replay c a) := by
  have hmsg := msg_replay s c a
  have hplace : ∀ r, (((replay s c a).msg r).state, ((replay s c a).msg r).ticket, ((replay s c a).msg r).channel,
      ((replay s c a).msg r).holders, ((replay s c a).msg r).receipted) =
      ((s.msg r).state, (s.msg r).ticket, (s.msg r).channel, (s.msg r).holders, (s.msg r).receipted) := by
    intro r
    rw [hmsg]
    unfold MsgRecord.joinedBy
    split_ifs <;> rfl
  simp only [Prod.mk.injEq] at hplace
  have hands : SameHands s (replay s c a) := by
    rw [replay_eq]
    exact sameHands_of_ports rfl
  have hchan : ∀ d, (replay s c a).chan d = s.chan d := by
    rw [replay_eq]
    exact fun _ => rfl
  have hreclaim : (replay s c a).reclaim = s.reclaim := by rw [replay_eq]
  obtain ⟨hhand, hreserved, hwait⟩ := hands.places
  refine ⟨?_, hands.seats, fun hs => ⟨fun d hd => ?_, fun r hr => ?_⟩⟩
  · refine Places.ext ?_ ?_ ?_ ?_ ?_ ?_ ?_ ?_ ?_ ?_ ?_ ?_ hhand hreserved hwait ?_
    all_goals simp only [State.places, Places.replay, hchan, hplace, hreclaim]
    funext r
    rw [hmsg]
    unfold MsgRecord.joinedBy
    split_ifs <;> simp_all
  · rw [hchan] at hd ⊢
    exact hs.chan d hd
  · have hfree : (s.msg r).state = .free := (hplace r).1.symm.trans hr
    have hkept : (replay s c a).msg r = s.msg r := by
      rw [hmsg]
      unfold MsgRecord.joinedBy
      split_ifs <;> simp_all
    rw [hkept]
    exact hs.msg r hfree

/-- A new subscriber that nothing awaits and that waits nowhere joins the pending sets (R117). -/
theorem Fine.replay (F : Sound s) {c : ChanId} {a : AttRef} (ha : s.seats a = some (c, .subscriber))
    (hpend : ∀ r, a ∉ s.places.pending r) (hhold : ∀ r, a ∉ s.places.holders r)
    (hwait : ∀ i, s.places.wait a.port ≠ some (a.handle, i)) : Sound (replay s c a) := by
  have H := replay_shift s c a
  refine Leads.sound (H.leads F ⟨F.good.laws.toCore.replay ha hpend hhold, F.good.laws.seated⟩ (fun d => ?_))
  refine ⟨(F.quiet d).point, fun ho hk hh q hq k i hw r hr hin => ?_⟩
  have hne : (⟨q, k⟩ : AttRef) ≠ a := by
    rintro rfl
    exact hwait i hw
  refine (F.quiet d).fanout ho hk hh q hq k i hw r hr ?_
  simp only [Places.replay] at hin
  split_ifs at hin
  · exact ((mem_insertRef _ _ _).mp hin).resolve_left hne
  · exact hin

theorem attachArgs_replay {name : Word} {role options : Byte} {x : Role} (h : attachArgs name role options = some (x, true)) :
    x = .subscriber := by
  unfold attachArgs at h
  split at h
  · split at h
    · next hr =>
      cases h
      exact hr.2 rfl
    · cases h
  · cases h

theorem sound_joinChannel (F : Sound s) {p : Port} {h : Handle} {c : ChanId} {x : Role} {again : Bool}
    (hfree : s.att ⟨p, h⟩ = none) (hc : (s.chan c).state = .opened ∨ (s.chan c).state = .purging)
    (hx : roleSuits x (s.chan c).kind = true) (hone : s.holdsRole p c x = false) (hagain : again = true → x = .subscriber) :
    Sound (joinChannel s p h c x again) := by
  have hrole : ∀ k, s.seats ⟨p, k⟩ ≠ some (c, x) := by
    intro k hk
    obtain ⟨u, hu, hcu, hxu⟩ := seats_eq_some_iff.mp hk
    have hin : s.holdsRole p c x = true := holdsRole_iff.mpr ⟨k, by simp [State.isIn, hu, Attachment.isIn, hcu, hxu]⟩
    simp [hone] at hin
  have G : Sound (s.setAtt ⟨p, h⟩ (some (Attachment.fresh c x))) :=
    Almost.seat hfree (F.almost c) (v := Attachment.fresh c x) rfl hc hx hrole
  have hport : Still (s.setAtt ⟨p, h⟩ (some (Attachment.fresh c x))) (seated s p h c x) :=
    modPort_still _ p (fun q => { q with badCodes := 0 }) ⟨rfl, rfl, rfl⟩
  have K : Sound (seated s p h c x) := hport.sound G
  have hplaces : (seated s p h c x).places = s.places :=
    hport.places.trans (setAtt_places s _ _)
  have hseats : (seated s p h c x).seats ⟨p, h⟩ = some (c, x) := by
    rw [hport.seats, seats_setAtt, Function.update_self]
    rfl
  have L := F.good.laws.toCore
  have hnone := seats_eq_none_iff.mpr hfree
  cases again with
  | false => exact K
  | true =>
    obtain rfl := hagain rfl
    refine Fine.replay K hseats ?_ ?_ ?_
    all_goals rw [hplaces]
    · exact L.not_pending_of_free hnone
    · exact L.not_holder_of_free hnone
    · exact fun i => L.not_waiting_of_free hnone

theorem sound_attachBody (F : Sound s) (p : Port) (name : Word) (role : Byte) (code : AccessCode) (options : Byte) :
    Sound (attachBody p name role code options s).state := by
  unfold attachBody
  split
  · exact F
  split
  · exact F
  next x again hargs =>
  split
  · exact F
  next c hc =>
  dsimp only
  split_ifs with hclosing hsuit hrole hcode
  · exact F
  · exact F
  · exact F
  · refine (modPort_still s p countBadCode ?_).sound F
    unfold countBadCode
    split <;> exact ⟨rfl, rfl, rfl⟩
  split
  · exact F
  next h hh =>
  refine sound_joinChannel F (freeHandleOf_eq_some_iff.mp hh).1 ?_ (by simpa using hsuit) (by simpa using hrole)
    (fun ha => attachArgs_replay (ha ▸ hargs))
  have hlive := (named_of_lookupName hc).1
  cases hst : (s.chan c).state <;> simp_all

end Sys2Proof.Machine
end

section
/-! SUPPORT. TAKE, RELEASE, RETURN, CANCEL_WAIT and PURGE keep the laws (O60). -/

namespace Sys2Proof.Machine

variable {σ : Seating} {s t : State}

/-! ## Takes -/

theorem slot_of_emptySlotOf {p : Port} {i : Slot} (h : s.emptySlotOf p = some i) : s.slot p i = .empty := by
  simpa using List.find?_some h

section
variable {c : ChanId} {p : Port} {h : Handle} {i : Slot} {x : Role}

/-- A take parks where its attachment has no record to take (R96). -/
theorem Places.quiet_park {P : Places} (L : P.Core σ) (H : ∀ d, P.Quiet d) (hw : P.wait p = none)
    (hnone : P.held c = true ∨ (P.kind c = .point → P.list c = []) ∧
      (P.kind c = .fanout → ∀ r ∈ P.list c, ⟨p, h⟩ ∉ P.pending r)) (d : ChanId) : (P.park c p h i).Quiet d := by
  by_cases hd : d = c
  · subst hd
    rcases hnone with hheld | ⟨hpoint, hfanout⟩
    · exact .of_held hheld
    · refine ⟨fun _ hk _ => Or.inl (hpoint hk), fun ho hk hh q hq k j hj r hr => ?_⟩
      simp only [Places.park, Function.update_self, List.mem_append, List.mem_singleton, Function.update_apply] at hq hj
      split_ifs at hj with hqp
      · rw [Option.some.injEq, Prod.mk.injEq] at hj
        rw [hqp, ← hj.1]
        exact hfanout hk r hr
      · exact (H d).fanout ho hk hh q (hq.resolve_right hqp) k j hj r hr
  · refine (H d).calmer ⟨id, fun _ => rfl, id, fun _ => id, fun q hq => ?_, fun _ _ _ => id⟩
    have hqd : q ∈ P.waiters d := by simpa [Places.park, hd] using hq
    have hqp : q ≠ p := by
      rintro rfl
      obtain ⟨k, j, y, hk, -⟩ := L.waits.waits d q hqd
      simp [hw] at hk
    exact ⟨hqd, by simp [Places.park, hqp]⟩

variable (F : Sound s) (hx : s.seats ⟨p, h⟩ = some (c, x)) (hne : x ≠ .producer) (hi : s.slot p i = .empty)
include F hx hne

theorem Fine.role_iff : (x = .consumer ↔ (s.chan c).kind = .point) ∧ (x = .subscriber ↔ (s.chan c).kind = .fanout) := by
  have hsuit := F.good.laws.seats.suits _ _ _ hx
  change roleSuits x (s.chan c).kind = true at hsuit
  cases hk : (s.chan c).kind with
  | point =>
    rw [hk] at hsuit
    obtain rfl := role_of_point hsuit hne
    simp
  | fanout =>
    rw [hk] at hsuit
    obtain rfl := role_of_fanout hsuit hne
    simp

include hi

/-- A record is taken (R76, R77). -/
theorem Fine.takeRecord (ho : (s.chan c).state = .opened) {r : RecId} (hr : s.available c ⟨p, h⟩ x = some r) :
    Sound (takeRecord s c ⟨p, h⟩ x i r) := by
  have L := F.good.laws
  have hlive : (s.chan c).state ≠ .free := by simp [ho]
  obtain ⟨hpoint, hfanout⟩ := F.role_iff hx hne
  cases x with
  | producer => exact absurd rfl hne
  | consumer =>
    have hin : r ∈ (s.chan c).list := List.mem_of_mem_head? hr
    refine Leads.sound ((takePoint_shift (r := r) (h := h) hlive hi).leads F
      (L.takePoint hin ho (hpoint.mp rfl) hx (hand_of_slot (Or.inr hi))) (fun d => ?_))
    exact (F.quiet d).calmer (Places.calmer_takePoint d)
  | subscriber =>
    have hin : r ∈ (s.chan c).list := List.mem_of_find?_eq_some hr
    have hpend : ⟨p, h⟩ ∈ (s.msg r).pending :=
      List.contains_iff_mem.mp (List.find?_some (p := fun r => (s.msg r).pending.contains ⟨p, h⟩) hr)
    refine Leads.sound ((takeFanout_shift (r := r) (h := h) hlive hi (L.stands_of_pending hpend)).leads F
      (L.takeFanout hin (hfanout.mp rfl) hpend (hand_of_slot (Or.inr hi))) (fun d => ?_))
    exact (F.quiet d).calmer (Places.calmer_takeFanout d)

/-- A take parks (R96). -/
theorem Fine.parkTake (hw : (s.port p).parked = none) (hlive : (s.chan c).state ≠ .free)
    (hnone : (s.chan c).held = true ∨ s.available c ⟨p, h⟩ x = none) (wait : Word) : Sound (parkTake s c ⟨p, h⟩ i wait) := by
  have L := F.good.laws
  obtain ⟨hpoint, hfanout⟩ := F.role_iff hx hne
  have hwait : s.places.wait p = none := by simp [State.places, hw]
  refine Leads.sound ((parkTake_shift (a := ⟨p, h⟩) hlive hi wait).leads F (L.park hwait hx hne)
    (Places.quiet_park L.toCore F.quiet hwait ?_))
  refine hnone.imp_right (fun hav => ⟨fun hk => ?_, fun hk r hr hpend => ?_⟩)
  · obtain rfl := hpoint.mpr hk
    exact List.head?_eq_none_iff.mp hav
  · obtain rfl := hfanout.mpr hk
    have := List.find?_eq_none.mp hav r hr
    exact this (List.contains_iff_mem.mpr hpend)

end

theorem sound_takeBody (F : Sound s) (p : Port) (handle : Byte) (wait : Word) : Sound (takeBody p handle wait s).state := by
  refine withHandle_keeps F (fun h u hu => ?_)
  have hseat : s.seats ⟨p, h⟩ = some (u.channel, u.role) := seats_eq_some_iff.mpr ⟨u, hu, rfl, rfl⟩
  split
  · exact F
  next hrole =>
  split
  · exact F
  next hopen =>
  have hopen : (s.chan u.channel).state = .opened := not_not.mp hopen
  split
  · exact F
  next i hi =>
  have hslot := slot_of_emptySlotOf hi
  unfold selectTake
  split
  · next r _ hr =>
    exact (clearLagReported_still _ _).sound (F.takeRecord hseat hrole hslot hopen hr)
  · next held _ hno =>
    have hnone : (s.chan u.channel).held = true ∨ s.available u.channel ⟨p, h⟩ u.role = none := by
      by_contra hboth
      push Not at hboth
      obtain ⟨r, hr⟩ := Option.ne_none_iff_exists'.mp hboth.2
      exact hno r (by simpa using hboth.1) hr
    split
    · exact (clearLagReported_still _ _).sound F
    split
    · exact F
    next hp =>
    refine (clearLagReported_still _ _).sound (F.parkTake hseat hrole hslot ?_ (by simp [hopen]) hnone wait)
    simpa using hp

/-! ## Records that leave a hand by command -/

theorem hand_of_heldAt {p : Port} {b : Byte} {x : Held} (h : s.heldAt p b = some x) :
    s.places.hand p x.slot = some (x.record, x.handle, x.ticket) := by
  obtain ⟨-, lease, hslot⟩ := (heldAt_eq_some_iff s p b x).mp h
  exact hand_eq_some_iff.mpr ⟨lease, hslot⟩

theorem sound_releaseBody (F : Sound s) (p : Port) (slot source : Byte) (serial : Word) :
    Sound (releaseBody p slot source serial s).state := by
  unfold releaseBody
  split
  · exact F
  next x hx =>
  split
  · have hi := hand_of_heldAt hx
    exact (F.releaseRecord hi (empty_shift hi)).sound
  · exact F

theorem sound_giveBackBody (F : Sound s) (p : Port) (slot source : Byte) (serial : Word) :
    Sound (giveBackBody p slot source serial s).state := by
  unfold giveBackBody
  split
  · exact F
  next x hx =>
  split
  · have hi := hand_of_heldAt hx
    obtain ⟨c, y, hc, -⟩ := F.good.laws.hands.seat _ _ _ _ _ hi
    have hc : (s.msg x.record).channel = some c := hc
    unfold giveBackHeld
    simp only [hc]
    cases hk : (s.chan c).kind with
    | point => exact (F.handBackPoint hi hc hk (empty_shift hi)).sound
    | fanout => exact F
  · exact F

theorem sound_cancelWaitBody (F : Sound s) (p : Port) : Sound (cancelWaitBody p s).state := by
  unfold cancelWaitBody
  split
  · exact F
  · next c w hw =>
    obtain ⟨hparked, x, hx⟩ := parkedOn_eq_some_iff.mp hw
    exact (Fine.dropParked hparked hx F).sound

theorem sound_purgeBody (F : Sound s) (p : Port) (handle : Byte) : Sound (purgeBody p handle s).state := by
  refine withHandle_keeps F (fun h u hu => ?_)
  dsimp only
  split_ifs with hopen hlist
  · exact F
  · exact F
  · exact (F.startPurge (not_not.mp hopen) _).sound

end Sys2Proof.Machine
end

section
/-! SUPPORT. The held flag, and the commands that move nothing, keep the laws (O60). -/

namespace Sys2Proof.Machine

variable {σ : Seating} {s t : State} {c : ChanId}

/-! ## The held flag -/

theorem Places.Laws.flags {P : Places} (L : P.Laws σ) (f : ChanId → Bool) : ({ P with held := f } : Places).Laws σ :=
  ⟨⟨L.seats, L.waits, L.works, L.lists, L.hands, L.heldBy, L.pends, L.placed, L.deep⟩, L.seated⟩

/-- A held channel is quiet, and the flag of one channel leaves the others be. -/
theorem Places.quiet_flags {P : Places} {f : ChanId → Bool} (H : ∀ d, P.Quiet d) (hf : ∀ d, f d = true ∨ f d = P.held d)
    (d : ChanId) : ({ P with held := f } : Places).Quiet d := by
  rcases hf d with h | h
  · exact .of_held h
  · exact (H d).calmer ⟨id, fun _ => rfl, fun hh => h.symm.trans hh, fun _ => id, fun _ hp => ⟨hp, rfl⟩, fun _ _ _ => id⟩

theorem held_shift (s : State) (b : Bool) (hc : (s.chan c).state ≠ .free) :
    Shift s (s.modChan c (fun ch => { ch with held := b }))
    { s.places with held := Function.update s.places.held c b } := by
  have hchan : ∀ d, (s.modChan c (fun ch => { ch with held := b })).chan d =
      if d = c then { s.chan c with held := b } else s.chan d := chan_modChan s c _
  refine ⟨?_, rfl, fun hs => ⟨tidy_of_chan hchan (fun h => absurd h hc) hs, hs.msg⟩⟩
  exact Places.ext (field_kept hchan Channel.state rfl) (field_kept hchan Channel.kind rfl)
    (field_kept hchan Channel.depthLimit rfl) (field_kept hchan Channel.list rfl) (field_kept hchan Channel.waiters rfl)
    (field_update hchan Channel.held) rfl rfl rfl rfl rfl rfl rfl rfl rfl rfl

/-- A channel is held, and its lifetimes are paused (R138). -/
theorem setHeld_shift (hc : (s.chan c).state ≠ .free) (hlist : ∀ r ∈ (s.chan c).list, (s.msg r).state ≠ .free) :
    Shift s (setHeld s c) { s.places with held := Function.update s.places.held c true } := by
  have hmsg := msg_foldl_modMsg (f := fun m => { m with expiring := false }) (fun _ => rfl) (s.chan c).list
    (s.modChan c (fun ch => { ch with held := true }))
  have heq := foldl_modMsg_eq (fun m => { m with expiring := false }) (s.chan c).list
    (s.modChan c (fun ch => { ch with held := true }))
  have hrest : Still (s.modChan c (fun ch => { ch with held := true })) (setHeld s c) := by
    refine still_of_fields (fun d => ?_) (fun r => ?_) (fun q i => ?_) (fun q => ?_) (fun a => ?_) ?_
    case refine_2 =>
      unfold setHeld
      rw [hmsg]
      split_ifs with hr
      · exact ⟨rfl, fun hf => absurd hf (hlist r hr)⟩
      · exact ⟨rfl, fun _ => rfl⟩
    all_goals
      unfold setHeld
      rw [heq]
    · rfl
    · exact ⟨rfl, rfl⟩
    · rfl
    · rfl
  exact (held_shift s true hc).still hrest

theorem sound_holdBody (F : Sound s) (p : Port) (handle : Byte) : Sound (holdBody p handle s).state := by
  refine withHandle_keeps F (fun h u hu => ?_)
  dsimp only
  split_ifs with hopen hheld
  · exact F
  · exact F
  · have hlive : (s.chan u.channel).state ≠ .free := by simp [not_not.mp hopen]
    have H := setHeld_shift hlive (fun r => F.good.live_record)
    refine (announce_still _ _ _).sound (Leads.sound (H.leads F (F.good.laws.flags _) (Places.quiet_flags F.quiet (fun d => ?_))))
    rw [Function.update_apply]
    split_ifs
    · exact Or.inl rfl
    · exact Or.inr rfl

/-- The watch compare of a post moves nothing, but may hold the channel (R135, R136). -/
theorem watchCompare_shift (hc : (s.chan c).state ≠ .free) (hlist : ∀ r ∈ (s.chan c).list, (s.msg r).state ≠ .free)
    (tag : Word) (k : Ticket) : ∃ f : ChanId → Bool, (∀ d, d ≠ c → f d = s.places.held d) ∧
      (s.places.held c = true → f c = true) ∧ Shift s (watchCompare s c tag k) { s.places with held := f } := by
  have hnone : ∃ f : ChanId → Bool, (∀ d, d ≠ c → f d = s.places.held d) ∧
      (s.places.held c = true → f c = true) ∧ Shift s s { s.places with held := f } :=
    ⟨s.places.held, fun _ _ => rfl, id, (Still.refl s).shift⟩
  unfold watchCompare
  split
  · exact hnone
  next w _ =>
  split
  swap
  · exact hnone
  obtain ⟨f, hf, hfc, H⟩ : ∃ f : ChanId → Bool, (∀ d, d ≠ c → f d = s.places.held d) ∧ (s.places.held c = true → f c = true) ∧
      Shift s (if (s.chan c).held then s else setHeld s c) { s.places with held := f } := by
    split
    · exact hnone
    · exact ⟨Function.update s.places.held c true, fun d hd => Function.update_of_ne hd _ _, fun _ => Function.update_self _ _ _,
        setHeld_shift hc hlist⟩
  have H2 := H.still (queueEvent_still (if (s.chan c).held then s else setHeld s c) w.owner.port
    ⟨.watchHit, ((if (s.chan c).held then s else setHeld s c).chan c).name, some w.owner.handle, none, some k, none⟩)
  have H3 : ∀ y : State, Shift s y { s.places with held := f } → Shift s (if (s.chan c).held then y else
      announce y c .channelHeld) { s.places with held := f } := by
    intro y hy
    split
    · exact hy
    · exact hy.still (announce_still _ _ _)
  have H4 : ∀ y : State, Shift s y { s.places with held := f } → Shift s (if w.rearm then y else
      y.modChan c (fun ch => { ch with watch := none })) { s.places with held := f } := by
    intro y hy
    split
    · exact hy
    · refine hy.still (modChan_still y c _ rfl ?_)
      rw [show (y.chan c).state = _ from congrFun (congrArg Places.state hy.places) c]
      exact hc
  exact ⟨f, hf, hfc, H4 _ (H3 _ H2)⟩

/-! ## Commands that move nothing -/

theorem sound_watchBody (F : Sound s) (p : Port) (handle : Byte) (tag mask : Word) (rearm : Byte) :
    Sound (watchBody p handle tag mask rearm s).state := by
  refine withHandle_keeps F (fun h u hu => ?_)
  split
  · exact F
  dsimp only
  split_ifs with hopen hbusy
  · exact F
  · exact F
  · exact (modChan_still _ _ _ rfl (by simp [not_not.mp hopen])).sound F

theorem sound_unwatchBody (F : Sound s) (p : Port) (handle : Byte) : Sound (unwatchBody p handle s).state := by
  refine withHandle_keeps F (fun h u hu => ?_)
  have hlive := F.good.live_of_seat (seats_eq_some_iff.mpr ⟨u, hu, rfl, rfl⟩)
  split
  · exact (modChan_still _ _ _ rfl hlive).sound F
  · exact F

theorem sound_readStatsBody (F : Sound s) (p : Port) (handle clear : Byte) : Sound (readStatsBody p handle clear s).state := by
  refine withHandle_keeps F (fun h u hu => ?_)
  have hlive := F.good.live_of_seat (seats_eq_some_iff.mpr ⟨u, hu, rfl, rfl⟩)
  split
  · exact F
  dsimp only
  split
  · exact (modChan_still _ _ _ rfl hlive).sound F
  · exact F

theorem sound_setNotifyBody (F : Sound s) (p : Port) (handle threshold : Byte) (wait : Word) (stats : Byte) :
    Sound (setNotifyBody p handle threshold wait stats s).state := by
  refine withHandle_keeps F (fun h u hu => ?_)
  split
  · exact F
  split_ifs
  · exact F
  · exact F
  · refine (setAtt_still s _ _ ?_).sound F
    rw [hu]
    rfl

theorem sound_setFilterBody (F : Sound s) (p : Port) (handle mode : Byte) (content : List Word) :
    Sound (setFilterBody p handle mode content s).state := by
  refine withHandle_keeps F (fun h u hu => ?_)
  split
  · exact F
  split_ifs
  · exact F
  · refine (setAtt_still s _ _ ?_).sound F
    rw [hu]
    rfl

theorem sound_peekBody (F : Sound s) (p : Port) (handle index : Byte) : Sound (peekBody p handle index s).state := by
  refine withHandle_keeps F (fun h u hu => ?_)
  dsimp only
  split_ifs
  · exact F
  · exact F
  · split <;> exact F

theorem sound_readHandBody (F : Sound s) (p : Port) (slot : Byte) : Sound (readHandBody p slot s).state := by
  unfold readHandBody
  split <;> exact F

theorem sound_readEventsBody (F : Sound s) (p : Port) (most : Byte) : Sound (readEventsBody p most s).state := by
  unfold readEventsBody
  split_ifs <;> exact F

theorem sound_readReceiptsBody (F : Sound s) (p : Port) (most : Byte) : Sound (readReceiptsBody p most s).state := by
  unfold readReceiptsBody
  split_ifs <;> exact F

theorem sound_dropEventsBody (F : Sound s) (p : Port) (number : Byte) : Sound (dropEventsBody p number s).state := by
  unfold dropEventsBody
  dsimp only
  split_ifs
  · exact F
  · exact F
  · exact (modPort_still s p _ ⟨rfl, rfl, rfl⟩).sound F

theorem sound_dropReceiptsBody (F : Sound s) (p : Port) (number : Byte) : Sound (dropReceiptsBody p number s).state := by
  unfold dropReceiptsBody
  dsimp only
  split_ifs
  · exact F
  · exact F
  · exact (modPort_still s p _ ⟨rfl, rfl, rfl⟩).sound F

end Sys2Proof.Machine
end

section
/-! SUPPORT. Binds in a row (O60): at a RESUME and at a POST (R100 to R103). -/

namespace Sys2Proof.Machine

variable {σ : Seating} {s t : State} {c : ChanId}

/-- From `s` to `t` takes have been bound: the laws go on holding, and nothing joins a list, a waiter list or a pending
set. -/
structure Binds (σ : Seating) (s t : State) : Prop where
  good : Good σ t
  seats : t.seats = s.seats
  calmer : ∀ d, Places.Calmer s.places t.places d
  state : t.places.state = s.places.state
  kind : t.places.kind = s.places.kind
  channel : t.places.channel = s.places.channel

theorem Binds.refl (G : Good σ s) : Binds σ s s := ⟨G, rfl, fun d => Places.Calmer.refl _ d, rfl, rfl, rfl⟩

theorem Binds.trans {u : State} (h : Binds σ s t) (g : Binds σ t u) : Binds σ s u :=
  ⟨g.good, g.seats.trans h.seats, fun d => (h.calmer d).trans (g.calmer d), g.state.trans h.state, g.kind.trans h.kind,
   g.channel.trans h.channel⟩

/-- A port awaits no record of a channel's list, among those of a set. -/
def Places.Served (P : Places) (c : ChanId) (X : RecId → Prop) (p : Port) : Prop :=
  p ∈ P.waiters c → ∀ h i, P.wait p = some (h, i) → ∀ r ∈ P.list c, X r → ⟨p, h⟩ ∉ P.pending r

theorem Places.Served.calmer {P Q : Places} {X : RecId → Prop} {p : Port} (h : P.Served c X p) (C : Places.Calmer P Q c) :
    Q.Served c X p := by
  intro hp k i hw r hr hx hin
  obtain ⟨hp, hwait⟩ := C.waiters p hp
  exact h hp k i (hwait ▸ hw) r (C.list r hr) hx (C.pending r hr _ hin)

theorem Places.Served.of_no_wait {P : Places} {X : RecId → Prop} {p : Port} (h : P.wait p = none) : P.Served c X p := by
  intro _ k i hw
  simp [h] at hw

/-- Each port of a list is served in its turn, and stays served. -/
theorem Binds.foldl {f : State → Port → State} {I : State → Prop} {X : RecId → Prop}
    (hI : ∀ x y, Binds σ x y → I x → I y)
    (hf : ∀ x p, Good σ x → I x → Binds σ x (f x p) ∧ (f x p).places.Served c X p) (l : List Port) (G : Good σ s)
    (hi : I s) :
    Binds σ s (l.foldl f s) ∧ ∀ p ∈ l, (l.foldl f s).places.Served c X p := by
  induction l generalizing s with
  | nil => exact ⟨.refl G, fun p hp => by simp at hp⟩
  | cons q rest ih =>
    obtain ⟨hb, hq⟩ := hf s q G hi
    obtain ⟨hrest, hserved⟩ := ih hb.good (hI _ _ hb hi)
    refine ⟨hb.trans hrest, fun p hp => ?_⟩
    rcases List.mem_cons.mp hp with rfl | hp
    · exact hq.calmer (hrest.calmer c)
    · exact hserved p hp

/-! ## Binds of a FANOUT channel (R102, R103) -/

section
variable (G : Good σ s) (hk : (s.chan c).kind = .fanout) {r : RecId} {p : Port} {w : ParkedTake}
  (hw : (s.port p).parked = some w) (hpend : ⟨p, w.handle⟩ ∈ (s.msg r).pending) (hc : (s.msg r).channel = some c)
include G hk hw hpend hc

/-- The subscriber of a parked take is bound to a record that it awaits. -/
theorem Good.bindFanout : Binds σ s (bindFanout s c r p) ∧ (bindFanout s c r p).places.wait p = none := by
  have L := G.laws
  have hlisted := L.stands_of_pending hpend
  obtain ⟨d, hd, hr⟩ := L.placed.listed r (Or.inr (Or.inl hlisted))
  obtain rfl : d = c := Option.some.inj (hd.symm.trans hc)
  have hwait : s.places.wait p = some (w.handle, w.slot) := wait_eq_some_iff.mpr ⟨w, hw, rfl, rfl⟩
  obtain ⟨e, he, hre⟩ := L.pends.seat r _ hpend
  obtain rfl : e = d := Option.some.inj (hre.symm.trans hc)
  obtain ⟨e', x, hx, -, hq⟩ := L.waits.listed p _ _ hwait
  rw [he, Option.some.injEq, Prod.mk.injEq] at hx
  rw [← hx.1] at hq
  have H := bindFanout_shift (G.live_of_list hr) hw hlisted hpend
  refine ⟨⟨H.good (G.bindFanout_laws hr hq hw hk hpend) G.tidy, H.seats, fun b => ?_, ?_, ?_, ?_⟩, ?_⟩
  all_goals rw [H.places]
  · exact (Places.calmer_unpark L.toCore hwait he b).trans (Places.calmer_takeFanout b)
  · rfl
  · rfl
  · rfl
  · exact Function.update_self _ _ _

end

/-- At a RESUME each parked subscriber is bound to the first record that it awaits. -/
theorem Good.bindWaiting (G : Good σ s) (hk : (s.chan c).kind = .fanout) (p : Port) : Binds σ s (bindWaiting s c p) ∧
    (bindWaiting s c p).places.Served c (fun _ => True) p := by
  unfold Machine.bindWaiting
  split
  · next hw => exact ⟨.refl G, .of_no_wait (by simp [State.places, hw])⟩
  · next w hw =>
    split
    · next hnone =>
      refine ⟨.refl G, fun _ h i hwait r hr _ hin => ?_⟩
      obtain ⟨w', hw', rfl, -⟩ := wait_eq_some_iff.mp hwait
      obtain rfl : w = w' := Option.some.inj (hw.symm.trans hw')
      exact List.find?_eq_none.mp hnone r hr (List.contains_iff_mem.mpr hin)
    · next r hsome =>
      have hr : r ∈ (s.chan c).list := List.mem_of_find?_eq_some hsome
      have hpend : ⟨p, w.handle⟩ ∈ (s.msg r).pending :=
        List.contains_iff_mem.mp (List.find?_some (p := fun r => (s.msg r).pending.contains ⟨p, w.handle⟩) hsome)
      obtain ⟨hb, hnone⟩ := G.bindFanout hk hw hpend (G.laws.lists.of c r hr)
      exact ⟨hb, .of_no_wait hnone⟩

/-- At a post each parked subscriber is bound to the new record if it awaits that. -/
theorem Good.bindFanout_or (G : Good σ s) (hk : (s.chan c).kind = .fanout) {r : RecId} (hc : (s.msg r).channel = some c)
    (p : Port) : Binds σ s (Machine.bindFanout s c r p) ∧ (Machine.bindFanout s c r p).places.Served c (fun q => q = r) p := by
  cases hw : (s.port p).parked with
  | none =>
    have h : Machine.bindFanout s c r p = s := by simp only [Machine.bindFanout, hw]
    rw [h]
    exact ⟨.refl G, .of_no_wait (by simp [State.places, hw])⟩
  | some w =>
    by_cases hpend : ⟨p, w.handle⟩ ∈ (s.msg r).pending
    · obtain ⟨hb, hnone⟩ := G.bindFanout hk hw hpend hc
      exact ⟨hb, .of_no_wait hnone⟩
    · have h : Machine.bindFanout s c r p = s := by simp [Machine.bindFanout, hw, hpend]
      rw [h]
      refine ⟨.refl G, fun _ h i hwait q _ hq hin => ?_⟩
      obtain ⟨w', hw', rfl, -⟩ := wait_eq_some_iff.mp hwait
      obtain rfl : w = w' := Option.some.inj (hw.symm.trans hw')
      exact hpend (hq ▸ hin)

/-! ## Binds of a POINT channel (R100, R103) -/

section
variable (G : Good σ s) {r : RecId} {q : Port} (hr : r ∈ (s.chan c).list) (ho : (s.chan c).state = .opened)
  (hk : (s.chan c).kind = .point) (hq : q ∈ (s.chan c).waiters)
include G hr ho hk hq

theorem Good.bindPoint : Binds σ s (bindPoint s c r q) ∧
    (bindPoint s c r q).places.list c = (s.places.list c).filter (fun x => x != r) ∧
    (bindPoint s c r q).places.waiters c = (s.places.waiters c).filter (fun x => x != q) := by
  obtain ⟨w, x, hw, hx, -, -⟩ := G.waiter hq
  have hwait : s.places.wait q = some (w.handle, w.slot) := wait_eq_some_iff.mpr ⟨w, hw, rfl, rfl⟩
  have H := bindPoint_shift (r := r) (show (s.chan c).state ≠ .free by simp [ho]) hw
  refine ⟨⟨H.good (G.bindPoint_laws hr ho hq hw hk) G.tidy, H.seats, fun b => ?_, ?_, ?_, ?_⟩, ?_, ?_⟩
  all_goals rw [H.places]
  · exact (Places.calmer_unpark G.laws.toCore hwait hx b).trans (Places.calmer_takePoint b)
  · rfl
  · rfl
  · rfl
  · exact Function.update_self _ _ _
  · exact Function.update_self _ _ _

end

theorem filter_head_of_nodup {α : Type} [DecidableEq α] {a : α} {l : List α} (hn : (a :: l).Nodup) :
    (a :: l).filter (fun x => x != a) = l := by
  rw [List.filter_cons_of_neg (by simp)]
  refine List.filter_eq_self.mpr (fun b hb => ?_)
  have hba : b ≠ a := fun e => (List.nodup_cons.mp hn).1 (e ▸ hb)
  simpa using hba

/-- Records are paired with waiters until one of the two lists is empty (R103). -/
theorem Good.bindPairs (l : List RecId) (m : List Port) (G : Good σ s) (ho : (s.chan c).state = .opened)
    (hk : (s.chan c).kind = .point) (hl : (s.chan c).list = l) (hm : (s.chan c).waiters = m) :
    Binds σ s ((l.zip m).foldl (fun x e => Machine.bindPoint x c e.1 e.2) s) ∧
      (((l.zip m).foldl (fun x e => Machine.bindPoint x c e.1 e.2) s).places.list c = [] ∨
        ((l.zip m).foldl (fun x e => Machine.bindPoint x c e.1 e.2) s).places.waiters c = []) := by
  induction l generalizing s m with
  | nil => exact ⟨.refl G, Or.inl hl⟩
  | cons r l ih =>
    cases m with
    | nil => exact ⟨.refl G, Or.inr hm⟩
    | cons q m =>
      obtain ⟨hb, hlist, hwaiters⟩ := G.bindPoint (r := r) (q := q) (by rw [hl]; simp) ho hk (by rw [hm]; simp)
      have hnl : (r :: l).Nodup := hl ▸ G.laws.lists.nodup c
      have hnm : (q :: m).Nodup := hm ▸ G.laws.waits.nodup c
      have hl' : (s.places.list c).filter (fun x => x != r) = l := by
        rw [show s.places.list c = r :: l from hl]
        exact filter_head_of_nodup hnl
      have hm' : (s.places.waiters c).filter (fun x => x != q) = m := by
        rw [show s.places.waiters c = q :: m from hm]
        exact filter_head_of_nodup hnm
      obtain ⟨hend, hdone⟩ := ih (s := Machine.bindPoint s c r q) m hb.good ((congrFun hb.state c).trans ho)
        ((congrFun hb.kind c).trans hk) (hlist.trans hl') (hwaiters.trans hm')
      exact ⟨hb.trans hend, hdone⟩

/-! ## RESUME (R140) -/

/-- The binds at a RESUME leave the channel quiet (R103). -/
theorem Good.bindAtResume (G : Good σ s) (ho : (s.chan c).state = .opened) : Binds σ s (bindAtResume s c) ∧
    (bindAtResume s c).places.Quiet c := by
  unfold Machine.bindAtResume
  cases hk : (s.chan c).kind with
  | point =>
    obtain ⟨hb, hdone⟩ := G.bindPairs _ _ ho hk rfl rfl
    exact ⟨hb, hdone.elim .of_list_nil .of_waiters_nil⟩
  | fanout =>
    obtain ⟨hb, hserved⟩ := Binds.foldl (σ := σ) (c := c) (f := fun x p => Machine.bindWaiting x c p)
      (I := fun x => (x.chan c).kind = .fanout) (X := fun _ => True) (fun x y h hx => (congrFun h.kind c).trans hx)
      (fun x p G hx => G.bindWaiting hx p) (s.chan c).waiters G hk
    refine ⟨hb, fun _ hp => ?_, fun _ _ _ p hp h i hw r hr => ?_⟩
    · exact absurd ((congrFun hb.kind c).symm.trans hp) (by show (s.chan c).kind ≠ _; simp [hk])
    · exact hserved p ((hb.calmer c).waiters p hp).1 hp h i hw r hr trivial

theorem sound_resumeBody (F : Sound s) (p : Port) (handle : Byte) : Sound (resumeBody p handle s).state := by
  refine withHandle_keeps F (fun h u hu => ?_)
  split
  swap
  · exact F
  have hlive := F.good.live_of_seat (seats_eq_some_iff.mpr ⟨u, hu, rfl, rfl⟩)
  have H := (held_shift s false hlive).still
    (announce_still (s.modChan u.channel (fun ch => { ch with held := false })) u.channel .channelResumed)
  have G := H.good (F.good.laws.flags _) F.good.tidy
  have hquiet : ∀ d, d ≠ u.channel →
      (announce (s.modChan u.channel (fun ch => { ch with held := false })) u.channel .channelResumed).places.Quiet d := by
    intro d hd
    rw [H.places]
    refine (F.quiet d).calmer ⟨id, fun _ => rfl, fun hh => ?_, fun _ => id, fun _ hp => ⟨hp, rfl⟩, fun _ _ _ => id⟩
    simpa [hd] using hh
  show Sound (resumeChannel s u.channel)
  unfold resumeChannel
  dsimp only
  split_ifs with hopen
  · obtain ⟨hb, hc⟩ := G.bindAtResume hopen
    show Fine (Machine.bindAtResume _ u.channel).seats _
    rw [hb.seats, H.seats]
    refine ⟨hb.good, fun d => ?_⟩
    by_cases hd : d = u.channel
    · exact hd ▸ hc
    · exact (hquiet d hd).calmer (hb.calmer d)
  · show Fine (announce _ u.channel .channelResumed).seats _
    rw [H.seats]
    refine ⟨G, fun d => ?_⟩
    by_cases hd : d = u.channel
    · refine .of_not_opened ?_
      rw [hd]
      exact hopen
    · exact hquiet d hd

end Sys2Proof.Machine
end

section
/-! SUPPORT. POST keeps the laws (O60): a shed, a new record, the watch compare, the binds and the drop of a record that
nobody takes (R52 to R60, R122). -/

namespace Sys2Proof.Machine

variable {σ : Seating} {s t : State} {c : ChanId}

/-! ## Reading the places after a shift -/

section
variable {Q : Places} (H : Shift s t Q)
include H

theorem Shift.stateOf (c : ChanId) : (t.chan c).state = Q.state c := congrFun (congrArg Places.state H.places) c
theorem Shift.kindOf (c : ChanId) : (t.chan c).kind = Q.kind c := congrFun (congrArg Places.kind H.places) c
theorem Shift.listOf (c : ChanId) : (t.chan c).list = Q.list c := congrFun (congrArg Places.list H.places) c
theorem Shift.standsOf (r : RecId) : (t.msg r).state = Q.stands r := congrFun (congrArg Places.stands H.places) r
theorem Shift.pendingOf (r : RecId) : (t.msg r).pending = Q.pending r := congrFun (congrArg Places.pending H.places) r
theorem Shift.holdersOf (r : RecId) : (t.msg r).holders = Q.holders r := congrFun (congrArg Places.holders H.places) r

end

/-! ## The new record -/

/-- The subscribers that a new record awaits. -/
def State.firstPending (s : State) (c : ChanId) (g : PostArgs) : List AttRef :=
  match (s.chan c).kind with
  | .point => []
  | .fanout => s.filtered c g.tag true

theorem buildRecord_shift (p : Port) (g : PostArgs) (r : RecId) (hc : (s.chan c).state ≠ .free) :
    Shift s (buildRecord s p c g r) (s.places.add c r ⟨p, (s.port p).serial⟩ (Places.standing .opened (s.chan c).kind)
      (s.firstPending c g)) := by
  have hstate : (newRecord s p c g (s.freeCells.take (cellsFor g.payload.length))).state =
      Places.standing .opened (s.chan c).kind := by
    unfold newRecord
    cases (s.chan c).kind <;> rfl
  have hpending : (newRecord s p c g (s.freeCells.take (cellsFor g.payload.length))).pending = s.firstPending c g := by
    unfold newRecord State.firstPending
    cases (s.chan c).kind <;> rfl
  have h0 : Still s { s with cells := writeCells s.cells g.payload (s.freeCells.take (cellsFor g.payload.length)) 0 } :=
    still_of_parts rfl (fun _ => rfl) (fun _ => rfl) rfl
  have h1 := h0.trans (modPort_still _ p (fun q => { q with
    serial := q.serial + 1, charge := q.charge + (s.freeCells.take (cellsFor g.payload.length)).length,
    reservations := q.reservations + bitValue g.receipt 1 }) ⟨rfl, rfl, rfl⟩)
  have h2 := modMsg_shift (({ s with cells := writeCells s.cells g.payload (s.freeCells.take (cellsFor g.payload.length)) 0 } :
    State).modPort p (fun q => { q with
      serial := q.serial + 1, charge := q.charge + (s.freeCells.take (cellsFor g.payload.length)).length,
      reservations := q.reservations + bitValue g.receipt 1 })) r
    (fun _ => newRecord s p c g (s.freeCells.take (cellsFor g.payload.length)))
    (fun h => absurd (hstate.symm.trans h) (by cases (s.chan c).kind <;> simp [Places.standing]))
  have h3 := modChan_shift ((({ s with
      cells := writeCells s.cells g.payload (s.freeCells.take (cellsFor g.payload.length)) 0 } : State).modPort p (fun q =>
    { q with
      serial := q.serial + 1, charge := q.charge + (s.freeCells.take (cellsFor g.payload.length)).length,
      reservations := q.reservations + bitValue g.receipt 1 })).modMsg r
    (fun _ => newRecord s p c g (s.freeCells.take (cellsFor g.payload.length)))) c (fun ch => { ch with list := ch.list ++ [r] })
    hc ⟨rfl, rfl, rfl, rfl⟩
  refine ((h1.then h2).trans h3).congr ?_
  rw [h2.places, h1.places, hstate, hpending]
  exact Places.ext rfl rfl rfl rfl (Function.update_eq_self c s.places.waiters) rfl rfl rfl rfl rfl rfl rfl rfl rfl rfl rfl

theorem mem_filtered_iff {a : AttRef} {tag : Word} {b : Bool} : a ∈ s.filtered c tag b ↔
    ∃ u, s.att a = some u ∧ u.channel = c ∧ u.role = .subscriber ∧ u.filter.passes tag = b := by
  unfold State.filtered
  rw [List.mem_filter]
  cases s.att a <;> simp [mem_allRefs, and_assoc]

theorem firstPending_seated {a : AttRef} {g : PostArgs} (ha : a ∈ s.firstPending c g) : s.seats a = some (c, .subscriber) := by
  unfold State.firstPending at ha
  split at ha
  · simp at ha
  · obtain ⟨u, hu, hc, hr, -⟩ := mem_filtered_iff.mp ha
    exact seats_eq_some_iff.mpr ⟨u, hu, hc, hr⟩

theorem nodup_firstPending (s : State) (c : ChanId) (g : PostArgs) : (s.firstPending c g).Nodup := by
  unfold State.firstPending
  split
  · exact List.nodup_nil
  · exact nodup_allRefs.filter _

theorem countFiltered_still (s : State) (tag : Word) (hc : (s.chan c).state ≠ .free) : Still s (countFiltered s c tag) := by
  have key : ∀ (l : List AttRef) (x : State), (x.chan c).state ≠ .free → Still x (l.foldl (fun x _ => bump x c .filtered) x) := by
    intro l
    induction l with
    | nil => exact fun x _ => .refl x
    | cons a rest ih =>
      intro x hx
      have hb := bump_still x .filtered hx
      refine hb.trans (ih _ ?_)
      rw [show ((bump x c .filtered).chan c).state = _ from congrFun (congrArg Places.state hb.places) c]
      exact hx
  unfold countFiltered
  split
  · exact .refl s
  · exact key _ s hc

/-- An accepted post up to its watch compare (R57, R58, R135). -/
def posted (s : State) (p : Port) (c : ChanId) (g : PostArgs) (r : RecId) : State :=
  watchCompare (bump (countFiltered (buildRecord s p c g r) c g.tag) c .posted) c g.tag ⟨p, (s.port p).serial⟩

theorem acceptPost_eq (s : State) (p : Port) (c : ChanId) (g : PostArgs) (r : RecId) : acceptPost s p c g r =
    dropIfNoTaker (arrivalsAtPost (bindAtPost (posted s p c g r) c r) c r) c r := rfl

/-- The places once the new record is in the list; the watch compare may have held the channel. -/
def Places.posted (P : Places) (c : ChanId) (r : RecId) (k : Ticket) (l : List AttRef) (f : ChanId → Bool) : Places :=
  { P.add c r k (Places.standing .opened (P.kind c)) l with held := f }

theorem live_after_add (G : Good σ s) {y : State} {r : RecId} {k : Ticket} {l : List AttRef}
    (hy : Shift s y (s.places.add c r k (Places.standing .opened (s.chan c).kind) l)) :
    ∀ q ∈ (y.chan c).list, (y.msg q).state ≠ .free := by
  intro q hq
  rw [hy.listOf] at hq
  rw [hy.standsOf]
  simp only [Places.add, Function.update_apply, if_true, List.mem_append, List.mem_singleton] at hq ⊢
  split_ifs with hqr
  · cases (s.chan c).kind <;> simp [Places.standing]
  · exact G.live_record (hq.resolve_right hqr)

theorem posted_shift (G : Good σ s) (p : Port) (g : PostArgs) (r : RecId) (hc : (s.chan c).state = .opened) :
    ∃ f : ChanId → Bool, (∀ d, d ≠ c → f d = s.places.held d) ∧ (s.places.held c = true → f c = true) ∧
      Shift s (posted s p c g r) (s.places.posted c r ⟨p, (s.port p).serial⟩ (s.firstPending c g) f) := by
  have hlive : (s.chan c).state ≠ .free := by simp [hc]
  have h1 := buildRecord_shift p g r hlive
  unfold posted
  generalize buildRecord s p c g r = y1 at h1 ⊢
  have h2 := h1.still (countFiltered_still y1 g.tag (by rw [h1.stateOf]; exact hlive))
  generalize countFiltered y1 c g.tag = y2 at h2 ⊢
  have h3 := h2.still (bump_still y2 .posted (by rw [h2.stateOf]; exact hlive))
  generalize bump y2 c .posted = y3 at h3 ⊢
  obtain ⟨f, hf, hfc, h4⟩ := watchCompare_shift (s := y3) (c := c) (by rw [h3.stateOf]; exact hlive) (live_after_add G h3) g.tag
    ⟨p, (s.port p).serial⟩
  rw [h3.places] at hf hfc h4
  exact ⟨f, hf, hfc, h3.trans h4⟩

/-! ## A record that somebody takes -/

theorem Places.calmer_posted {P : Places} {f : ChanId → Bool} {r : RecId} {k : Ticket} {l : List AttRef}
    (L : P.Core σ) (hr : P.stands r = .free) {d : ChanId} (hd : d ≠ c) (hf : f d = P.held d) :
    Places.Calmer P (P.posted c r k l f) d := by
  refine ⟨id, fun _ => rfl, fun h => hf.symm.trans h, fun q hq => ?_, fun _ hp => ⟨hp, rfl⟩, fun q hq a ha => ?_⟩
  all_goals replace hq : q ∈ P.list d := by simpa [Places.posted, Places.add, hd] using hq
  · exact hq
  · have hqr : q ≠ r := by
      rintro rfl
      exact L.not_listed_of_free hr d hq
    simpa [Places.posted, Places.add, hqr] using ha

section
variable {P : Places} {r : RecId} {k : Ticket} {l : List AttRef} {f : ChanId → Bool}
variable (L : P.Laws σ) (H : ∀ d, P.Quiet d) (hr : P.stands r = .free) (G : Good σ t) (ht : t.places = P.posted c r k l f)
  (ho : P.state c = .opened) (hf : ∀ d, d ≠ c → f d = P.held d) (hfc : P.held c = true → f c = true)
include H G ht ho hfc

/-- The binds of a POST leave the channel quiet (R59 step 3). -/
theorem Good.bindAtPost : Binds σ t (bindAtPost t c r) ∧ (bindAtPost t c r).places.Quiet c := by
  have hlist : (t.chan c).list = P.list c ++ [r] :=
    (congrFun (congrArg Places.list ht) c).trans (by simp [Places.posted, Places.add])
  have hstate : (t.chan c).state = .opened := (congrFun (congrArg Places.state ht) c).trans ho
  have hheld : (t.chan c).held = f c := congrFun (congrArg Places.held ht) c
  have hkind : (t.chan c).kind = P.kind c := congrFun (congrArg Places.kind ht) c
  have hwaiters : (t.chan c).waiters = P.waiters c := congrFun (congrArg Places.waiters ht) c
  have hwait : t.places.wait = P.wait := (congrArg Places.wait ht).trans rfl
  unfold Machine.bindAtPost
  split_ifs with hh
  · exact ⟨.refl G, .of_held hh⟩
  have hold : P.held c = false := by
    rw [← Bool.not_eq_true]
    exact fun h => hh (hheld.trans (hfc h))
  cases hk : (t.chan c).kind with
  | point =>
    dsimp only
    split
    · next hw => exact ⟨.refl G, .of_waiters_nil hw⟩
    · next q rest hw =>
      obtain ⟨hb, hafter, -⟩ := G.bindPoint (r := r) (q := q) (by rw [hlist]; simp) hstate hk (by rw [hw]; simp)
      refine ⟨hb, .of_list_nil ?_⟩
      have hnil : P.list c = [] := by
        refine ((H c).point ho (hkind.symm.trans hk) hold).resolve_right (fun h => ?_)
        rw [hwaiters, h] at hw
        simp at hw
      rw [hafter, show t.places.list c = _ from hlist, hnil]
      simp
  | fanout =>
    have hchannel : (t.msg r).channel = some c :=
      (congrFun (congrArg Places.channel ht) r).trans (by simp [Places.posted, Places.add])
    obtain ⟨hb, hserved⟩ := Binds.foldl (σ := σ) (c := c) (f := fun x p => Machine.bindFanout x c r p)
      (I := fun x => (x.chan c).kind = .fanout ∧ (x.msg r).channel = some c) (X := fun q => q = r)
      (fun x y h hx => ⟨(congrFun h.kind c).trans hx.1, (congrFun h.channel r).trans hx.2⟩)
      (fun x p G hx => G.bindFanout_or hx.1 hx.2 p) (t.chan c).waiters G ⟨hk, hchannel⟩
    refine ⟨hb, fun _ hp => ?_, fun _ _ _ p hp h i hw q hq => ?_⟩
    · exact absurd ((congrFun hb.kind c).symm.trans hp) (by show (t.chan c).kind ≠ _; simp [hk])
    · obtain ⟨hpt, hwt⟩ := (hb.calmer c).waiters p hp
      by_cases hqr : q = r
      · exact hserved p hpt hp h i hw q hq hqr
      · intro hin
        have hin := (hb.calmer c).pending q hq _ hin
        have hq := (hb.calmer c).list q hq
        rw [show t.places.list c = _ from hlist] at hq
        rw [hwt, hwait] at hw
        have hin' : ⟨p, h⟩ ∈ P.pending q := by
          rw [ht] at hin
          simpa [Places.posted, Places.add, hqr] using hin
        refine (H c).fanout ho (hkind.symm.trans hk) hold p (hwaiters ▸ hpt) h i hw q ?_ hin'
        simpa [hqr] using hq

include L hr hf

theorem Fine.afterPost : Fine σ (dropIfNoTaker (arrivalsAtPost (Machine.bindAtPost t c r) c r) c r) ∧
    (dropIfNoTaker (arrivalsAtPost (Machine.bindAtPost t c r) c r) c r).seats = t.seats := by
  obtain ⟨hb, hc⟩ := G.bindAtPost H ht ho hfc
  have hstill : Still (Machine.bindAtPost t c r) (arrivalsAtPost (Machine.bindAtPost t c r) c r) := by
    unfold arrivalsAtPost
    split
    · split
      · exact arriveAll_still _ _ _ _
      · exact .refl _
    · exact arriveAll_still _ _ _ _
  have F : Fine σ (arrivalsAtPost (Machine.bindAtPost t c r) c r) := by
    refine hstill.fine ⟨hb.good, fun d => ?_⟩
    by_cases hd : d = c
    · exact hd ▸ hc
    · refine (H d).calmer (Places.Calmer.trans ?_ (hb.calmer d))
      rw [ht]
      exact Places.calmer_posted L.toCore hr hd (hf d hd)
  have hdrop : dropIfNoTaker (arrivalsAtPost (Machine.bindAtPost t c r) c r) c r =
      arrivalsAtPost (Machine.bindAtPost t c r) c r := by
    unfold dropIfNoTaker
    split
    · next hlisted =>
      have hne : ((arrivalsAtPost (Machine.bindAtPost t c r) c r).msg r).pending ≠ [] := (F.good.laws.pends.listed r).mpr hlisted
      unfold settlePending
      rw [if_neg (fun h => hne (List.isEmpty_iff.mp h))]
    · rfl
  rw [hdrop]
  exact ⟨F, hstill.seats.trans hb.seats⟩

end

/-! ## A record that nobody takes (R122) -/

/-- A record that joins a list and is freed at once leaves everything as it was. -/
theorem posted_freed {r : RecId} {k : Ticket} {f : ChanId → Bool} (G : Good σ s) (hr : (s.msg r).state = .free) :
    (s.places.posted c r k [] f).freed c r = { s.places with held := f } := by
  have hfree := G.tidy.msg r hr
  have hlist : (s.places.list c ++ [r]).filter (fun x => x != r) = s.places.list c := by
    rw [List.filter_append, List.filter_cons_of_neg (by simp), List.filter_nil, List.append_nil]
    refine List.filter_eq_self.mpr (fun q hq => ?_)
    have hqr : q ≠ r := by
      rintro rfl
      exact G.laws.not_listed_of_free hr c hq
    simpa using hqr
  have hself : ∀ {α : Type} (field : RecId → α) (y : α) (z : α), field r = y →
      Function.update (Function.update field r z) r y = field := by
    intro α field y z hy
    rw [Function.update_idem, ← hy]
    exact Function.update_eq_self r field
  have hrec : ∀ {α : Type} (field : MsgRecord → α), field (s.msg r) = field MsgRecord.free := fun field => by rw [hfree]
  refine Places.ext rfl rfl rfl ?_ rfl rfl (hself s.places.stands _ _ (hrec MsgRecord.state))
    (hself s.places.ticket _ _ (hrec MsgRecord.ticket)) (hself s.places.channel _ _ (hrec MsgRecord.channel))
    (hself s.places.pending _ _ (hrec MsgRecord.pending)) (hself s.places.holders _ _ (hrec MsgRecord.holders))
    (hself s.places.receipted _ _ (hrec MsgRecord.receipted)) rfl rfl rfl rfl
  show Function.update (Function.update s.places.list c (s.places.list c ++ [r])) c
    ((Function.update s.places.list c (s.places.list c ++ [r]) c).filter (fun x => x != r)) = s.places.list
  rw [Function.update_self, hlist, Function.update_idem]
  exact Function.update_eq_self c s.places.list

/-- A FANOUT record that no subscriber awaits binds to nobody, is no arrival, and is freed. -/
theorem dropped_shift {r : RecId} (ht : (t.msg r).state = .listed ∧ (t.msg r).pending = [] ∧ (t.msg r).holders = [])
    (hk : (t.chan c).kind = .fanout) (hlive : (t.chan c).state ≠ .free) :
    Shift t (dropIfNoTaker (arrivalsAtPost (bindAtPost t c r) c r) c r) (t.places.freed c r) := by
  obtain ⟨hlisted, hpending, hholders⟩ := ht
  have hstep : ∀ p, bindFanout t c r p = t := by
    intro p
    unfold bindFanout
    split
    · rfl
    · simp [hpending]
  have hfold : ∀ l : List Port, l.foldl (fun x p => bindFanout x c r p) t = t := by
    intro l
    induction l with
    | nil => rfl
    | cons p rest ih => rw [List.foldl_cons, hstep, ih]
  have hbind : bindAtPost t c r = t := by
    unfold bindAtPost
    split
    · rfl
    · simp only [hk]
      exact hfold _
  have harrive : arrivalsAtPost t c r = t := by
    unfold arrivalsAtPost
    simp only [hk, hpending]
    rfl
  rw [hbind, harrive]
  unfold dropIfNoTaker settlePending
  rw [if_pos hlisted, if_pos (by simp [hpending]), if_pos (by simp [hholders])]
  exact freeRecord_shift t r hlive _ _

/-! ## POST -/

theorem calmer_flags {P : Places} {f : ChanId → Bool} (hf : ∀ d, d ≠ c → f d = P.held d) (hfc : P.held c = true → f c = true)
    (d : ChanId) : Places.Calmer P { P with held := f } d := by
  refine ⟨id, fun _ => rfl, fun hh => ?_, fun _ => id, fun _ hp => ⟨hp, rfl⟩, fun _ _ _ => id⟩
  have hh : f d = false := hh
  by_cases hd : d = c
  · subst hd
    rw [← Bool.not_eq_true]
    intro hheld
    simp [hfc hheld] at hh
  · exact (hf d hd).symm.trans hh

theorem sound_acceptPost (F : Sound s) (p : Port) (g : PostArgs) {r : RecId} (ho : (s.chan c).state = .opened)
    (hr : (s.msg r).state = .free) (hdepth : (s.chan c).list.length + (if (s.chan c).kind = .point then
      Places.handCount s.places.channel s.places.hand c else 0) < (s.chan c).depthLimit) : Sound (acceptPost s p c g r) := by
  obtain ⟨f, hf, hfc, H⟩ := posted_shift F.good p g r ho
  have L := F.good.laws
  rw [acceptPost_eq]
  generalize posted s p c g r = y at H ⊢
  by_cases hdrop : (s.chan c).kind = .fanout ∧ s.firstPending c g = []
  · obtain ⟨hk, hnil⟩ := hdrop
    rw [hnil] at H
    have hk' : s.places.kind c = .fanout := hk
    have hmsg : (y.msg r).state = .listed ∧ (y.msg r).pending = [] ∧ (y.msg r).holders = [] := by
      rw [H.standsOf, H.pendingOf, H.holdersOf]
      simp [Places.posted, Places.add, Places.standing, hk']
    have hlive : (y.chan c).state ≠ .free := by
      rw [H.stateOf, show (s.places.posted c r _ [] f).state c = _ from ho]
      simp
    have hend := (H.trans (dropped_shift hmsg ((H.kindOf c).trans hk) hlive)).congr (R := { s.places with held := f })
      (by rw [H.places]; exact posted_freed F.good hr)
    exact (hend.leads F (L.flags f) (fun d => (F.quiet d).calmer (calmer_flags hf hfc d))).sound
  · have hlx : s.firstPending c g ≠ [] ↔ Places.standing .opened (s.chan c).kind = .listed := by
      cases hk : (s.chan c).kind with
      | point => simp [State.firstPending, hk, Places.standing]
      | fanout => simpa [Places.standing] using fun h => hdrop ⟨hk, h⟩
    have hadd := L.add (t := ⟨p, (s.port p).serial⟩) hr ho rfl (nodup_firstPending s c g) hlx
      (fun a ha => firstPending_seated ha) hdepth
    have G : Good s.seats y := H.good (hadd.flags f) F.good.tidy
    obtain ⟨hfine, hseats⟩ := Fine.afterPost L F.quiet hr G H.places ho hf hfc
    rw [Sound, hseats, H.seats]
    exact hfine

/-- A record that is shed makes room for one (R55). -/
theorem room_after_shed {P : Places} (L : P.Laws σ) (ho : P.state c = .opened) {r : RecId} (hr : r ∈ P.list c) {Q : Places}
    (hQ : Q = P.drop r ∨ Q = P.unlist c r true) : Q.state c = .opened ∧
      (Q.list c).length + (if Q.kind c = .point then Places.handCount Q.channel Q.hand c else 0) < Q.depth c := by
  have hdeep := L.deep.opened c ho
  have hlen := Places.length_filter_ne_lt hr
  rcases hQ with rfl | rfl
  · have hcount := Places.handCount_drop_le (P := P) r c
    refine ⟨ho, ?_⟩
    show ((P.list c).filter (fun x => x != r)).length + (if P.kind c = .point then _ else 0) < P.depth c
    split_ifs at hdeep ⊢ <;> omega
  · refine ⟨ho, ?_⟩
    show (Function.update P.list c _ c).length +
      (if P.kind c = .point then Places.handCount P.channel P.hand c else 0) < P.depth c
    rw [Function.update_self]
    omega

theorem sound_refusePost (F : Sound s) (a : AttRef) (hlive : (s.chan c).state ≠ .free) (x : Result) :
    Sound (refusePost s a c x).state := by
  have hbump := (bump_still s .refused hlive).sound F
  unfold refusePost
  generalize bump s c .refused = y at hbump ⊢
  dsimp only
  split
  · have h : Still y (y.modAtt a (fun t => { t with roomWanted := true })) := modAtt_still y a _ (fun _ => ⟨rfl, rfl⟩)
    exact h.sound hbump
  · exact hbump

theorem occupancy_of_passes (h : depthCheck s c = .passes) : s.occupancy c < (s.chan c).depthLimit := by
  unfold depthCheck at h
  dsimp only at h
  split at h
  · assumption
  · split at h <;> cases h

theorem mem_list_of_sheds {r : RecId} (h : depthCheck s c = .sheds r) : r ∈ (s.chan c).list := by
  unfold depthCheck at h
  dsimp only at h
  split at h
  · cases h
  · split at h
    · next hl =>
      cases h
      rw [hl]
      simp
    · cases h

theorem sound_acceptReply (F : Sound s) (p : Port) (g : PostArgs) (ho : (s.chan c).state = .opened)
    (hdepth : (s.chan c).list.length + (if (s.chan c).kind = .point then
      Places.handCount s.places.channel s.places.hand c else 0) < (s.chan c).depthLimit) : Sound (acceptReply p c g s).state := by
  unfold acceptReply
  cases hr : s.nextRecord with
  | none => exact F
  | some r =>
    have h := sound_acceptPost F p g ho (state_of_nextRecord hr) hdepth
    dsimp only
    exact h

theorem sound_acceptReply_after_shed (F : Sound s) (p : Port) (g : PostArgs) (ho : (s.chan c).state = .opened) {r : RecId}
    (hr : r ∈ (s.chan c).list) : Sound (acceptReply p c g (shedRecord s c r)).state := by
  have F' := (F.shedRecord hr).sound
  obtain ⟨Q, hQ, H⟩ := F.shedRecord_shift hr
  obtain ⟨hopened, hroom⟩ := room_after_shed F.good.laws ho hr (hQ.imp_right And.left)
  generalize shedRecord s c r = y at F' H ⊢
  rw [← H.places] at hroom
  exact sound_acceptReply F' p g ((H.stateOf c).trans hopened) hroom

theorem sound_postBody (F : Sound s) (p : Port) (handle : Byte) (tag : Word) (flags : Byte) (lifetime : Word)
    (payload : List Byte) : Sound (postBody p handle tag flags lifetime payload s).state := by
  refine withHandle_keeps F (fun h u hu => ?_)
  dsimp only
  split
  · exact F
  split
  · exact F
  split
  · exact F
  next hopen =>
  have ho : (s.chan u.channel).state = .opened := not_not.mp hopen
  have hlive : (s.chan u.channel).state ≠ .free := by simp [ho]
  split
  · exact sound_refusePost F _ hlive _
  split
  · exact sound_refusePost F _ hlive _
  · next hpass =>
    refine sound_acceptReply F p _ ho ?_
    rw [← occupancy_of_opened F.good.laws.lists F.good.laws.hands ho]
    exact occupancy_of_passes hpass
  · next old hshed => exact sound_acceptReply_after_shed F p _ ho (mem_list_of_sheds hshed)

end Sys2Proof.Machine
end

section
/-! SUPPORT. The engine's steps, the expiries and the ticks keep the laws (O60). -/

namespace Sys2Proof.Machine

variable {σ : Seating} {s t : State} {c : ChanId}

theorem endOfEvent_still (before after : State) : Still after (endOfEvent before after) := by
  refine Still.foldl _ (fun c _ s => ?_) after
  split
  · exact roomCheck_still s c
  · exact .refl s

/-! ## The engine (R42, R43) -/

theorem stepTaken_still (s : State) : Still s (stepTaken s) := still_of_parts rfl (fun _ => rfl) (fun _ => rfl) rfl

theorem sound_recordStep (F : Sound s) : Sound (recordStep s) := by
  unfold recordStep
  split
  · exact F
  split
  · exact F
  next e rest _ _ r rs hl =>
    have H := F.reclaimRecord (c := e.channel) (r := r) (by rw [hl]; simp)
    exact (stepTaken_still _).sound ((endOfEvent_still s _).sound H.sound)

theorem reclaim_shift (s : State) (l : List WorkEntry) : Shift s { s with reclaim := l }
    { s.places with work := l.map (fun e => (e.channel, e.count.isSome)) } :=
  ⟨rfl, rfl, fun hs => ⟨hs.chan, hs.msg⟩⟩

/-- The places once a purge is complete. -/
def Places.purged (P : Places) (c : ChanId) (w : List (ChanId × Bool)) : Places :=
  { P with state := Function.update P.state c .opened, work := w }

theorem completePurge_shift (s : State) (c : ChanId) (n : Nat) : Shift s (completePurge s c n)
    { s.places with state := Function.update s.places.state c .opened } := by
  have hchan : ∀ d, (s.modChan c (fun ch => { ch with state := .opened, purger := none })).chan d =
      if d = c then { s.chan c with state := .opened, purger := none } else s.chan d := chan_modChan s c _
  have H : Shift s (s.modChan c (fun ch => { ch with state := .opened, purger := none }))
      { s.places with state := Function.update s.places.state c .opened } := by
    refine ⟨?_, rfl, fun hs => ⟨tidy_of_chan hchan (fun h => by simp at h) hs, hs.msg⟩⟩
    exact Places.ext (field_update hchan Channel.state) (field_kept hchan Channel.kind rfl)
      (field_kept hchan Channel.depthLimit rfl) (field_kept hchan Channel.list rfl) (field_kept hchan Channel.waiters rfl)
      (field_kept hchan Channel.held rfl) rfl rfl rfl rfl rfl rfl rfl rfl rfl rfl
  unfold completePurge
  dsimp only
  refine Shift.still ?_ (roomCheck_still _ c)
  split
  · exact H.still (queueEvent_still _ _ _)
  · exact H

section
variable (F : Sound s) {e : WorkEntry} {rest : List WorkEntry} (hq : s.reclaim = e :: rest)
  (hl : (s.chan e.channel).list = [])
include F hq

theorem Fine.work_tail : s.places.work.filter (fun x => x.1 != e.channel) =
    rest.map (fun e => (e.channel, e.count.isSome)) := by
  refine F.good.laws.works.tail_eq (b := e.count.isSome) ?_
  show s.reclaim.map _ = _
  rw [hq]
  rfl

include hl

/-- A PURGING channel becomes OPEN (R43). -/
theorem Fine.purge_done (hc : (s.chan e.channel).state = .purging) :
    Sound { completePurge s e.channel (e.count.getD 0) with reclaim := rest } := by
  have H := completePurge_shift s e.channel (e.count.getD 0)
  generalize completePurge s e.channel (e.count.getD 0) = y at H ⊢
  have K := (H.trans (reclaim_shift y rest)).congr
    (R := s.places.purged e.channel (rest.map (fun e => (e.channel, e.count.isSome)))) (by rw [H.places]; rfl)
  have hworks : Places.Works (Function.update s.places.state e.channel .opened)
      (rest.map (fun e => (e.channel, e.count.isSome))) := by
    rw [← F.work_tail hq]
    exact F.good.laws.works.leave (by simp)
  refine Leads.sound (K.leads F (F.good.laws.reopen hc hl hworks) (fun d => ?_))
  by_cases hd : d = e.channel
  · exact .of_list_nil (hd ▸ hl)
  · refine (F.quiet d).calmer ⟨fun h => ?_, fun _ => rfl, id, fun _ => id, fun _ hp => ⟨hp, rfl⟩, fun _ _ _ => id⟩
    simpa [Places.purged, hd] using h

omit hq in
/-- A CLOSING channel becomes FREE (R43). -/
theorem Fine.close_done (hc : (s.chan e.channel).state = .closing) : Sound (freeChannel s e.channel) := by
  have hno : ∀ a y, s.seats a ≠ some (e.channel, y) := by
    intro a y ha
    have := F.good.laws.seats.opens a _ y ha
    rw [show s.places.state e.channel = _ from hc] at this
    simp at this
  refine Leads.sound ((freeChannel_shift s e.channel).leads F
    ⟨F.good.laws.toCore.renew hno hl (F.good.laws.works.leave (by simp)), fun d hd => ?_⟩ (Places.quiet_renew F.quiet))
  have hdc : d ≠ e.channel := by
    rintro rfl
    simp [Places.renew] at hd
  refine F.good.laws.seated d ?_
  simpa [Places.renew, hdc] using hd

end

theorem sound_completionStep (F : Sound s) : Sound (completionStep s) := by
  unfold completionStep
  split
  · exact F
  next e rest hq =>
  split
  swap
  · exact F
  next hempty =>
  have hl := List.isEmpty_iff.mp hempty
  have hbusy : (s.chan e.channel).state = .purging ∨ (s.chan e.channel).state = .closing := by
    refine (F.good.laws.works.busy e.channel).mpr ?_
    simp [State.places, hq]
  refine (stepTaken_still _).sound ?_
  rcases hbusy with hc | hc
  · simp only [hc]
    exact F.purge_done hq hl hc
  · simp only [hc]
    exact F.close_done hl hc

theorem sound_engineStep (F : Sound s) : Sound (engineStep s) := by
  unfold engineStep
  split
  · exact F
  · split
    · exact sound_completionStep F
    · exact sound_recordStep F

/-! ## Expiries -/

/-- A record whose lifetime is due stands in its channel's list (R65). -/
theorem Fine.listed_of_due (F : Sound s) {r : RecId} (hdue : s.ticksLeft (.lifetime r) = some 0)
    (hc : (s.msg r).channel = some c) : r ∈ (s.chan c).list := by
  rw [ticksLeft_lifetime] at hdue
  split at hdue
  · next hrun =>
    unfold State.lifetimeRunning at hrun
    simp only [Bool.and_eq_true, Bool.or_eq_true, beq_iff_eq] at hrun
    obtain ⟨d, hd, hr⟩ := F.good.laws.placed.listed r (hrun.1.imp_right Or.inl)
    obtain rfl : d = c := Option.some.inj (hd.symm.trans hc)
    exact hr
  · cases hdue

theorem sound_expireWait (F : Sound s) {p : Port} {w : ParkedTake} (hw : s.parkedOn p = some (c, w)) :
    Sound (expireWait s p c w) := by
  obtain ⟨hparked, x, hx⟩ := parkedOn_eq_some_iff.mp hw
  exact (queueEvent_still _ _ _).sound (Fine.dropParked hparked hx F).sound

theorem sound_expireLease (F : Sound s) {p : Port} {i : Slot} {r : RecId} {h : Handle} {t : Ticket} {lease : Option Nat}
    (hs : s.slot p i = .holding r h t lease) : Sound (expireLease s p i r h t) := by
  have hi := hand_eq_some_iff.mpr ⟨lease, hs⟩
  exact (F.handBackRecord hi ((empty_shift hi).still (queueEvent_still _ _ _))).sound

theorem sound_expire (F : Sound s) (x : Expiry) (hdue : s.ticksLeft x = some 0) : Sound (expire s x) := by
  cases x with
  | lifetime r =>
    simp only [expire]
    split
    · next c hc => exact (endOfEvent_still s _).sound (F.expireRecord (F.listed_of_due hdue hc)).sound
    · exact F
  | wait p =>
    simp only [expire]
    split
    · next c w hw => exact (endOfEvent_still s _).sound (sound_expireWait F hw)
    · exact F
  | lease p i =>
    simp only [expire]
    split
    · next r h t lease hs => exact (endOfEvent_still s _).sound (sound_expireLease F hs)
    · exact F
  | penalty p => exact (modPort_still s p _ ⟨rfl, rfl, rfl⟩).sound F
  | coalescing p h =>
    simp only [expire]
    split
    · next u hu =>
      refine (Still.trans ?_ (queueEvent_still _ _ _)).sound F
      exact modAtt_still s ⟨p, h⟩ _ (fun _ => ⟨rfl, rfl⟩)
    · exact F

/-! ## Every event -/

theorem sound_stable : Stable Sound where
  face s p f hf F := (modPort_still s p f
    ⟨(congrArg PortState.slots hf).trans rfl, (congrArg PortState.parked hf).trans rfl,
     (congrArg PortState.attachments hf).trans rfl⟩).sound F
  draws s n F := (still_of_parts (s := s) (t := { s with draws := n }) rfl (fun _ => rfl) (fun _ => rfl) rfl).sound F
  gap s n F := (still_of_parts (s := s) (t := { s with engineGap := n }) rfl (fun _ => rfl) (fun _ => rfl) rfl).sound F
  room s c F := (roomCheck_still s c).sound F
  engine _ F := sound_engineStep F
  due _ x F hdue := sound_expire F x hdue
  tick n s F := (advance_still n s).sound F

theorem sound_resetPart (s : State) : Sound (resetPart s) :=
  (still_of_parts (s := State.reset) (t := resetPart s) rfl (fun _ => rfl) (fun _ => rfl) rfl).sound
    (sound_iff.mpr lawful_reset)

theorem sound_body {i : Instr} {b : State → Reply} (hb : bodyOf i = some b) (F : Sound s) : Sound (b s).state := by
  cases i <;> cases hb
  case hello => exact sound_helloBody F _ _ _
  case status => exact F
  case create => exact sound_createBody F _ _ _ _ _ _ _ _
  case attach => exact sound_attachBody F _ _ _ _ _
  case detach => exact withHandle_keeps F (fun h _ _ => sound_detach F _)
  case purge => exact sound_purgeBody F _ _
  case channelInfo => exact withHandle_keeps F (fun _ _ _ => F)
  case post => exact sound_postBody F _ _ _ _ _ _
  case take => exact sound_takeBody F _ _ _
  case readHand => exact sound_readHandBody F _ _
  case release => exact sound_releaseBody F _ _ _ _
  case giveBack => exact sound_giveBackBody F _ _ _ _
  case cancelWait => exact sound_cancelWaitBody F _
  case setNotify => exact sound_setNotifyBody F _ _ _ _ _
  case setFilter => exact sound_setFilterBody F _ _ _ _
  case watch => exact sound_watchBody F _ _ _ _ _
  case unwatch => exact sound_unwatchBody F _ _
  case hold => exact sound_holdBody F _ _
  case resume => exact sound_resumeBody F _ _
  case peek => exact sound_peekBody F _ _ _
  case readStats => exact sound_readStatsBody F _ _ _
  case readEvents => exact sound_readEventsBody F _ _
  case dropEvents => exact sound_dropEventsBody F _ _
  case readReceipts => exact sound_readReceiptsBody F _ _
  case dropReceipts => exact sound_dropReceiptsBody F _ _

/-- Settles O60: the laws, read as laws of places, are kept by every event. -/
theorem lawfulIsKept : Obligations.LawfulIsKept := by
  intro s t hs ht
  have F : Sound t := sound_stable.step (fun u _ => sound_resetPart u)
    (fun u q hu => (still_of_parts (s := u) (t := { u with pending := q }) rfl (fun _ => rfl) (fun _ => rfl) rfl).sound hu)
    (fun i b hb u hu => sound_body hb hu) (sound_iff.mpr hs) ht
  exact sound_iff.mp F

end Sys2Proof.Machine
end
